-- ==== Sys2Proof/Word.lean ====
section
/-! DEFINITION. The numbers the manual speaks of: bytes, station time, string numbers, peer addresses, line levels. -/

namespace Sys2Proof

/-- One character's data bits, or one byte of the serial memory. -/
abbrev Byte := BitVec 8

/-- Station time: ms since the last reset, modulo 2^32 (00_scope.md, Time). -/
abbrev Time := BitVec 32

/-- A string of the box. The string the manual numbers k is the value k − 1. -/
abbrev StringNo := Fin 12

/-- A station address 1..31 of the Peer Table. The address a is the value a − 1 (R121). -/
abbrev PeerNo := Fin 31

/-- One value for each of the twelve strings. -/
abbrev PerString (α : Type) := Vector α 12

/-- The two levels of the peer line: dominant is logic 0, recessive logic 1 (R95). -/
inductive Level where
  | dominant
  | recessive
  deriving DecidableEq, Repr

/-- The station time a number of ms after another. -/
abbrev Time.plus (t : Time) (ms : Nat) : Time := t + BitVec.ofNat 32 ms

/-- The ms from an earlier station time to a later one, modulo 2^32 (00_scope.md, Time). -/
abbrev Time.since (now start : Time) : Nat := (now - start).toNat

/-- The number of a string as the manual writes it, 1..12. -/
abbrev StringNo.number (k : StringNo) : Nat := k.val + 1

/-- The address of a Peer Table entry, 1..31. -/
abbrev PeerNo.address (p : PeerNo) : Nat := p.val + 1

end Sys2Proof
end

