-- ==== Sys2Proof/Config.lean ====
section
/-! DEFINITION. What an installation fixes (the configuration record, 9.3) and the free values of the model. -/

namespace Sys2Proof

/-- What a GROUND decision does below GF_TRIP (R52). -/
inductive GroundAction where
  | isolate
  | report
  deriving DecidableEq, Repr

/-- The configuration fields of 9.3 in the units of its table. Numbers are counts, so natural numbers. -/
structure Settings where
  /-- LINE_RATE, bit/s. -/
  lineRate : Nat
  /-- RX_FLOOR, receiver level. -/
  rxFloor : Nat
  /-- ERR_LIM, errors. -/
  errLim : Nat
  /-- SILENCE_LIM, s. -/
  silenceLim : Nat
  /-- STATUS_PERIOD, s. -/
  statusPeriod : Nat
  /-- I_MIN_ARC, 10 mA. -/
  iMinArc : Nat
  /-- ARC_ONSET, tenths. -/
  arcOnset : Nat
  /-- ARC_QUAL, intervals. -/
  arcQual : Nat
  /-- SEL_WIN, ms. -/
  selWin : Nat
  /-- YIELD_HOLD, ms. -/
  yieldHold : Nat
  /-- ARC_ROUNDS. -/
  arcRounds : Nat
  /-- REV_LIM, 10 mA. -/
  revLim : Nat
  /-- REV_QUAL, intervals. -/
  revQual : Nat
  /-- OC_LIM, 10 mA. -/
  ocLim : Nat
  /-- OC_QUAL, intervals. -/
  ocQual : Nat
  /-- RECLOSE_MAX. -/
  recloseMax : Nat
  /-- RECLOSE_DELAY, s. -/
  recloseDelay : Nat
  /-- PULSE_MS, ms. -/
  pulseMs : Nat
  /-- CONFIRM_MS, ms. -/
  confirmMs : Nat
  /-- PROBE_PERIOD, min. -/
  probePeriod : Nat
  /-- PROBE_HP, ms. -/
  probeHp : Nat
  /-- PROBE_NP, halves. -/
  probeNp : Nat
  /-- PROBE_SETTLE, ms. -/
  probeSettle : Nat
  /-- SHIFT_MIN, V. -/
  shiftMin : Nat
  /-- LOC_MIN, rank. -/
  locMin : Nat
  /-- GF_TRIP, kΩ. -/
  gfTrip : Nat
  /-- GF_ACTION. -/
  gfAction : GroundAction
  /-- BAL_SHIFT, thousandths. -/
  balShift : Nat
  deriving DecidableEq, Repr

/-- FREE VALUE. The bytes the serial memory holds in a slot whose write stayed busy, or was cut by a reset
(R185 says no more than that such a slot is bad after a reset). Nothing constrains it; the argument is
`State.freeCount`. Log entry 6. -/
opaque Config.freeByte : Nat → Byte

/-- FREE VALUE. Whether the capture of a listener's window that was OK, undisturbed and not low replaces the balance
reference when the window is unusable or the halves injected differ from NP. R73 and R88 step 5 replace it, a row of R92 keeps
it, and no file of the spec rules between them. Nothing constrains the answer; the arguments are whether the window is usable and
whether its halves injected are NP. Log entry 29. -/
opaque Config.takesCapture : Bool → Bool → Bool

end Sys2Proof
end

