-- ==== Sys2Proof/Syntax.lean ====
section
/-! DEFINITION. The commands: one constructor per row of spec/opcode_table.json. The table gives no operands; an operand
is what the rule of the row takes from outside at the event (log entry 1). -/

namespace Sys2Proof

/-- The coil-current comparator input (R146). -/
inductive CoilReading where
  | none
  | normal
  | over
  deriving DecidableEq, Repr

/-- The two key inputs of the box (R168, R173). -/
inductive Key where
  | arrayStop
  | lockout
  deriving DecidableEq, Repr

/-- The kinds of frame the Claim Log holds (R26). -/
inductive ClaimKind where
  | arcClaim
  | isolated
  | locate
  deriving DecidableEq, Repr

/-- The 40 raw samples of one string's three inputs in one interval (R1): current in 10 mA, arc-band energy
in counts, residual current in 0.1 mA, before the clamping of R3. -/
structure StringSamples where
  current : List Int
  energy : List Nat
  residual : List Int
  deriving DecidableEq, Repr

/-- All raw samples of one analysis interval: the strings in the order of their numbers, the two ground
voltages (R1), and the injector current and probe voltage sense (R65, R66). -/
structure IntervalSamples where
  strings : List StringSamples
  vpg : List Nat
  vng : List Nat
  injector : List Int
  sense : List Nat
  deriving DecidableEq, Repr

/-- A level of the supply pin, in mV, and for how many ms the pin held it. -/
structure SupplySpan where
  millivolts : Nat
  held : Nat
  deriving DecidableEq, Repr

/-- What the supply monitor watched up to an event (R186): the station time in ms since the command before, and the course of
the supply pin, newest first (log entry 28). -/
structure SupplyWatch where
  dt : Nat
  course : List SupplySpan
  deriving DecidableEq, Repr

/-- The system pins at the moment a reset may end (R176, R186): whether RESET is asserted, the level of the supply pin in mV,
and the levels it had since the reset began, newest first (log entry 28). -/
structure StartPins where
  resetAsserted : Bool
  supply : Nat
  before : List Nat
  deriving DecidableEq, Repr

/-- What the sender has read back of its attempt (R107): the station time in ms since the command before, and the level read in each
bit of the attempt, from its first start bit to the bit the event falls in (log entry 31). -/
structure ReadBack where
  dt : Nat
  read : List Level
  deriving DecidableEq, Repr

/-- A dominant run still going on (R116): the station time in ms since the command before, and the ms since its first dominant
bit, without interruption (log entry 25). -/
structure DominantRun where
  dt : Nat
  run : Nat
  deriving DecidableEq, Repr

/-- The commands. `dt` is the station time in ms that has passed since the command before (log entry 1). -/
inductive Instr where
  /-- RESET (R176): power-on, the RESET pin or a supply below the reset threshold, which have the same effect. -/
  | reset
  /-- READING_START (R177): the straps, the system pins by which the reset ends (R176, R186), and whether the serial memory
  answers (R178). -/
  | readingStart (dt : Nat) (addressStraps : BitVec 5) (countStraps : BitVec 4) (pins : StartPins) (memoryAnswers : Bool)
  /-- HAND_OVER (R181): the contact feedback inputs (true is closed) and which slot reads are answered, by
  string. -/
  | handOver (dt : Nat) (contactClosed slotAnswers : List Bool)
  /-- LISTEN_END (R183). -/
  | listenEnd (dt : Nat)
  /-- REMEMBERED_STOP_EXPIRY (R172). -/
  | rememberedStopExpiry (dt : Nat)
  /-- INTERVAL_COMPLETION (R1). -/
  | intervalCompletion (dt : Nat) (samples : IntervalSamples)
  /-- SUPPLY_LOW (R186), with the course of the supply pin up to it. -/
  | supplyLow (watch : SupplyWatch)
  /-- SUPPLY_RUN (R186), with the course of the supply pin up to it. -/
  | supplyRun (watch : SupplyWatch)
  /-- CHARACTER_TAKEN (R100): data bits, mark bit and stop bit as read. -/
  | characterTaken (dt : Nat) (data : Byte) (mark stop : Level)
  /-- CHARACTER_GAP_EXPIRY (R100). -/
  | characterGapExpiry (dt : Nat)
  /-- FRAME_COMPLETION (R101). -/
  | frameCompletion (dt : Nat)
  /-- IDLE_GAP (R98). -/
  | idleGap (dt : Nat)
  /-- ARBITRATION_LOSS (R107): what was read back of the attempt. -/
  | arbitrationLoss (back : ReadBack)
  /-- BIT_ERROR (R108): what was read back of the attempt, and whether the mismatch is the dominant run of a break (R120,
  log entry 9). -/
  | bitError (back : ReadBack) (byBreak : Bool)
  /-- TRANSMIT_COMPLETED (R109): what was read back of the attempt. -/
  | transmitCompleted (back : ReadBack)
  /-- HEALTH_PERIOD_END (R111). -/
  | healthPeriodEnd (dt : Nat)
  /-- SILENCE_EXPIRY (R114). -/
  | silenceExpiry (dt : Nat)
  /-- PEER_SILENCE_EXPIRY (R123) of one entry. -/
  | peerSilenceExpiry (dt : Nat) (peer : PeerNo)
  /-- STUCK_LINE (R116): how long the line has been dominant. -/
  | stuckLine (line : DominantRun)
  /-- LINE_FREED (R116). -/
  | lineFreed (dt : Nat)
  /-- BREAK_RECOGNISED (R119): the length in ms of the dominant run that has just ended. -/
  | breakRecognised (dt : Nat) (run : Nat)
  /-- BREAK_DRIVE_END (R118). -/
  | breakDriveEnd (dt : Nat)
  /-- CLAIM_EXPIRY (R28) of the entry of one source and kind. -/
  | claimExpiry (dt : Nat) (source : PeerNo) (kind : ClaimKind)
  /-- DECISION_POINT (R38). -/
  | decisionPoint (dt : Nat)
  /-- GROUND_DECISION (R52). -/
  | groundDecision (dt : Nat)
  /-- YIELD_HOLD_EXPIRY (R41). -/
  | yieldHoldExpiry (dt : Nat)
  /-- RECENT_DECISION_EXPIRY (R48). -/
  | recentDecisionExpiry (dt : Nat)
  /-- PROBE_DUE_EXPIRY (R59). -/
  | probeDueExpiry (dt : Nat)
  /-- DUE_RETRY (R59). -/
  | dueRetry (dt : Nat)
  /-- STAGGER_EXPIRY (R60). -/
  | staggerExpiry (dt : Nat)
  /-- REFERENCE_HALF_END (R65). -/
  | referenceHalfEnd (dt : Nat)
  /-- INJECTION_START (R64). -/
  | injectionStart (dt : Nat)
  /-- INJECTION_HALF_END (R66). -/
  | injectionHalfEnd (dt : Nat)
  /-- HALF_EXPIRY (R80). -/
  | halfExpiry (dt : Nat)
  /-- W_MAX_EXPIRY (R90). -/
  | wMaxExpiry (dt : Nat)
  /-- STATUS_POINT (R128). -/
  | statusPoint (dt : Nat)
  /-- SOURCE_READY (R145). -/
  | sourceReady (dt : Nat)
  /-- RECHARGE_EXPIRY (R145). -/
  | rechargeExpiry (dt : Nat)
  /-- COIL_OVER (R146). -/
  | coilOver (dt : Nat)
  /-- PULSE_END (R146): the comparator reading at the pulse end. -/
  | pulseEnd (dt : Nat) (reading : CoilReading)
  /-- CONTACT_FEEDBACK_CHANGE (R147) of one string's input. -/
  | contactFeedbackChange (dt : Nat) (string : StringNo) (closed : Bool)
  /-- CONFIRM_EXPIRY (R147). -/
  | confirmExpiry (dt : Nat)
  /-- PUSHBUTTON_INPUT_CHANGE (R160). -/
  | pushbuttonInputChange (dt : Nat) (pressed : Bool)
  /-- PUSHBUTTON_FILTER_EXPIRY (R160). -/
  | pushbuttonFilterExpiry (dt : Nat)
  /-- KEY_INPUT_CHANGE (R168) of one key input. -/
  | keyInputChange (dt : Nat) (key : Key) (closed : Bool)
  /-- KEY_ACCEPT_EXPIRY (R168) of one key. -/
  | keyAcceptExpiry (dt : Nat) (key : Key)
  /-- STOP_REPEAT_EXPIRY (R169). -/
  | stopRepeatExpiry (dt : Nat)
  /-- RECLOSE_EXPIRY (R165) of one string. -/
  | recloseExpiry (dt : Nat) (string : StringNo)
  /-- CLOSED_TIMER_EXPIRY (R167) of one string. -/
  | closedTimerExpiry (dt : Nat) (string : StringNo)
  /-- MEMO_WRITE_DONE (R185): the three bytes the slot reads back, value and check. -/
  | memoWriteDone (dt : Nat) (value checkHigh checkLow : Byte)
  /-- MEMO_BUSY_TIMEOUT (R185). -/
  | memoBusyTimeout (dt : Nat)
  deriving DecidableEq, Repr

end Sys2Proof
end

