-- ==== Sys2Proof/WellFormed.lean ====
section
/-! DEFINITION. Which commands can occur: the sizes of what they carry. Execution is total all the same. -/

namespace Sys2Proof

/-- The ms a command says have passed since the one before; RESET restarts station time (R176). -/
def Instr.wait : Instr → Nat
  | .reset => 0
  | .readingStart dt _ _ _ _ => dt
  | .handOver dt _ _ => dt
  | .listenEnd dt => dt
  | .rememberedStopExpiry dt => dt
  | .intervalCompletion dt _ => dt
  | .supplyLow w => w.dt
  | .supplyRun w => w.dt
  | .characterTaken dt _ _ _ => dt
  | .characterGapExpiry dt => dt
  | .frameCompletion dt => dt
  | .idleGap dt => dt
  | .arbitrationLoss back => back.dt
  | .bitError back _ => back.dt
  | .transmitCompleted back => back.dt
  | .healthPeriodEnd dt => dt
  | .silenceExpiry dt => dt
  | .peerSilenceExpiry dt _ => dt
  | .stuckLine line => line.dt
  | .lineFreed dt => dt
  | .breakRecognised dt _ => dt
  | .breakDriveEnd dt => dt
  | .claimExpiry dt _ _ => dt
  | .decisionPoint dt => dt
  | .groundDecision dt => dt
  | .yieldHoldExpiry dt => dt
  | .recentDecisionExpiry dt => dt
  | .probeDueExpiry dt => dt
  | .dueRetry dt => dt
  | .staggerExpiry dt => dt
  | .referenceHalfEnd dt => dt
  | .injectionStart dt => dt
  | .injectionHalfEnd dt => dt
  | .halfExpiry dt => dt
  | .wMaxExpiry dt => dt
  | .statusPoint dt => dt
  | .sourceReady dt => dt
  | .rechargeExpiry dt => dt
  | .coilOver dt => dt
  | .pulseEnd dt _ => dt
  | .contactFeedbackChange dt _ _ => dt
  | .confirmExpiry dt => dt
  | .pushbuttonInputChange dt _ => dt
  | .pushbuttonFilterExpiry dt => dt
  | .keyInputChange dt _ _ => dt
  | .keyAcceptExpiry dt _ => dt
  | .stopRepeatExpiry dt => dt
  | .recloseExpiry dt _ => dt
  | .closedTimerExpiry dt _ => dt
  | .memoWriteDone dt _ _ _ => dt
  | .memoBusyTimeout dt => dt

/-- An interval takes 40 samples of each input of a string (R1). -/
def StringSamples.wellFormed (x : StringSamples) : Bool :=
  x.current.length == 40 && x.energy.length == 40 && x.residual.length == 40

/-- An interval's samples: twelve strings (those of unfitted strings are not used, R1), 40 samples per input. -/
def IntervalSamples.wellFormed (x : IntervalSamples) : Bool :=
  x.strings.length == 12 && x.strings.all StringSamples.wellFormed && x.vpg.length == 40
    && x.vng.length == 40 && x.injector.length == 40 && x.sense.length == 40

/-- What only some commands carry: one reading per string at the hand-over, whole sample sets, no more bits read back than the
longest frame has (R97), and a break of 200 ms or more and less than 1500 ms (R119). -/
def Instr.operandsFit : Instr → Bool
  | .handOver _ contacts answers => contacts.length == 12 && answers.length == 12
  | .intervalCompletion _ x => x.wellFormed
  | .arbitrationLoss back => back.read.length ≤ 242
  | .bitError back _ => back.read.length ≤ 242
  | .transmitCompleted back => back.read.length ≤ 242
  | .breakRecognised _ run => 200 ≤ run && run < 1500
  | _ => true

/-- A command that can occur: no duration the part measures exceeds 2^31 ms (00_scope.md, Time), and its
operands fit. -/
def Instr.wellFormed (i : Instr) : Bool := decide (i.wait < 2 ^ 31) && i.operandsFit

end Sys2Proof
end

