-- ==== Sys2Proof/Machine/State.lean ====
section
/-! DEFINITION. Every piece of state the manual gives the part, grouped by the block that owns it, and the state at reset. -/

namespace Sys2Proof.Machine

/-! ### Shared records -/

/-- A window tag: injector address 1..31 and window sequence 0..255 (R56). -/
structure Tag where
  injector : Nat
  sequence : Nat
  deriving DecidableEq, Repr

/-- The causes of a fault hold (R139). -/
inductive FaultCause where
  | arc
  | ground
  | reverse
  | overcurrent
  | unknown
  deriving DecidableEq, Repr

/-- The opening cause of an OPEN request: the cause of the hold that queued it (R140). -/
inductive OpenCause where
  | fault (cause : FaultCause)
  | stop
  | lockout
  | service
  deriving DecidableEq, Repr

/-- The cause of an isolation record and of an ISOLATED frame (R150, 10.3). -/
inductive IsoCause where
  | arc
  | ground
  | reverse
  | overcurrent
  | service
  deriving DecidableEq, Repr

/-! ### SMU: start-up, supply, memo writer -/

/-- The phases of a start (R176); `inReset` is the span in which the part stays in reset. -/
inductive Phase where
  | inReset
  | reading
  | listening
  | running
  deriving DecidableEq, Repr

/-- The supply state (R186). -/
inductive Supply where
  | run
  | low
  deriving DecidableEq, Repr

/-- The values of a memo slot (R180). -/
inductive MemoValue where
  | none
  | arc
  | ground
  | reverse
  | overcurrent
  | service
  | stop
  deriving DecidableEq, Repr

/-- The memo write being served (R184, R185). -/
structure MemoWrite where
  string : StringNo
  value : MemoValue
  /-- Failed attempts, 0..3 while the write is served. -/
  failed : Nat
  /-- An attempt is in the memory; otherwise a retry waits for RUN. -/
  busy : Bool
  /-- When the attempt began. -/
  began : Time
  deriving DecidableEq, Repr

/-- The SMU's state, with the serial memory on its port. -/
structure Smu where
  phase : Phase
  supply : Supply
  /-- ADDRESS 0..31; 0 is listen-only (R177). -/
  address : Nat
  /-- STRINGS 1..12 (R177). -/
  strings : Nat
  settings : Settings
  configDefault : Bool
  configClamped : Bool
  listenEndAt : Option Time
  rememberedAt : Option Time
  memoQueue : List (StringNo × MemoValue)
  writer : Option MemoWrite
  memoFault : Bool
  /-- The serial memory: rising addresses, no entry equal to what an unlisted address reads. -/
  mem : List Host.Cell
  deriving DecidableEq, Repr

/-! ### SSU and EVE -/

/-- The fields of an interval record that are not the string number or SENSOR_FAULT (R2). -/
structure IntervalRecord where
  /-- I, 10 mA. -/
  current : Int
  /-- E, counts. -/
  energy : Nat
  /-- r, 0.1 mA. -/
  residual : Int
  saturated : Bool
  deriving DecidableEq, Repr

/-- What the SSU keeps per string (R4, R6). -/
structure SenseString where
  satRun : Nat
  clearRun : Nat
  sensorFault : Bool
  record : IntervalRecord
  deriving DecidableEq, Repr

/-- The ground record (R5). -/
structure GroundRecord where
  vpg : Nat
  vng : Nat
  balance : Nat
  deriving DecidableEq, Repr

/-- The SSU's state, with the two interval means of the injector (R65, R66). -/
structure Ssu where
  str : PerString SenseString
  ground : GroundRecord
  intervalStart : Option Time
  probeV : Nat
  probeI : Int
  deriving DecidableEq, Repr

/-- An entry of the String Evidence Table (R8). -/
structure Evidence where
  learnPending : Bool
  /-- Learning count. -/
  learning : Nat
  /-- B. -/
  base : Nat
  /-- S. -/
  score : Nat
  /-- A. -/
  evid : Nat
  eligible : Bool
  q : Nat
  /-- P. -/
  peak : Nat
  qr : Nat
  qo : Nat
  deriving DecidableEq, Repr

/-! ### SEL -/

/-- The kind of disturbance of an incident (R24). -/
inductive IncidentKind where
  | arc
  | ground
  deriving DecidableEq, Repr

/-- The incident states (R25). -/
inductive IncidentState where
  | claiming
  | yielded
  | decided
  deriving DecidableEq, Repr

/-- The progress of the own claim frame (R24). -/
inductive ClaimState where
  | none
  | queued
  | sent
  | withdrawn
  | dropped
  deriving DecidableEq, Repr

/-- The peer entry that made an incident yield (R24). -/
structure Beaten where
  source : Nat
  rank : Nat
  deriving DecidableEq, Repr

/-- An incident (R24). -/
structure Incident where
  kind : IncidentKind
  string : StringNo
  rank : Nat
  round : Nat
  onset : Time
  decision : Time
  tag : Option Tag
  /-- Q. -/
  response : Option Nat
  riso : Option Nat
  state : IncidentState
  claim : ClaimState
  beatenBy : Option Beaten
  deriving DecidableEq, Repr

/-- An entry of the Claim Log (R27). -/
structure ClaimEntry where
  kind : ClaimKind
  source : Nat
  rank : Nat
  cause : Option IsoCause
  tag : Option Tag
  arrival : Time
  deriving DecidableEq, Repr

/-- The SEL's state (R24, R28, R48, R54). -/
structure Sel where
  arc : Option Incident
  ground : Option Incident
  claimLog : List ClaimEntry
  recent : Option (Nat × Time)
  concurrent : Bool
  suspect : PerString Bool
  deriving DecidableEq, Repr

/-! ### PRB -/

/-- The probe roles (R55). -/
inductive Role where
  | none
  | pending
  | injecting
  | listening
  deriving DecidableEq, Repr

/-- The phases of an injector's window (R64). -/
inductive WindowPhase where
  | reference
  | transfer
  | injection
  | closing
  deriving DecidableEq, Repr

/-- The status of a window (R56). -/
inductive WindowStatus where
  | ok
  | fault
  | aborted
  | disturbed
  deriving DecidableEq, Repr

/-- The states of the flip tracker (R78). -/
inductive Tracker where
  | waiting
  | first
  | upHalf
  | downHalf
  | ended
  deriving DecidableEq, Repr

/-- The probe output pins (R64). -/
inductive ProbeOutput where
  | released
  | referenceUp
  | referenceDown
  | notDriven
  | up
  | down
  deriving DecidableEq, Repr

/-- A residual accumulator of one string in one half (R77). -/
structure Accumulator where
  sum : Int
  count : Nat
  deriving DecidableEq, Repr

/-- A row of the half table, with the accumulators of its half (R77). -/
structure Half where
  start : Time
  /-- Polarity +1; otherwise −1. -/
  up : Bool
  length : Option Nat
  /-- Validity once decided (R80 to R82). -/
  valid : Option Bool
  acc : PerString Accumulator
  deriving DecidableEq, Repr

/-- The window record (R56, R77). -/
structure Window where
  tag : Tag
  hp : Nat
  np : Nat
  settle : Nat
  start : Time
  /-- Injector only. -/
  phase : Option WindowPhase
  refUp : Option (Nat × Int)
  refDown : Option (Nat × Int)
  rRef : Nat
  samples : List (Nat × Int)
  halvesInjected : Nat
  status : Option WindowStatus
  riso : Nat
  disturbed : Bool
  capture : Nat
  usable : Bool
  tracker : Tracker
  low : Nat
  high : Nat
  extreme : Nat
  /-- The half counter. -/
  halfCount : Nat
  halves : List Half
  wMaxAt : Option Time
  deriving DecidableEq, Repr

/-- The PRB's state (R55, R57). -/
structure Prb where
  role : Role
  window : Option Window
  output : ProbeOutput
  seq : Nat
  dueAt : Option Time
  duePending : Bool
  retryAt : Option Time
  /-- The queued PROBE-OPEN came from the due trigger (R62). -/
  byDue : Bool
  lastEnd : Option Time
  alarmCount : Nat
  alarmArmed : Bool
  staggerAt : Option Time
  balRef : Nat
  /-- The balances of the last 100 ground records, newest first (R73). -/
  balances : List Nat
  lastRiso : Nat
  fault : Bool
  deriving DecidableEq, Repr

/-! ### LNC -/

/-- The line states (R113 to R116). -/
inductive LineState where
  | listen
  | up
  | degraded
  | down
  | stuck
  deriving DecidableEq, Repr

/-- The receiver states (R99). -/
inductive RxState where
  | sync
  | ready
  | frame
  deriving DecidableEq, Repr

/-- The frame kinds (10.2). -/
inductive Kind where
  | arrayStop
  | arrayResume
  | arcClaim
  | isolated
  | locate
  | probeOpen
  | probeClose
  | service
  | answer
  | status
  deriving DecidableEq, Repr

/-- A frame of the transmit queue (R104). -/
structure QueuedFrame where
  kind : Kind
  rank : Nat
  payload : List Byte
  /-- Failed attempts, 0..2. -/
  failed : Nat
  /-- Entry number. -/
  entry : Nat
  /-- Its owner has asked to withdraw it while an attempt was in progress (R110). -/
  withdrawAsked : Bool
  /-- A STATUS into which the SEL's concurrent isolation flag was taken, not set again since (R49). -/
  flagNote : Bool
  deriving DecidableEq, Repr

/-- The LNC's state (R95, R104, R111, R112, R118). -/
structure Lnc where
  line : LineState
  rx : RxState
  rxChars : List Byte
  rxDone : Option (List Byte)
  queue : List QueuedFrame
  nextEntry : Nat
  /-- The entry number of the frame with an attempt in progress. -/
  sending : Option Nat
  /-- The levels that attempt puts on the line, from the first start bit on (R96, log entry 31). -/
  tx : List Level
  pendingStatus : Option QueuedFrame
  level : Nat
  errors : Nat
  suspended : Bool
  periodEndAt : Option Time
  cleanRun : Nat
  conflict : Bool
  dominantRun : Nat
  lastGood : Option Time
  breakEndAt : Option Time
  ownRun : Bool
  deriving DecidableEq, Repr

/-! ### PVW -/

/-- Presence of a peer (R121). -/
inductive Presence where
  | absent
  | present
  | silent
  deriving DecidableEq, Repr

/-- A Peer Table entry (R121). -/
structure PeerEntry where
  presence : Presence
  lastHeard : Option Time
  deriving DecidableEq, Repr

/-- The PVW's state (R121, R125). -/
structure Pvw where
  peers : Vector PeerEntry 31
  stopSet : List Nat
  deriving DecidableEq, Repr

/-! ### SWC -/

/-- The string states (R138). -/
inductive StringState where
  | closed
  | opening
  | opened
  | closing
  | stuckClosed
  | stuckOpen
  | disabled
  deriving DecidableEq, Repr

/-- The details that come with a hold and travel with the OPEN it queues (R139, R150). -/
structure HoldDetail where
  rank : Nat
  round : Nat
  tag : Option Tag
  deriving DecidableEq, Repr

/-- The fault hold of a string (R139). -/
structure FaultHold where
  cause : FaultCause
  detail : HoldDetail
  deriving DecidableEq, Repr

/-- A STOP hold: tied to the Stop Set, or remembered (R139). -/
inductive StopHold where
  | tied
  | remembered
  deriving DecidableEq, Repr

/-- The hold set of a string (R139). -/
structure HoldSet where
  fault : Option FaultHold
  stop : Option StopHold
  lockout : Bool
  service : Bool
  /-- The later fault cause. -/
  later : Option FaultCause
  deriving DecidableEq, Repr

/-- The direction of a drive request (R137). -/
inductive Direction where
  | toOpen
  | toClose
  deriving DecidableEq, Repr

/-- A drive request (R137). -/
structure Request where
  dir : Direction
  /-- The opening cause of an OPEN. -/
  cause : Option OpenCause
  detail : HoldDetail
  failed : Nat
  /-- Held by the engine; otherwise waiting in the Drive Queue. -/
  held : Bool
  deriving DecidableEq, Repr

/-- The isolation record (R150). -/
structure IsolationRecord where
  active : Bool
  cause : IsoCause
  detail : HoldDetail
  time : Time
  deriving DecidableEq, Repr

/-- The string record (R137). -/
structure StringRecord where
  state : StringState
  holds : HoldSet
  request : Option Request
  iso : IsolationRecord
  mismatch : Nat
  memo : MemoValue
  deriving DecidableEq, Repr

/-- The drive engine's phase, with the string and direction of the request it holds (R137). -/
inductive Engine where
  | idle
  | pulsing (string : StringNo) (dir : Direction)
  | confirming (string : StringNo) (dir : Direction)
  deriving DecidableEq, Repr

/-- The SWC's state and the pins it reads and drives (R137, R143 to R147, R157). -/
structure Swc where
  str : PerString StringRecord
  openQ : List StringNo
  closeQ : List StringNo
  engine : Engine
  pulseEndAt : Option Time
  confirmAt : Option Time
  coil : Option (StringNo × Direction)
  driveSupply : Bool
  rechargeAt : Option Time
  ready : Bool
  /-- Contact feedback: true is closed. -/
  contact : PerString Bool
  boxTrip : Bool
  deriving DecidableEq, Repr

/-! ### RSL -/

/-- What the RSL keeps per string (R159). -/
structure ReleaseString where
  reclose : Nat
  recloseAt : Option Time
  closedAt : Option Time
  deriving DecidableEq, Repr

/-- The pushbutton filter (R160). -/
inductive ButtonState where
  | waitOpen
  | released
  | pressing
  | pressed
  deriving DecidableEq, Repr

/-- A key: its input pin, its accepted position and the candidate change under test (R168). True is closed. -/
structure KeyState where
  input : Bool
  accepted : Bool
  testAt : Option Time
  deriving DecidableEq, Repr

/-- The RSL's state (R159). -/
structure Rsl where
  str : PerString ReleaseString
  button : ButtonState
  buttonIn : Bool
  buttonAt : Option Time
  stopKey : KeyState
  lockKey : KeyState
  repeatAt : Option Time
  deriving DecidableEq, Repr

/-! ### RPT -/

/-- The RPT's state (R128, R136). -/
structure Rpt where
  statusAt : Option Time
  relay : Bool
  deriving DecidableEq, Repr

/-! ### The whole part -/

/-- The state of the part, with the queue of waiting commands. -/
structure State where
  /-- The commands that wait, first in, first out. -/
  pending : List Instr
  /-- Station time. -/
  now : Time
  /-- The model's own: how many free values have been taken (log entry 6). -/
  freeCount : Nat
  smu : Smu
  ssu : Ssu
  eve : PerString Evidence
  sel : Sel
  prb : Prb
  lnc : Lnc
  pvw : Pvw
  swc : Swc
  rsl : Rsl
  rpt : Rpt
  deriving DecidableEq, Repr

/-- The reasons the machine stops with a fault. -/
inductive Fault where
  /-- An access to an address the serial memory does not have (10.6). No command raises it, since the SMU
  addresses the record and the slots only (R190). Safe: a stop says nothing of what follows. -/
  | noSuchAddress (address : Nat)
  deriving DecidableEq, Repr

/-- The reasons a command is refused. -/
inductive Refusal where
  /-- The command has no meaning yet: raised by an arm of `exec` only, and by none at present. Safe. -/
  | notModelled (mnemonic : String)
  deriving DecidableEq, Repr

/-! ### Reset values -/

/-- The default settings of 9.3. Before READING no setting is in use; the model holds these (log entry 8). -/
def Settings.atReset : Settings where
  lineRate := 19200
  rxFloor := 2
  errLim := 8
  silenceLim := 10
  statusPeriod := 2
  iMinArc := 50
  arcOnset := 30
  arcQual := 5
  selWin := 80
  yieldHold := 2000
  arcRounds := 3
  revLim := 100
  revQual := 10
  ocLim := 1400
  ocQual := 20
  recloseMax := 2
  recloseDelay := 60
  pulseMs := 20
  confirmMs := 100
  probePeriod := 15
  probeHp := 1000
  probeNp := 8
  probeSettle := 300
  shiftMin := 10
  locMin := 10
  gfTrip := 200
  gfAction := .isolate
  balShift := 50

/-- R7: no record, counts 0, SENSOR_FAULT clear. -/
def SenseString.atReset : SenseString where
  satRun := 0
  clearRun := 0
  sensorFault := false
  record := { current := 0, energy := 0, residual := 0, saturated := false }

/-- The reset column of R8. -/
def Evidence.atReset : Evidence where
  learnPending := true
  learning := 100
  base := 0
  score := 10
  evid := 0
  eligible := false
  q := 0
  peak := 0
  qr := 0
  qo := 0

/-- An empty hold set (R137). -/
def HoldSet.empty : HoldSet where
  fault := none
  stop := none
  lockout := false
  service := false
  later := none

/-- Details of a hold that carries none (R139). -/
def HoldDetail.none : HoldDetail where
  rank := 0
  round := 0
  tag := Option.none

/-- R137: DISABLED, empty hold set, no request, inactive isolation record, mismatch 0, memo value none. The fields of the
inactive record are at the values of log entry 38. -/
def StringRecord.atReset : StringRecord where
  state := .disabled
  holds := HoldSet.empty
  request := none
  iso := { active := false, cause := .arc, detail := HoldDetail.none, time := 0 }
  mismatch := 0
  memo := .none

/-- The SMU at reset (R176, R178, R184, R185); what READING sets is at the values of log entry 8, the memory at
those of log entry 5. -/
def Smu.atReset : Smu where
  phase := .inReset
  supply := .low
  address := 0
  strings := 12
  settings := Settings.atReset
  configDefault := false
  configClamped := false
  listenEndAt := none
  rememberedAt := none
  memoQueue := []
  writer := none
  memoFault := false
  mem := []

/-- The SSU at reset (R7). -/
def Ssu.atReset : Ssu where
  str := Vector.replicate 12 SenseString.atReset
  ground := { vpg := 0, vng := 0, balance := 500 }
  intervalStart := none
  probeV := 0
  probeI := 0

/-- The SEL at reset (R47, R54). -/
def Sel.atReset : Sel where
  arc := none
  ground := none
  claimLog := []
  recent := none
  concurrent := false
  suspect := Vector.replicate 12 false

/-- The PRB at reset (R55, R57). -/
def Prb.atReset : Prb where
  role := .none
  window := none
  output := .released
  seq := 0
  dueAt := none
  duePending := false
  retryAt := none
  byDue := false
  lastEnd := none
  alarmCount := 0
  alarmArmed := false
  staggerAt := none
  balRef := 500
  balances := []
  lastRiso := 65535
  fault := false

/-- The LNC at reset (R95). The level is RX_FLOOR, taken again when READING has read it. The first frame takes entry number 0
(log entry 41). -/
def Lnc.atReset : Lnc where
  line := .listen
  rx := .sync
  rxChars := []
  rxDone := none
  queue := []
  nextEntry := 0
  sending := none
  tx := []
  pendingStatus := none
  level := 2
  errors := 0
  suspended := false
  periodEndAt := none
  cleanRun := 0
  conflict := false
  dominantRun := 0
  lastGood := none
  breakEndAt := none
  ownRun := false

/-- The PVW at reset (R121, R125). -/
def Pvw.atReset : Pvw where
  peers := Vector.replicate 31 { presence := .absent, lastHeard := none }
  stopSet := []

/-- The SWC at reset (R137, R143, R145); the input pins at the values of log entry 7. -/
def Swc.atReset : Swc where
  str := Vector.replicate 12 StringRecord.atReset
  openQ := []
  closeQ := []
  engine := .idle
  pulseEndAt := none
  confirmAt := none
  coil := none
  driveSupply := false
  rechargeAt := none
  ready := false
  contact := Vector.replicate 12 true
  boxTrip := false

/-- A key at reset: taken as open, no test (R159); its input pin as log entry 7 says. -/
def KeyState.atReset : KeyState where
  input := false
  accepted := false
  testAt := none

/-- The RSL at reset (R159). -/
def Rsl.atReset : Rsl where
  str := Vector.replicate 12 { reclose := 0, recloseAt := none, closedAt := none }
  button := .waitOpen
  buttonIn := false
  buttonAt := none
  stopKey := KeyState.atReset
  lockKey := KeyState.atReset
  repeatAt := none

/-- The RPT at reset (R128, R136). -/
def Rpt.atReset : Rpt where
  statusAt := none
  relay := false

/-- The machine right after reset. -/
def State.reset : State where
  pending := []
  now := 0
  freeCount := 0
  smu := Smu.atReset
  ssu := Ssu.atReset
  eve := Vector.replicate 12 Evidence.atReset
  sel := Sel.atReset
  prb := Prb.atReset
  lnc := Lnc.atReset
  pvw := Pvw.atReset
  swc := Swc.atReset
  rsl := Rsl.atReset
  rpt := Rpt.atReset

end Sys2Proof.Machine
end

