-- ==== Sys2Proof/Machine/Ops.lean ====
section
/-! DEFINITION. The named operations the meanings share: the clock, the serial memory, per-string tables, constants. -/

namespace Sys2Proof.Machine

/-! ### Constants of the manual -/

/-- The analysis interval, ms (R1). -/
def intervalMs : Nat := 10
/-- The listen period, ms (R182). -/
def listenMs : Nat := 5000
/-- The remembered stop after the listen end, ms (R183). -/
def rememberedMs : Nat := 20000
/-- The age limit of a Claim Log entry, ms (R28). -/
def claimAgeMs : Nat := 10000
/-- How long a recent arc decision is kept, ms (R48). -/
def recentMs : Nat := 10000
/-- From the window close to a GROUND decision, ms (R50). -/
def groundWaitMs : Nat := 200
/-- PROBE_GAP, ms (R58). -/
def probeGapMs : Nat := 30000
/-- The health period, ms (R111). -/
def healthMs : Nat := 1000
/-- The station's own break drive, ms (R118). -/
def breakDriveMs : Nat := 300
/-- The shortest break, ms (R119). -/
def breakMinMs : Nat := 200
/-- The dominant run that is a stuck line, ms (R116). -/
def stuckMs : Nat := 1500
/-- The debounce and acceptance tests, ms (R160, R168). -/
def inputTestMs : Nat := 50
/-- The stop repeat timer, ms (R168). -/
def stopRepeatMs : Nat := 10000
/-- The recharge limit, ms (R145). -/
def rechargeMs : Nat := 2000
/-- The closed timer, 30 min in ms (R167). -/
def closedTimerMs : Nat := 1800000
/-- The memory's busy limit, ms (R185). -/
def memoBusyMs : Nat := 10
/-- The RUN threshold of the supply pin, mV (R186). -/
def supplyRunMv : Nat := 11000
/-- The LOW threshold of the supply pin, mV (R186). -/
def supplyLowMv : Nat := 10500
/-- The reset threshold of the supply pin, mV (R186). -/
def supplyResetMv : Nat := 7500
/-- The reset release level of the supply pin, mV (R186). -/
def supplyReleaseMv : Nat := 8500
/-- How long the supply monitor's tests last without interruption, ms (R186). -/
def supplyTestMs : Nat := 10
/-- An insulation resistance at or above range, kΩ (00_scope.md, Quantities). -/
def rangeEnd : Nat := 65535
/-- The capacity of the transmit queue and of the Claim Log (R28, R104). -/
def capacity : Nat := 16

/-! ### The clock -/

/-- A command happens `dt` ms after the one before (log entry 1), also while the part is held in reset (log entry 40). -/
def State.elapse (s : State) (dt : Nat) : State := { s with now := s.now.plus dt }

/-- An expiry time has been reached: it lies at or before now (durations stay below 2^31 ms). -/
def reached (now due : Time) : Bool := decide (now.since due < 2 ^ 31)

/-- A running timer has reached its expiry. -/
def expired (now : Time) : Option Time → Bool
  | none => false
  | some due => reached now due

/-- Every block runs: the listen period or RUNNING (R176, R182). -/
def State.started (s : State) : Bool :=
  match s.smu.phase with
  | .listening => true
  | .running => true
  | .inReset => false
  | .reading => false

/-- ADDRESS 0 (R177). -/
def State.listenOnly (s : State) : Bool := s.smu.address == 0

/-- The array is stopped or locked out: the station takes no part in probing, and no ground incident opens (R46, R55). -/
def State.probingBarred (s : State) : Bool := !s.pvw.stopSet.isEmpty || s.rsl.lockKey.accepted

/-! ### Per-string tables -/

/-- Change one string's entry of a table. -/
def modifyAt {α : Type} (v : PerString α) (k : StringNo) (f : α → α) : PerString α := v.set k.val (f (v[k])) k.isLt

/-- The twelve strings in ascending order. -/
def allStrings : List StringNo := [0, 1, 2, 3, 4, 5, 6, 7, 8, 9, 10, 11]

/-- A string is fitted: its number is at most STRINGS (R1). -/
def State.fitted (s : State) (k : StringNo) : Bool := decide (k.val < s.smu.strings)

/-- The fitted strings in ascending order (R142). -/
def State.fittedStrings (s : State) : List StringNo := allStrings.filter s.fitted

/-- Do the same for each string of a list, in its order. -/
def forStrings (ks : List StringNo) (f : State → StringNo → State) (s : State) : State := ks.foldl f s

/-- The string record of the SWC. -/
abbrev State.string (s : State) (k : StringNo) : StringRecord := s.swc.str[k]

/-- Change one string record. -/
def State.setString (s : State) (k : StringNo) (f : StringRecord → StringRecord) : State :=
  { s with swc := { s.swc with str := modifyAt s.swc.str k f } }

/-- Change what the RSL keeps for one string. -/
def State.setRelease (s : State) (k : StringNo) (f : ReleaseString → ReleaseString) : State :=
  { s with rsl := { s.rsl with str := modifyAt s.rsl.str k f } }

/-- Change one entry of the String Evidence Table. -/
def State.setEvidence (s : State) (k : StringNo) (f : Evidence → Evidence) : State :=
  { s with eve := modifyAt s.eve k f }

/-- Set or clear a SUSPECT mark (R54). -/
def State.setSuspect (s : State) (k : StringNo) (b : Bool) : State :=
  { s with sel := { s.sel with suspect := modifyAt s.sel.suspect k (fun _ => b) } }

/-- A STUCK string is STUCK-CLOSED or STUCK-OPEN (R138). -/
def StringState.stuck : StringState → Bool
  | .stuckClosed => true
  | .stuckOpen => true
  | .closed => false
  | .opening => false
  | .opened => false
  | .closing => false
  | .disabled => false

/-! ### The serial memory (10.6, R190) -/

/-- What a byte nothing has written reads as: the manual gives no first contents; an erased cell (log entry 5). -/
def unlistedByte : Byte := 0xFF

/-- Read one byte. -/
def Memory.read (m : List Host.Cell) (a : Nat) : Byte :=
  match m with
  | [] => unlistedByte
  | (b, x) :: rest => if b == a then x else Memory.read rest a

/-- Write one byte, keeping the canonical form. -/
def Memory.write (m : List Host.Cell) (a : Nat) (x : Byte) : List Host.Cell :=
  match m with
  | [] => if x == unlistedByte then [] else [(a, x)]
  | (b, y) :: rest =>
    if b < a then (b, y) :: Memory.write rest a x
    else if b == a then (if x == unlistedByte then rest else (a, x) :: rest)
    else if x == unlistedByte then (b, y) :: rest
    else (a, x) :: (b, y) :: rest

/-- Every listed address is above a bound, rising, and listed for a value an unlisted one does not read as. -/
def Memory.wfAbove (low : Nat) (m : List Host.Cell) : Bool :=
  match m with
  | [] => true
  | (b, y) :: rest => decide (low ≤ b) && (y != unlistedByte) && Memory.wfAbove (b + 1) rest

/-- The canonical form of the memory. -/
def Memory.wf (m : List Host.Cell) : Bool := Memory.wfAbove 0 m

/-- The address of a slot's value byte: 0x30 + 3·(k − 1) for string k (10.6). -/
def slotAddress (k : StringNo) : Nat := 0x30 + 3 * k.val

/-- The high eight bits of a 16-bit number; numbers are most significant first (10). -/
def highByte (n : Nat) : Byte := BitVec.ofNat 8 (n / 256)

/-- The low eight bits of a number. -/
def lowByte (n : Nat) : Byte := BitVec.ofNat 8 n

/-- Two bytes, most significant first, as an unsigned number (10). -/
def word16 (h l : Byte) : Nat := 256 * h.toNat + l.toNat

/-- Two bytes of the memory, most significant first. -/
def Memory.read16 (m : List Host.Cell) (a : Nat) : Nat := word16 (Memory.read m a) (Memory.read m (a + 1))

/-- The three bytes of a slot: value, check high, check low (10.6). -/
def Memory.writeSlot (m : List Host.Cell) (k : StringNo) (v h l : Byte) : List Host.Cell :=
  Memory.write (Memory.write (Memory.write m (slotAddress k) v) (slotAddress k + 1) h) (slotAddress k + 2) l

/-! ### Arithmetic (00_scope.md, Arithmetic) -/

/-- Replaced by the nearer end of the range. -/
def clampInt (lo hi x : Int) : Int := max lo (min hi x)

/-- Replaced by the nearer end of the range. -/
def clampNat (lo hi x : Nat) : Nat := max lo (min hi x)

/-- A mean: the sum divided by the count, truncated toward zero. -/
def meanInt (xs : List Int) (n : Nat) : Int := (xs.foldl (· + ·) 0).tdiv n

/-- A mean of numbers that are not negative. -/
def meanNat (xs : List Nat) (n : Nat) : Nat := xs.foldl (· + ·) 0 / n

/-- The difference of two numbers without its sign. -/
def absDiff (a b : Nat) : Nat := (a - b) + (b - a)

end Sys2Proof.Machine
end

