-- ==== Sys2Proof/Machine/Formats.lean ====
section
/-! DEFINITION. Frame and Record Formats (chapter 10): the check, the codes, the payloads, the encoding checks. -/

namespace Sys2Proof.Machine

/-! ### The check (R188) -/

/-- One bit into the check register. -/
def crcBit (r : BitVec 16) (b : Bool) : BitVec 16 :=
  if (r.msb ^^ b) then (r <<< 1) ^^^ 0x1021#16 else r <<< 1

/-- One byte, most significant bit first. -/
def crcByte (r : BitVec 16) (x : Byte) : BitVec 16 :=
  [7, 6, 5, 4, 3, 2, 1, 0].foldl (fun r i => crcBit r (x.getLsbD i)) r

/-- The register, loaded with all ones, after a run of bytes. -/
def crc (xs : List Byte) : BitVec 16 := xs.foldl crcByte 0xFFFF#16

/-- The high eight bits of a check. -/
def crcHigh (c : BitVec 16) : Byte := c.extractLsb' 8 8

/-- The low eight bits of a check. -/
def crcLow (c : BitVec 16) : Byte := c.extractLsb' 0 8

/-! ### Codes (10.2, 10.3) -/

/-- The kind codes of 10.2. -/
def Kind.code : Kind → Nat
  | .arrayStop => 0x02
  | .arrayResume => 0x04
  | .arcClaim => 0x10
  | .isolated => 0x14
  | .locate => 0x18
  | .probeOpen => 0x20
  | .probeClose => 0x22
  | .service => 0x30
  | .answer => 0x34
  | .status => 0x40

/-- The kind of a code, when it is one of 10.2. -/
def Kind.ofCode (c : Nat) : Option Kind :=
  [Kind.arrayStop, .arrayResume, .arcClaim, .isolated, .locate, .probeOpen, .probeClose, .service, .answer, .status].find?
    (fun k => k.code == c)

/-- ISOLATED cause codes (10.3). -/
def IsoCause.code : IsoCause → Nat
  | .arc => 1
  | .ground => 2
  | .reverse => 3
  | .overcurrent => 4
  | .service => 5

/-- The cause of an ISOLATED cause code. -/
def IsoCause.ofCode (c : Nat) : Option IsoCause :=
  [IsoCause.arc, .ground, .reverse, .overcurrent, .service].find? (fun k => k.code == c)

/-- PROBE-CLOSE status codes (10.3). -/
def WindowStatus.code : WindowStatus → Nat
  | .ok => 1
  | .fault => 2
  | .aborted => 3
  | .disturbed => 4

/-- The status of a PROBE-CLOSE status code. -/
def WindowStatus.ofCode (c : Nat) : Option WindowStatus :=
  [WindowStatus.ok, .fault, .aborted, .disturbed].find? (fun k => k.code == c)

/-- STATUS line state codes (10.3). -/
def LineState.code : LineState → Nat
  | .listen => 0
  | .up => 1
  | .degraded => 2
  | .down => 3
  | .stuck => 4

/-- Fault causes in characters 4, 5 of a string report (10.4). -/
def FaultCause.code : FaultCause → Nat
  | .arc => 1
  | .ground => 2
  | .reverse => 3
  | .overcurrent => 4
  | .unknown => 5

/-- Memo slot value codes (10.6). -/
def MemoValue.code : MemoValue → Byte
  | .none => 0
  | .arc => 1
  | .ground => 2
  | .reverse => 3
  | .overcurrent => 4
  | .service => 5
  | .stop => 6

/-- The value of a memo slot code. -/
def MemoValue.ofCode (c : Byte) : Option MemoValue :=
  [MemoValue.none, .arc, .ground, .reverse, .overcurrent, .service, .stop].find? (fun k => k.code == c)

/-- The service operations (10.3). -/
inductive Operation where
  | restore
  | opens
  | probeNow
  | query
  deriving DecidableEq, Repr

/-- Operation codes (10.3). -/
def Operation.code : Operation → Nat
  | .restore => 1
  | .opens => 2
  | .probeNow => 3
  | .query => 4

/-- The operation of a code. -/
def Operation.ofCode (c : Nat) : Option Operation :=
  [Operation.restore, .opens, .probeNow, .query].find? (fun k => k.code == c)

/-- ANSWER results (10.4). -/
inductive ServiceResult where
  | done
  | noChange
  | refusedCause
  | heldOther
  | refusedStuck
  | notFitted
  | started
  | refusedBusy
  | refusedLine
  | refusedListen
  | refusedArc
  deriving DecidableEq, Repr

/-- Result codes (10.4). -/
def ServiceResult.code : ServiceResult → Nat
  | .done => 1
  | .noChange => 2
  | .refusedCause => 3
  | .heldOther => 4
  | .refusedStuck => 5
  | .notFitted => 6
  | .started => 7
  | .refusedBusy => 8
  | .refusedLine => 9
  | .refusedListen => 10
  | .refusedArc => 11

/-! ### Frames -/

/-- The characters of a frame as sent: header, payload, check (10.1, R97, R188). -/
def frameChars (k : Kind) (rank source : Nat) (payload : List Byte) : List Byte :=
  let body := BitVec.ofNat 8 k.code :: BitVec.ofNat 8 (255 - rank) :: BitVec.ofNat 8 source
    :: BitVec.ofNat 8 payload.length :: payload
  body ++ [crcHigh (crc body), crcLow (crc body)]

/-- Logic 1 is recessive, logic 0 dominant (R95). -/
def bitLevel (b : Bool) : Level := if b then .recessive else .dominant

/-- The levels of one character as sent: the start bit, eight data bits, most significant first, the mark bit, recessive
in the first character of a frame only, and the stop bit (R96). -/
def characterLevels (first : Bool) (c : Byte) : List Level :=
  .dominant :: [7, 6, 5, 4, 3, 2, 1, 0].map (fun i => bitLevel (c.getLsbD i)) ++ [bitLevel first, .recessive]

/-- The levels of a frame's characters, sent back to back (R96). -/
def frameLevels (xs : List Byte) : List Level :=
  match xs with
  | [] => []
  | c :: rest => characterLevels true c ++ rest.flatMap (characterLevels false)

/-- A received frame, its check agreed: its code, rank (255 minus character 2), source and payload. -/
structure Received where
  code : Nat
  rank : Nat
  source : Nat
  payload : List Byte
  deriving DecidableEq, Repr

/-- Character i of a list, 0 where it has none. -/
def charAt (xs : List Byte) (i : Nat) : Byte := xs.getD i 0

/-- Compare the check of a complete frame and take its fields (R101, R188). -/
def parseFrame (xs : List Byte) : Option Received :=
  let body := xs.take (xs.length - 2)
  if charAt xs (xs.length - 2) == crcHigh (crc body) && charAt xs (xs.length - 1) == crcLow (crc body) then
    some { code := (charAt xs 0).toNat, rank := 255 - (charAt xs 1).toNat, source := (charAt xs 2).toNat, payload := body.drop 4 }
  else none

/-- Every entry of a STATUS exception list has a string 1..12 and a code 1..14 (R189). -/
def entriesFit (xs : List Byte) : Bool :=
  xs.all fun x => decide (1 ≤ x.toNat / 16) && decide (x.toNat / 16 ≤ 12) && decide (1 ≤ x.toNat % 16) && decide (x.toNat % 16 ≤ 14)

/-- The encoding checks of R189. Payload character i of the manual is index i − 1. -/
def encodingFits (k : Kind) (p : List Byte) : Bool :=
  let c := fun i => (charAt p i).toNat
  match k with
  | .arrayStop => p.length == 0
  | .arrayResume => p.length == 0
  | .arcClaim => p.length == 2
  | .isolated => p.length == 5 && decide (1 ≤ c 1) && decide (c 1 ≤ 5) && (c 1 != 2 || (decide (1 ≤ c 3) && decide (c 3 ≤ 31)))
  | .locate => p.length == 5 && decide (1 ≤ c 0) && decide (c 0 ≤ 31) && decide (word16 (charAt p 3) (charAt p 4) ≤ 2047)
  | .probeOpen => p.length == 4
  | .probeClose => p.length == 5 && decide (1 ≤ c 1) && decide (c 1 ≤ 4)
  | .service => p.length == 5 && decide (c 0 ≤ 31) && decide (c 1 ≤ 31) && decide (1 ≤ c 2) && decide (c 2 ≤ 4)
      && (c 2 != 4 || (decide (1 ≤ c 4) && decide (c 4 ≤ 12)))
  | .answer => decide (2 ≤ p.length)
  | .status => decide (5 ≤ p.length) && decide (p.length ≤ 16) && decide (c 0 / 16 % 8 ≤ 4) && entriesFit (p.drop 5)

/-- A signed 16-bit quantity as two bytes (10). -/
def signed16 (x : Int) : List Byte :=
  let w : BitVec 16 := BitVec.ofInt 16 x
  [w.extractLsb' 8 8, w.extractLsb' 0 8]

/-- An unsigned 16-bit quantity as two bytes (10). -/
def unsigned16 (n : Nat) : List Byte := [highByte n, lowByte n]

/-- The check of a memo slot: over the string number and the value (R190). -/
def slotCheck (k : StringNo) (v : Byte) : BitVec 16 := crc [BitVec.ofNat 8 k.number, v]

/-- What a slot's three bytes say: a value when the slot is good, none when it is bad (R180). -/
def slotValue (k : StringNo) (v h l : Byte) : Option MemoValue :=
  if h == crcHigh (slotCheck k v) && l == crcLow (slotCheck k v) then MemoValue.ofCode v else none

end Sys2Proof.Machine
end

