-- ==== Sys2Proof/Machine/Memo.lean ====
section
/-! DEFINITION. The memo writer of the SMU (R184, R185). -/

namespace Sys2Proof.Machine

/-- Change the SMU's state. -/
def State.setSmu (s : State) (u : Smu) : State := { s with smu := u }

/-- The memo writer runs from READING on (R176). -/
def State.memoRuns (s : State) : Bool := s.smu.phase != .inReset

/-- The writer takes the first pending write when it is idle and the supply is RUN (R184); a retry that waited for
RUN begins again (R185). -/
def State.kickMemo (s : State) : State :=
  if s.memoRuns && s.smu.supply == .run then
    match s.smu.writer with
    | some w => if w.busy then s else s.setSmu { s.smu with writer := some { w with busy := true, began := s.now } }
    | none =>
      match s.smu.memoQueue with
      | [] => s
      | (k, v) :: rest =>
        s.setSmu { s.smu with memoQueue := rest, writer := some { string := k, value := v, failed := 0, busy := true, began := s.now } }
  else s

/-- A pending write's value is replaced in place, or the write joins the end (R184). -/
def putPending (q : List (StringNo × MemoValue)) (k : StringNo) (v : MemoValue) : List (StringNo × MemoValue) :=
  if q.any fun x => x.1 == k then q.map fun x => if x.1 == k then (k, v) else x else q ++ [(k, v)]

/-- A write is asked (R184). -/
def State.askMemo (s : State) (k : StringNo) (v : MemoValue) : State :=
  (s.setSmu { s.smu with memoQueue := putPending s.smu.memoQueue k v }).kickMemo

/-- The three bytes a write sends: the value and its check (R185, R190). -/
def slotBytes (k : StringNo) (v : MemoValue) : Byte × Byte × Byte :=
  (v.code, crcHigh (slotCheck k v.code), crcLow (slotCheck k v.code))

/-- A failed attempt: superseded, retried, or at the fourth dropped with MEMO_FAULT (R185). -/
def State.memoFailed (s : State) (w : MemoWrite) : State :=
  if s.smu.memoQueue.any fun x => x.1 == w.string then (s.setSmu { s.smu with writer := none }).kickMemo
  else if 4 ≤ w.failed + 1 then (s.setSmu { s.smu with writer := none, memoFault := true }).kickMemo
  else (s.setSmu { s.smu with writer := some { w with failed := w.failed + 1, busy := false } }).kickMemo

/-- The memory reports the write done and the slot is read back (R185). -/
def State.memoDone (s : State) (v h l : Byte) : State :=
  match s.smu.writer with
  | none => s
  | some w =>
    if w.busy then
      let s := s.setSmu { s.smu with mem := Memory.writeSlot s.smu.mem w.string v h l }
      if (v, h, l) == slotBytes w.string w.value then (s.setSmu { s.smu with writer := none }).kickMemo else s.memoFailed w
    else s

/-- Three free bytes (log entry 6). -/
def State.freeBytes (s : State) : Byte × Byte × Byte :=
  (Config.freeByte s.freeCount, Config.freeByte (s.freeCount + 1), Config.freeByte (s.freeCount + 2))

/-- The memory is still busy 10 ms after the write began: what the slot holds is free, and the attempt has failed
(R185). -/
def State.memoTimeout (s : State) : State :=
  match s.smu.writer with
  | none => s
  | some w =>
    if w.busy && reached s.now (w.began.plus memoBusyMs) then
      let f := s.freeBytes
      let s := { s with freeCount := s.freeCount + 3, smu := { s.smu with mem := Memory.writeSlot s.smu.mem w.string f.1 f.2.1 f.2.2 } }
      s.memoFailed w
    else s

/-- What a slot whose write a reset cuts holds: any three bytes that read as bad (R180, R185). Free bytes that
would read as good have one check bit turned. -/
def tornBytes (k : StringNo) (f : Byte × Byte × Byte) : Byte × Byte × Byte :=
  if (slotValue k f.1 f.2.1 f.2.2).isSome then (f.1, f.2.1, f.2.2 ^^^ 1) else f

end Sys2Proof.Machine
end

