-- ==== Sys2Proof/Machine/LineQueue.lean ====
section
/-! DEFINITION. The transmit queue of the LNC: entering, evicting, withdrawing (R104, R105, R110). -/

namespace Sys2Proof.Machine

/-- Put a frame behind every frame of its kind code or a lower one (R104). -/
def insertFrame (f : QueuedFrame) (q : List QueuedFrame) : List QueuedFrame :=
  match q with
  | [] => [f]
  | g :: rest => if f.kind.code < g.kind.code then f :: g :: rest else g :: insertFrame f rest

/-- The queued frame of a kind, if any. -/
def State.queuedOf (s : State) (k : Kind) : Option QueuedFrame := s.lnc.queue.find? fun f => f.kind == k

/-- An attempt of this frame is in progress (R106). -/
def State.inAttempt (s : State) (f : QueuedFrame) : Bool := s.lnc.sending == some f.entry

/-- Take the frame of an entry number out of the queue. -/
def State.removeEntry (s : State) (e : Nat) : State :=
  { s with lnc := { s.lnc with queue := s.lnc.queue.filter fun f => f.entry != e } }

/-- A STATUS or ANSWER with no attempt in progress may be evicted (R105, step 4). -/
def State.evictable (s : State) (f : QueuedFrame) : Bool := (f.kind == .status || f.kind == .answer) && !s.inAttempt f

/-- The oldest of the frames that may be evicted: the one of the lowest entry number. -/
def State.oldestEvictable (s : State) : Option QueuedFrame :=
  (s.lnc.queue.filter s.evictable).foldl
    (fun best f => match best with
      | none => some f
      | some b => if f.entry < b.entry then some f else some b) none

/-- Enter a frame with the next entry number (R105, step 5). -/
def State.enterFrame (s : State) (f : QueuedFrame) : State :=
  { s with lnc := { s.lnc with queue := insertFrame { f with entry := s.lnc.nextEntry } s.lnc.queue, nextEntry := s.lnc.nextEntry + 1 } }

/-- Steps 4 and 5 of R105: make room by an eviction when 16 frames are queued, or refuse. An evicted STATUS or
ANSWER is reported to the RPT, which takes no action (R129, R135). -/
def State.makeRoomAndEnter (s : State) (f : QueuedFrame) : State × Bool :=
  if s.lnc.queue.length < capacity then (s.enterFrame f, true)
  else match s.oldestEvictable with
    | some old => ((s.removeEntry old.entry).enterFrame f, true)
    | none => (s, false)

/-- A new frame before its entry number is given. -/
def newFrame (k : Kind) (rank : Nat) (payload : List Byte) : QueuedFrame where
  kind := k
  rank := rank
  payload := payload
  failed := 0
  entry := 0
  withdrawAsked := false
  flagNote := false

/-- A kind of which a second frame is refused while one is queued (R105, step 3). -/
def Kind.single : Kind → Bool
  | .arcClaim => true
  | .locate => true
  | .probeOpen => true
  | .arrayStop => false
  | .arrayResume => false
  | .isolated => false
  | .probeClose => false
  | .service => false
  | .answer => false
  | .status => false

/-- Hand a frame to the LNC for queuing: the state after, and whether it was taken (R105). -/
def State.enqueue (s : State) (f : QueuedFrame) : State × Bool :=
  if s.listenOnly then (s, false)
  else if f.kind == .status then
    match s.queuedOf .status with
    | some old =>
      if s.inAttempt old then ({ s with lnc := { s.lnc with pendingStatus := some f } }, true)
      else ((s.removeEntry old.entry).enterFrame f, true)
    | none => s.makeRoomAndEnter f
  else if f.kind.single && (s.queuedOf f.kind).isSome then (s, false)
  else s.makeRoomAndEnter f

/-- Hand over a frame whose owner does not look at the answer. -/
def State.queueFrame (s : State) (f : QueuedFrame) : State := (s.enqueue f).1

/-- What becomes of a withdrawal request (R110). -/
inductive Withdrawal where
  /-- No attempt was in progress: the frame is removed. -/
  | granted
  /-- An attempt is in progress: the frame stays, and the owner asks again at its end. -/
  | refused
  /-- No such frame is queued. -/
  | gone
  deriving DecidableEq, Repr

/-- An owner asks to withdraw its queued frame of a kind (R110). A refused request is noted in the frame, for the
owner asks again at the end of the attempt (R35, R62, R70). -/
def State.withdraw (s : State) (k : Kind) : State × Withdrawal :=
  match s.queuedOf k with
  | none => (s, .gone)
  | some f =>
    if s.inAttempt f then
      ({ s with lnc := { s.lnc with queue := s.lnc.queue.map fun g => if g.entry == f.entry then { g with withdrawAsked := true } else g } }, .refused)
    else (s.removeEntry f.entry, .granted)

/-- Count an error event of the receiver or sender (R111). -/
def State.countError (s : State) : State :=
  if s.lnc.suspended then s else { s with lnc := { s.lnc with errors := min 255 (s.lnc.errors + 1) } }

end Sys2Proof.Machine
end

