-- ==== Sys2Proof/Machine/Selectivity.lean ====
section
/-! DEFINITION. The SEL: incidents, Claim Log, outranking, rounds, window reports (chapter 2). The hold requests of a
decision are made in Decisions.lean, above the SWC. -/

namespace Sys2Proof.Machine

/-! ### Outranking (R29, R30, R43) -/

/-- A rank and source outrank another by the order of R29: higher rank, or equal rank and lower source. -/
def outranks (rank source rank' source' : Nat) : Bool :=
  decide (rank' < rank) || (rank == rank' && decide (source < source'))

/-- A Claim Log entry outranks an own incident of a rank (R29). -/
def State.entryOutranks (s : State) (e : ClaimEntry) (rank : Nat) : Bool := outranks e.rank e.source rank s.smu.address

/-- The round is forced: its number equals ARC_ROUNDS (R42). -/
def State.forced (s : State) (i : Incident) : Bool := i.kind == .arc && i.round == s.smu.settings.arcRounds

/-- An entry is relevant to an incident (R30), less the earlier winner's ISOLATED in a later round (R43). -/
def relevant (i : Incident) (e : ClaimEntry) : Bool :=
  match i.kind with
  | .arc =>
    match e.kind with
    | .arcClaim => true
    | .isolated => e.cause == some .arc && !(decide (1 < i.round) && i.beatenBy.map (·.source) == some e.source)
    | .locate => false
  | .ground => e.kind == .locate && e.tag.isSome && e.tag == i.tag

/-- The strongest of a list of entries: the highest rank, and among equal ranks the lowest source (R32). -/
def strongest (es : List ClaimEntry) : Option ClaimEntry :=
  es.foldl (fun best e => match best with
    | none => some e
    | some b => if outranks e.rank e.source b.rank b.source then some e else some b) none

/-! ### Incidents -/

/-- Hold a changed ARC incident, or none. -/
def State.setArc (s : State) (i : Option Incident) : State := { s with sel := { s.sel with arc := i } }

/-- Hold a changed GROUND incident, or none. -/
def State.setGround (s : State) (i : Option Incident) : State := { s with sel := { s.sel with ground := i } }

/-- The incident of a kind. -/
def State.incident (s : State) (k : IncidentKind) : Option Incident :=
  match k with
  | .arc => s.sel.arc
  | .ground => s.sel.ground

/-- Hold a changed incident of a kind, or none. -/
def State.setIncident (s : State) (k : IncidentKind) (i : Option Incident) : State :=
  match k with
  | .arc => s.setArc i
  | .ground => s.setGround i

/-- The frame kind of an incident's claim (R24). -/
def IncidentKind.frame : IncidentKind → Kind
  | .arc => .arcClaim
  | .ground => .locate

/-- The claim frame an incident queues (R33, R51). -/
def claimFrame (i : Incident) : QueuedFrame :=
  match i.kind with
  | .arc => newFrame .arcClaim i.rank [BitVec.ofNat 8 i.string.number, BitVec.ofNat 8 i.round]
  | .ground =>
    let t := i.tag.getD { injector := 0, sequence := 0 }
    newFrame .locate i.rank
      ([BitVec.ofNat 8 t.injector, BitVec.ofNat 8 t.sequence, BitVec.ofNat 8 i.string.number] ++ unsigned16 (i.response.getD 0))

/-- An incident that takes CLAIMING queues its claim: QUEUED, NONE at a listen-only station, or DROPPED when the
LNC refuses the frame (R33, R51). -/
def State.openClaiming (s : State) (i : Incident) : State :=
  let i := { i with state := IncidentState.claiming }
  if s.listenOnly then s.setIncident i.kind (some { i with claim := .none })
  else
    let r := s.enqueue (claimFrame i)
    r.1.setIncident i.kind (some { i with claim := if r.2 then .queued else .dropped })

/-- Withdraw an incident's claim, asked only while the claim state is QUEUED (R35). -/
def State.withdrawClaim (s : State) (k : IncidentKind) : State :=
  match s.incident k with
  | none => s
  | some i =>
    if i.claim == .queued then
      let r := s.withdraw k.frame
      match r.2 with
      | .granted => r.1.setIncident k (some { i with claim := .withdrawn })
      | .refused => r.1
      | .gone => r.1
    else s

/-- The LNC's report on a claim frame; only a QUEUED claim state follows it (R34). -/
def State.claimReport (s : State) (k : IncidentKind) (c : ClaimState) : State :=
  match s.incident k with
  | none => s
  | some i => if i.claim == .queued then s.setIncident k (some { i with claim := c }) else s

/-- The entries a lookback finds: relevant, arrived at or after onset − SEL_WIN, and outranking (R32). -/
def State.lookback (s : State) (i : Incident) : List ClaimEntry :=
  s.sel.claimLog.filter fun e =>
    relevant i e && decide (i.onset.since e.arrival ≤ s.smu.settings.selWin) && s.entryOutranks e i.rank

/-- An ARC round opens: the lookback, then YIELDED, or CLAIMING with its claim (R32, R33, R42). -/
def State.openRound (s : State) (i : Incident) : State :=
  match (if s.forced i then none else strongest (s.lookback i)) with
  | some e => s.setArc (some { i with state := .yielded, claim := .none, beatenBy := some { source := e.source, rank := e.rank } })
  | none => s.openClaiming { i with claim := .none }

/-- The rank a round takes: 255 when it is the last, else the run peak (R31, R41). -/
def State.roundRank (s : State) (round peak : Nat) : Nat := if round == s.smu.settings.arcRounds then 255 else peak

/-- An arc onset opens an ARC incident in round 1 (R31). -/
def State.openArc (s : State) (k : StringNo) (peak : Nat) : State :=
  s.openRound
    { kind := .arc, string := k, rank := s.roundRank 1 peak, round := 1, onset := s.now,
      decision := s.now.plus s.smu.settings.selWin, tag := none, response := none, riso := none,
      state := .claiming, claim := .none, beatenBy := none }

/-- An incident closes: a queued claim is withdrawn and the incident is removed (R44 to R47). -/
def State.closeIncident (s : State) (k : IncidentKind) : State := (s.withdrawClaim k).setIncident k none

/-- Close the incident of a kind when it meets a condition. -/
def State.closeIf (s : State) (k : IncidentKind) (p : Incident → Bool) : State :=
  match s.incident k with
  | none => s
  | some i => if p i then s.closeIncident k else s

/-- The SWC reports an OPEN confirmation: the string's incidents close (R44, R53). -/
def State.selOpened (s : State) (k : StringNo) : State :=
  (s.closeIf .arc fun i => i.string == k).closeIf .ground fun i => i.string == k

/-- The SWC reports a STUCK string: its incidents close, and a DECIDED arc's recent decision is cleared (R45, R53). -/
def State.selStuck (s : State) (k : StringNo) : State :=
  let cleared : State :=
    match s.sel.arc with
    | none => s
    | some i => if i.string == k && i.state == .decided then { s with sel := { s.sel with recent := none } } else s
  (cleared.closeIf .arc fun i => i.string == k).closeIf .ground fun i => i.string == k

/-- A close held by the engine has failed and the string is OPEN again: its DECIDED incidents close (R44). -/
def State.selReturned (s : State) (k : StringNo) : State :=
  (s.closeIf .arc fun i => i.string == k && i.state == .decided).closeIf .ground fun i => i.string == k && i.state == .decided

/-- Every incident closes as superseded (R46). -/
def State.selSuperseded (s : State) : State := (s.closeIf .arc fun _ => true).closeIf .ground fun _ => true

/-! ### The Claim Log (R26 to R28) -/

/-- The entry with the earliest arrival, as its age at a time: the greatest age, the first of equals. -/
def eldest (now : Time) (es : List ClaimEntry) : Option ClaimEntry :=
  es.foldl (fun best e => match best with
    | none => some e
    | some b => if now.since b.arrival < now.since e.arrival then some e else some b) none

/-- Same source and kind (R27). -/
def sameClaim (a b : ClaimEntry) : Bool := a.source == b.source && a.kind == b.kind

/-- Replace the first entry of the same source and kind. -/
def replaceClaim (e : ClaimEntry) (es : List ClaimEntry) : List ClaimEntry := es.map fun x => if sameClaim x e then e else x

/-- The log after an entry is made: replaced in place, or added, the earliest removed first when 16 are present
(R27, R28). -/
def logEntry (now : Time) (es : List ClaimEntry) (e : ClaimEntry) : List ClaimEntry :=
  if es.any fun x => sameClaim x e then replaceClaim e es
  else if es.length < capacity then es ++ [e]
  else match eldest now es with
    | none => [e]
    | some old => es.filter (fun x => !sameClaim x old) ++ [e]

/-- An entry is compared with an incident on its arrival (R36, R37). -/
def State.compareEntry (s : State) (k : IncidentKind) (e : ClaimEntry) : State :=
  match s.incident k with
  | none => s
  | some i =>
    if relevant i e then
      match i.state with
      | .claiming =>
        if s.entryOutranks e i.rank && !s.forced i then
          (s.setIncident k (some { i with state := .yielded, beatenBy := some { source := e.source, rank := e.rank } })).withdrawClaim k
        else s
      | .yielded =>
        match i.beatenBy with
        | some b =>
          if i.kind == .arc && outranks e.rank e.source b.rank b.source then
            s.setIncident k (some { i with beatenBy := some { source := e.source, rank := e.rank } })
          else s
        | none => s
      | .decided => s
    else s

/-- The concurrent isolation flag is set: every STATUS built before has it set again since (R48, R49). -/
def State.setConcurrent (s : State) : State :=
  { s with
    sel := { s.sel with concurrent := true }
    lnc := { s.lnc with queue := s.lnc.queue.map (fun f => { f with flagNote := false }),
                        pendingStatus := s.lnc.pendingStatus.map (fun f => { f with flagNote := false }) } }

/-- An ISOLATED of cause ARC shows a concurrent isolation (R48). -/
def State.concurrentCase (s : State) (e : ClaimEntry) : Bool :=
  e.kind == .isolated && e.cause == some .arc &&
    ((match s.sel.recent with
      | some (rank, _) => !s.entryOutranks e rank
      | none => false)
    || (match s.sel.arc with
      | some i => s.forced i && e.rank == 255
      | none => false))

/-- A claim frame is delivered: entered, compared with the incident of its kind, and tested for concurrent
isolation (R26, R36, R48). -/
def State.claimDelivered (s : State) (e : ClaimEntry) : State :=
  let s1 := { s with sel := { s.sel with claimLog := logEntry s.now s.sel.claimLog e } }
  let s2 := match e.kind with
    | .locate => s1.compareEntry .ground e
    | .arcClaim => s1.compareEntry .arc e
    | .isolated => s1.compareEntry .arc e
  if s.concurrentCase e then s2.setConcurrent else s2

/-! ### Window reports (R50, R51, R54) -/

/-- What the PRB hands over at the end of a window (R50). -/
structure WindowReport where
  tag : Tag
  status : Option WindowStatus
  disturbed : Bool
  /-- The best string with its L and Q. -/
  result : Option (StringNo × Nat × Nat)
  riso : Nat
  deriving DecidableEq, Repr

/-- Clear every SUSPECT mark but one string's (R54). -/
def State.keepSuspectOnly (s : State) (k : StringNo) : State :=
  forStrings allStrings (fun t j => if j == k then t else t.setSuspect j false) s

/-- A GROUND incident opens: the scan for outranking LOCATE entries of its tag, then YIELDED, or CLAIMING (R50, R51). -/
def State.openGround (s : State) (r : WindowReport) (k : StringNo) (l q : Nat) : State :=
  let i : Incident :=
    { kind := .ground, string := k, rank := l, round := 0, onset := s.now, decision := s.now.plus groundWaitMs,
      tag := some r.tag, response := some q, riso := some r.riso, state := .claiming, claim := .none, beatenBy := none }
  match strongest (s.sel.claimLog.filter fun e => relevant i e && s.entryOutranks e l) with
  | some e => s.setGround (some { i with state := .yielded, beatenBy := some { source := e.source, rank := e.rank } })
  | none => s.openClaiming i

/-- The SEL takes a window report (R50, R54). A window closed during a stop or a lockout is not followed by an incident
(R46); that its report still clears the marks of the other strings is log entry 30. -/
def State.windowReport (s : State) (r : WindowReport) : State :=
  if r.status == some .ok && !r.disturbed then
    match r.result with
    | none => s
    | some (k, l, q) =>
      if l < s.smu.settings.locMin then (s.keepSuspectOnly k).setSuspect k false
      else if s.sel.ground.isSome then s
      else if s.probingBarred then s.keepSuspectOnly k
      else (s.keepSuspectOnly k).openGround r k l q
  else s

end Sys2Proof.Machine
end

