-- ==== Sys2Proof/Machine/Probe.lean ====
section
/-! DEFINITION. The PRB: triggers, the injector, the insulation arithmetic, the listener, demodulation, window ends
(chapters 3 and 4). -/

namespace Sys2Proof.Machine

/-- Change the PRB's state. -/
def State.setPrb (s : State) (p : Prb) : State := { s with prb := p }

/-- Hold a changed window record. -/
def State.setWindow (s : State) (w : Window) : State := { s with prb := { s.prb with window := some w } }

/-- The line state is UP or DEGRADED (R58). -/
def State.lineUsable (s : State) : Bool := s.lnc.line == .up || s.lnc.line == .degraded

/-- PROBE_GAP has passed since the last window end seen (R58). -/
def State.gapPassed (s : State) : Bool :=
  match s.prb.lastEnd with
  | none => true
  | some t => decide (probeGapMs ≤ s.now.since t)

/-- The conditions under which a trigger queues a PROBE-OPEN (R58). -/
def State.probeConditions (s : State) : Bool :=
  s.prb.role == .none && s.lineUsable && s.smu.phase == .running && s.sel.arc.isNone && s.smu.supply == .run
    && s.gapPassed && !s.listenOnly && !s.probingBarred

/-- The PROBE-OPEN of the station's own settings (R58, 10.3). -/
def State.probeOpenFrame (s : State) : QueuedFrame :=
  newFrame .probeOpen 0 [BitVec.ofNat 8 s.prb.seq, BitVec.ofNat 8 (s.smu.settings.probeHp / 100),
    BitVec.ofNat 8 s.smu.settings.probeNp, BitVec.ofNat 8 (s.smu.settings.probeSettle / 10)]

/-- A trigger is evaluated: the state after, and whether a PROBE-OPEN was queued (R58). Out of the role NONE the alarm
count is held at 0 (R60). -/
def State.trigger (s : State) (byDue : Bool) : State × Bool :=
  if s.probeConditions then
    let r := s.enqueue s.probeOpenFrame
    if r.2 then (r.1.setPrb { r.1.prb with role := .pending, byDue := byDue, alarmCount := 0 }, true) else (s, false)
  else (s, false)

/-- The duration of the probe-due timer, ms (R59). -/
def State.dueMs (s : State) : Nat := s.smu.settings.probePeriod * 60000 + s.smu.address * 10000

/-- The due trigger is evaluated; dropped, it stays pending and is evaluated again in a second (R59, R65). -/
def State.dueTrigger (s : State) : State :=
  if s.prb.fault then s.setPrb { s.prb with duePending := false, retryAt := none }
  else
    let r := s.trigger true
    if r.2 then r.1.setPrb { r.1.prb with duePending := false, retryAt := none }
    else s.setPrb { s.prb with duePending := true, retryAt := some (s.now.plus 1000) }

/-- The balance trigger is evaluated once (R60, R65). -/
def State.balanceTrigger (s : State) : State := if s.prb.fault then s else (s.trigger false).1

/-- The service trigger and its result (R61). -/
def State.serviceTrigger (s : State) : State × ServiceResult :=
  if s.smu.phase == .listening then (s, .refusedListen)
  else if s.listenOnly || !s.lineUsable then (s, .refusedLine)
  else if s.sel.arc.isSome then (s, .refusedArc)
  else if s.prb.role != .none || !s.gapPassed || s.smu.supply == .low || s.probingBarred then (s, .refusedBusy)
  else
    let r := s.trigger false
    (r.1, if r.2 then .started else .refusedBusy)

/-! ### Window ends (R71 to R73) -/

/-- The balance capture: the mean of the last 100 balances, 500 when none has been taken (R73). -/
def State.balanceCapture (s : State) : Nat := if s.prb.balances.isEmpty then 500 else meanNat s.prb.balances s.prb.balances.length

/-- The effects of a window end seen; `close` is the PROBE-CLOSE behind it: whether its status is OK, and its R_iso
(R72). -/
def State.windowEndSeen (s : State) (close : Option (Bool × Nat)) : State :=
  let p := { s.prb with lastEnd := some s.now }
  let p := if s.listenOnly then p else { p with alarmArmed := true, staggerAt := none, alarmCount := 0 }
  let p := match close with
    | none => p
    | some (ok, riso) =>
      let p := if s.listenOnly then p else { p with dueAt := some (s.now.plus s.dueMs), duePending := false, retryAt := none }
      if ok then { p with lastRiso := riso } else p
  s.setPrb p

/-- The balance capture replaces the reference after a window that was OK, undisturbed and not low (R73). -/
def State.considerReference (s : State) (w : Window) (ok : Bool) (riso : Nat) : State :=
  if ok && !w.disturbed && decide (s.smu.settings.gfTrip ≤ riso) then s.setPrb { s.prb with balRef := w.capture } else s

/-- The role becomes NONE, the record is discarded, the probe output is released. -/
def State.discardWindow (s : State) : State :=
  s.setPrb { s.prb with role := .none, window := none, output := .released }

/-- A window report without status and result (R71, R89 to R91). -/
def emptyReport (w : Window) : WindowReport where
  tag := w.tag
  status := none
  disturbed := w.disturbed
  result := none
  riso := rangeEnd

/-- The injector's window ends as lost (R70, R71). -/
def State.windowLost (s : State) : State :=
  match s.prb.window with
  | none => s
  | some w => ((s.windowReport (emptyReport w)).windowEndSeen none).discardWindow

/-! ### Demodulation (R84 to R86) -/

/-- The term of one used half for one string: its half value with the sign of its polarity (R84, R85). -/
def halfTerm (h : Half) (k : StringNo) : Option Int :=
  let a := h.acc[k]
  if h.valid == some true && a.count != 0 then
    some (if h.up then a.sum.tdiv a.count else -(a.sum.tdiv a.count))
  else none

/-- The residual response Q of a string from the half table; half 1 is never used (R85). -/
def responseOf (halves : List Half) (k : StringNo) : Option Nat :=
  let terms := (halves.drop 1).filterMap fun h => halfTerm h k
  if terms.length < 2 then none else some (clampInt 0 2047 (meanInt terms terms.length)).toNat

/-- The locate rank of a response (R86). -/
def locateRank (q : Nat) : Nat := min 255 (q / 2)

/-- The result: the fitted string of highest L, the lowest number among equals (R86). -/
def State.bestString (s : State) (halves : List Half) : Option (StringNo × Nat × Nat) :=
  s.fittedStrings.foldl
    (fun best k => match responseOf halves k with
      | none => best
      | some q => match best with
        | none => some (k, locateRank q, q)
        | some (j, l, p) => if l < locateRank q then some (k, locateRank q, q) else some (j, l, p)) none

/-! ### The injector (R64 to R70) -/

/-- The PROBE-CLOSE of a window whose status is fixed (R66, 10.3). -/
def probeCloseFrame (w : Window) : QueuedFrame :=
  newFrame .probeClose 0
    ([BitVec.ofNat 8 w.tag.sequence, BitVec.ofNat 8 ((w.status.map WindowStatus.code).getD 0), BitVec.ofNat 8 w.halvesInjected]
      ++ unsigned16 w.riso)

/-- The status is fixed: the probe is released, the phase becomes CLOSING, and a PROBE-CLOSE is queued; a refusal
loses the window (R65, R66, R68, R70). -/
def State.closeInjection (s : State) (w : Window) (status : WindowStatus) (riso : Nat) : State :=
  let w := { w with status := some status, riso := riso, phase := some WindowPhase.closing }
  let s := s.setPrb { s.prb with window := some w, output := .released }
  let r := s.enqueue (probeCloseFrame w)
  if r.2 then r.1 else s.windowLost

/-- An abort event at the injector (R68); in CLOSING it changes nothing but the disturbed mark (R69). -/
def State.abortInjection (s : State) (status : WindowStatus) : State :=
  match s.prb.role, s.prb.window with
  | .injecting, some w =>
    let w := if status == .disturbed then { w with disturbed := true } else w
    if w.phase == some .closing then
      (if status == .disturbed && w.status.isSome then s.setWindow w else s)
    else s.closeInjection w status rangeEnd
  | .injecting, none => s
  | .none, _ => s
  | .pending, _ => s
  | .listening, _ => s

/-- A PENDING station asks the LNC to withdraw its PROBE-OPEN (R62). -/
def State.withdrawProbeOpen (s : State) : State :=
  if s.prb.role == .pending then
    let r := s.withdraw .probeOpen
    match r.2 with
    | .granted => r.1.setPrb { r.1.prb with role := .none, byDue := false }
    | .refused => r.1
    | .gone => r.1
  else s

/-- The SEL opens an ARC incident, or the supply becomes LOW: R58's conditions fail (R62, R68). -/
def State.probeAbort (s : State) : State := s.withdrawProbeOpen.abortInjection .aborted

/-- The line becomes STUCK: a PROBE-OPEN is withdrawn, an injector's window is lost unless its PROBE-CLOSE is in an
attempt (R62, R70). -/
def State.probeStuck (s : State) : State :=
  let s := s.withdrawProbeOpen
  match s.prb.role, s.prb.window with
  | .injecting, some w =>
    let s := s.setPrb { s.prb with output := .released }
    if w.phase == some .closing then
      let r := s.withdraw .probeClose
      match r.2 with
      | .granted => r.1.windowLost
      | .refused => r.1
      | .gone => r.1
    else s.windowLost
  | .injecting, none => s
  | .none, _ => s
  | .pending, _ => s
  | .listening, _ => s

/-- A new window record; listener fields at their entry values (R56, R64, R75, R77). R_ref is 0 until the reference check
gives it; low, high and extreme are 0 until the tracker takes its first record or recognises its first flip (log entry 33). -/
def newWindow (tag : Tag) (hp np settle : Nat) (start : Time) (capture : Nat) : Window where
  tag := tag
  hp := hp
  np := np
  settle := settle
  start := start
  phase := none
  refUp := none
  refDown := none
  rRef := 0
  samples := []
  halvesInjected := 0
  status := none
  riso := rangeEnd
  disturbed := false
  capture := capture
  usable := true
  tracker := .waiting
  low := 0
  high := 0
  extreme := 0
  halfCount := 0
  halves := []
  wMaxAt := none

/-- The own PROBE-OPEN has completed: the station becomes the injector (R64). A withdrawal asked meanwhile is at once
treated as the corresponding abort (R62; log entry 43). -/
def State.injectorStart (s : State) (f : QueuedFrame) : State :=
  let w := newWindow { injector := s.smu.address, sequence := (charAt f.payload 0).toNat } ((charAt f.payload 1).toNat * 100)
    (charAt f.payload 2).toNat ((charAt f.payload 3).toNat * 10) s.now s.balanceCapture
  let s := s.setPrb { s.prb with role := .injecting, window := some { w with phase := some .reference }, output := .referenceUp,
                                 seq := (s.prb.seq + 1) % 256, byDue := false, alarmCount := 0 }
  if f.withdrawAsked then (if s.lnc.line == .stuck then s.probeStuck else s.probeAbort) else s

/-- The mean of the pairs at the places given, each component truncated (R67, step 2). -/
def pairMean (ps : List (Nat × Int)) : Int × Int :=
  (meanInt (ps.map fun p => (p.1 : Int)) ps.length, meanInt (ps.map fun p => p.2) ps.length)

/-- R_raw from the UP and DOWN means (R67, step 3). -/
def rawResistance (up down : Int × Int) : Nat :=
  if up.2 - down.2 ≤ 0 then rangeEnd else min rangeEnd (1000 * (up.1 - down.1).natAbs / (up.2 - down.2).toNat)

/-- The used UP halves 3, 5, .. and DOWN halves 2, 4, .. of the half samples (R67, step 1). -/
def usedSamples (samples : List (Nat × Int)) (parity : Nat) : List (Nat × Int) :=
  (samples.zipIdx 1).filterMap fun x => if x.2 != 1 && x.2 % 2 == parity then some x.1 else none

/-- R_iso of a window from its half samples and R_ref (R67). -/
def insulation (samples : List (Nat × Int)) (rRef : Nat) : Nat :=
  let raw := rawResistance (pairMean (usedSamples samples 1)) (pairMean (usedSamples samples 0))
  if raw = rangeEnd then rangeEnd else min rangeEnd (raw * 500 / rRef)

/-- A half table row that has just begun. -/
def newHalf (start : Time) (up : Bool) : Half where
  start := start
  up := up
  length := none
  valid := none
  acc := Vector.replicate 12 { sum := 0, count := 0 }

/-- The start of injection half k: t0 + 500 + (k − 1)·HP (R64). -/
def Window.halfStart (w : Window) (k : Nat) : Time := w.start.plus (500 + (k - 1) * w.hp)

/-- Injection half k begins: its row with the known start and polarity (R64, R82). -/
def Window.beginHalf (w : Window) (k : Nat) : Window :=
  { w with halfCount := k, halves := w.halves ++ [newHalf (w.halfStart k) (k % 2 == 1)] }

/-- Decide the last row of the half table. -/
def decideLast (hs : List Half) (length : Option Nat) (valid : Bool) : List Half :=
  match hs with
  | [] => []
  | [h] => [{ h with length := length, valid := some valid }]
  | h :: rest => h :: decideLast rest length valid

/-- The end of a reference half (R65). -/
def State.referenceHalfEnd (s : State) : State :=
  match s.prb.role, s.prb.window with
  | .injecting, some w =>
    if w.phase == some .reference then
      match w.refUp with
      | none =>
        if reached s.now (w.start.plus 200) then
          s.setPrb { s.prb with window := some { w with refUp := some (s.ssu.probeV, s.ssu.probeI) }, output := .referenceDown }
        else s
      | some up =>
        if reached s.now (w.start.plus 400) then
          let r := rawResistance (up.1, up.2) (s.ssu.probeV, s.ssu.probeI)
          let w := { w with refDown := some (s.ssu.probeV, s.ssu.probeI), rRef := r }
          if 450 ≤ r ∧ r ≤ 550 then
            s.setPrb { s.prb with window := some { w with phase := some .transfer }, output := .notDriven }
          else s.closeInjection w .fault rangeEnd
        else s
    else s
  | .injecting, none => s
  | .none, _ => s
  | .pending, _ => s
  | .listening, _ => s

/-- At t0 + 500 ms the probe drives the array for half 1 (R64). -/
def State.injectionStart (s : State) : State :=
  match s.prb.role, s.prb.window with
  | .injecting, some w =>
    if w.phase == some .transfer && reached s.now (w.start.plus 500) then
      s.setPrb { s.prb with window := some ({ w with phase := some .injection }.beginHalf 1), output := .up }
    else s
  | .injecting, none => s
  | .none, _ => s
  | .pending, _ => s
  | .listening, _ => s

/-- The end of an injection half; the last one ends the injection (R66, R82). -/
def State.injectionHalfEnd (s : State) : State :=
  match s.prb.role, s.prb.window with
  | .injecting, some w =>
    let k := w.halvesInjected + 1
    if w.phase == some .injection && reached s.now (w.halfStart (k + 1)) then
      let w := { w with samples := w.samples ++ [(s.ssu.ground.vpg, s.ssu.probeI)], halvesInjected := k,
                        halves := decideLast w.halves (some w.hp) true }
      if k < w.np then
        s.setPrb { s.prb with window := some (w.beginHalf (k + 1)), output := if (k + 1) % 2 == 1 then .up else .down }
      else s.closeInjection w .ok (insulation w.samples w.rRef)
    else s
  | .injecting, none => s
  | .none, _ => s
  | .pending, _ => s
  | .listening, _ => s

/-- The own PROBE-CLOSE has completed: the window ends at the injector (R71). -/
def State.injectorEnd (s : State) : State :=
  match s.prb.role, s.prb.window with
  | .injecting, some w =>
    let ok := w.status == some .ok
    let s1 := s.windowReport
      { tag := w.tag, status := w.status, disturbed := w.disturbed,
        result := if ok && !w.disturbed then s.bestString w.halves else none, riso := w.riso }
    let s2 := s1.windowEndSeen (some (ok, w.riso))
    let s3 := if w.status == some .fault then s2.setPrb { s2.prb with fault := true } else s2
    (s3.considerReference w ok w.riso).discardWindow
  | .injecting, none => s
  | .none, _ => s
  | .pending, _ => s
  | .listening, _ => s

/-- The PROBE-OPEN is dropped or removed by a break: the role becomes NONE, and a due trigger is pending again
(R62). -/
def State.probeOpenLost (s : State) : State :=
  if s.prb.role == .pending then
    if s.prb.byDue then
      s.setPrb { s.prb with role := .none, byDue := false, duePending := true, retryAt := some (s.now.plus 1000) }
    else s.setPrb { s.prb with role := .none }
  else s

/-- The PROBE-OPEN is withdrawn (R62). -/
def State.probeOpenWithdrawn (s : State) : State :=
  if s.prb.role == .pending then s.setPrb { s.prb with role := .none, byDue := false } else s

/-- The PROBE-CLOSE is dropped, flushed or withdrawn: the window is lost (R70). -/
def State.probeCloseLost (s : State) : State := if s.prb.role == .injecting then s.windowLost else s

/-! ### The listener (R75 to R92) -/

/-- The carried parameters are those a window may have (R76). -/
def paramsUsable (hp np settle : Nat) : Bool :=
  decide (200 ≤ hp) && decide (hp ≤ 2000) && decide (4 ≤ np) && decide (np ≤ 16) && np % 2 == 0
    && decide (50 ≤ settle) && decide (settle ≤ 1000) && decide (settle ≤ hp / 2)

/-- A PROBE-OPEN makes the station a listener (R75, R76). -/
def State.enterListening (s : State) (f : Received) : State :=
  let hp := (charAt f.payload 1).toNat * 100
  let np := (charAt f.payload 2).toNat
  let settle := (charAt f.payload 3).toNat * 10
  let chp := clampNat 200 2000 hp
  let cnp := clampNat 4 16 np / 2 * 2
  let csettle := min (clampNat 50 1000 settle) (chp / 2)
  let w := newWindow { injector := f.source, sequence := (charAt f.payload 0).toNat } chp cnp csettle s.now s.balanceCapture
  s.setPrb { s.prb with role := .listening, alarmCount := 0,
                        window := some { w with usable := paramsUsable hp np settle, wMaxAt := some (s.now.plus (500 + cnp * chp + 1000)) } }

/-- A PROBE-OPEN is delivered (R63, R75). -/
def State.probeOpenDelivered (s : State) (f : Received) : State :=
  match s.prb.role with
  | .none => if s.probingBarred then s else s.enterListening f
  | .pending =>
    let t := s.withdrawProbeOpen
    if t.prb.role == .none then t.enterListening f else t
  | .listening => s
  | .injecting => s.abortInjection .disturbed

/-- A PROBE-OPEN reaching an injector in CLOSING changes nothing, not even the mark (R69). -/
def State.probeOpenTaken (s : State) (f : Received) : State :=
  match s.prb.role, s.prb.window with
  | .injecting, some w => if w.phase == some .closing then s else s.probeOpenDelivered f
  | .injecting, none => s
  | .none, _ => s.probeOpenDelivered f
  | .pending, _ => s.probeOpenDelivered f
  | .listening, _ => s.probeOpenDelivered f

/-- An ISOLATED from another station, or an own OPEN confirmation, disturbs the known window (R68, R69, R87). -/
def State.probeDisturbed (s : State) : State :=
  match s.prb.role, s.prb.window with
  | .listening, some w => s.setWindow { w with disturbed := true }
  | .listening, none => s
  | .injecting, _ => s.abortInjection .disturbed
  | .none, _ => s
  | .pending, _ => s

/-- The listener's window ends without status and result; then `close`, when a mismatched PROBE-CLOSE ended it
(R89 to R91). -/
def State.listenerEnd (s : State) (w : Window) (seen : Bool) (close : Option (Bool × Nat)) : State :=
  let s := s.windowReport (emptyReport w)
  (if seen then s.windowEndSeen close else s).discardWindow

/-- A PROBE-CLOSE that matches the listener's window tag ends it (R81, R88). The result asks a usable window of NP halves
(R88 step 2). The balance reference is considered by R73 (R88 step 5); for a window that is unusable or of another count of
halves, where R92 keeps the reference and R73 does not, the answer is free (log entry 29). -/
def State.listenerMatched (s : State) (w : Window) (status : WindowStatus) (halves riso : Nat) : State :=
  let ok := status == .ok
  let last := ok && w.halfCount == w.np && (w.tracker == .upHalf || w.tracker == .downHalf)
  let rows := match w.halves.getLast? with
    | none => w.halves
    | some h => if h.valid.isNone then decideLast w.halves none last else w.halves
  let whole := w.usable && halves == w.np
  let result := if ok && whole && !w.disturbed then s.bestString rows else none
  let s1 := s.windowReport { tag := w.tag, status := some status, disturbed := w.disturbed, result := result, riso := riso }
  ((s1.windowEndSeen (some (ok, riso))).considerReference w (ok && (whole || Config.takesCapture w.usable (halves == w.np))) riso).discardWindow

/-- A PROBE-CLOSE is delivered (R72, R88, R89). -/
def State.probeCloseDelivered (s : State) (f : Received) : State :=
  match WindowStatus.ofCode (charAt f.payload 1).toNat with
  | none => s
  | some status =>
    let riso := word16 (charAt f.payload 3) (charAt f.payload 4)
    let close := some (status == .ok, riso)
    match s.prb.role, s.prb.window with
    | .listening, some w =>
      if w.tag.injector == f.source && w.tag.sequence == (charAt f.payload 0).toNat then
        s.listenerMatched w status (charAt f.payload 2).toNat riso
      else s.listenerEnd w true close
    | .listening, none => s.windowEndSeen close
    | .injecting, _ => s.windowEndSeen close
    | .none, _ => s.windowEndSeen close
    | .pending, _ => s.windowEndSeen close

/-- The W_MAX expiry (R90). -/
def State.wMax (s : State) : State :=
  match s.prb.role, s.prb.window with
  | .listening, some w => if expired s.now w.wMaxAt then s.listenerEnd w true none else s
  | .listening, none => s
  | .injecting, _ => s
  | .none, _ => s
  | .pending, _ => s

/-- An ARRAY-STOP taken or the LOCKOUT key closing ends the station's part in any window (R62, R68, R91, R126). -/
def State.probeBarred (s : State) : State :=
  match s.prb.role, s.prb.window with
  | .listening, some w => s.listenerEnd w false none
  | .listening, none => s
  | .injecting, _ => s.probeAbort
  | .pending, _ => s.probeAbort
  | .none, _ => s

/-! ### Flip tracking and residual sampling (R78 to R83) -/

/-- A flip is recognised: the current half is decided by its length and the next begins (R79, R80). -/
def Window.flip (w : Window) (now : Time) (up : Bool) (v : Nat) : Window :=
  let rows := match w.halves.getLast? with
    | none => w.halves
    | some h =>
      let len := now.since h.start
      decideLast w.halves (some len) (decide (3 * w.hp ≤ 4 * len) && decide (4 * len ≤ 5 * w.hp))
  { w with halfCount := w.halfCount + 1, halves := rows ++ [newHalf now up], extreme := v,
           tracker := if up then Tracker.upHalf else Tracker.downHalf }

/-- The tracker takes a ground record of mean Vpg `v` completing now (R78, R79). -/
def Window.track (w : Window) (now : Time) (v shift : Nat) : Window :=
  if now.since w.start < 400 then w
  else match w.tracker with
    | .waiting => { w with tracker := .first, low := v, high := v }
    | .first =>
      if 500 + w.hp / 2 < now.since w.start then { w with tracker := .ended }
      else if w.low + shift ≤ v then w.flip now true v
      else if v + shift ≤ w.high then w.flip now false v
      else { w with low := min w.low v, high := max w.high v }
    | .upHalf =>
      if v + shift ≤ w.extreme then (if w.halfCount < w.np then w.flip now false v else w)
      else { w with extreme := max w.extreme v }
    | .downHalf =>
      if w.extreme + shift ≤ v then (if w.halfCount < w.np then w.flip now true v else w)
      else { w with extreme := min w.extreme v }
    | .ended => w

/-- An interval set completing now belongs to the sample span of a half (R83). -/
def inSpan (w : Window) (h : Half) (now : Time) : Bool :=
  decide (w.settle + intervalMs ≤ now.since h.start) && decide (now.since h.start + 20 ≤ w.hp)

/-- Add the residual means of an interval set to a half (R83). -/
def State.accumulate (s : State) (h : Half) : Half :=
  s.fittedStrings.foldl
    (fun h k =>
      if s.ssu.str[k].sensorFault then h
      else { h with acc := modifyAt h.acc k fun a => { sum := a.sum + s.ssu.str[k].record.residual, count := a.count + 1 } }) h

/-- Change the last row of the half table. -/
def changeLast (hs : List Half) (f : Half → Half) : List Half :=
  match hs with
  | [] => []
  | [h] => [f h]
  | h :: rest => h :: changeLast rest f

/-- The set is accumulated in the current half when it belongs to its span (R83). -/
def State.sampleWindow (s : State) (w : Window) : Window :=
  match w.halves.getLast? with
  | none => w
  | some h => if inSpan w h s.now then { w with halves := changeLast w.halves s.accumulate } else w

/-- The balance alarm counts a ground record (R60). -/
def State.balanceCount (s : State) : State :=
  if s.prb.role != .none then s.setPrb { s.prb with alarmCount := 0 }
  else if s.prb.alarmArmed then
    if s.smu.settings.balShift ≤ absDiff s.ssu.ground.balance s.prb.balRef then
      if 100 ≤ s.prb.alarmCount + 1 then
        s.setPrb { s.prb with alarmArmed := false, alarmCount := 0, staggerAt := some (s.now.plus (s.smu.address * 2000)) }
      else s.setPrb { s.prb with alarmCount := s.prb.alarmCount + 1 }
    else s.setPrb { s.prb with alarmCount := 0 }
  else s

/-- The PRB takes an interval set: balances, alarm, flip tracking, residual sampling (R60, R73, R78, R83). -/
def State.probeInterval (s : State) : State :=
  let s := (s.setPrb { s.prb with balances := (s.ssu.ground.balance :: s.prb.balances).take 100 }).balanceCount
  match s.prb.role, s.prb.window with
  | .listening, some w => s.setWindow (s.sampleWindow (w.track s.now s.ssu.ground.vpg s.smu.settings.shiftMin))
  | .injecting, some w => s.setWindow (s.sampleWindow w)
  | .listening, none => s
  | .injecting, none => s
  | .none, _ => s
  | .pending, _ => s

/-- The expiry of a missing flip: the current half is invalid and tracking ends (R80). -/
def State.halfExpiry (s : State) : State :=
  match s.prb.role, s.prb.window with
  | .listening, some w =>
    match w.halves.getLast? with
    | none => s
    | some h =>
      if (w.tracker == .upHalf || w.tracker == .downHalf) && decide (w.halfCount < w.np)
          && reached s.now (h.start.plus (5 * w.hp / 4)) then
        s.setWindow { w with tracker := .ended, halves := decideLast w.halves none false }
      else s
  | .listening, none => s
  | .injecting, _ => s
  | .none, _ => s
  | .pending, _ => s

end Sys2Proof.Machine
end

