-- ==== Sys2Proof/Machine/Switching.lean ====
section
/-! DEFINITION. The SWC: hold sets, Drive Queue, engine, confirmations, STUCK strings (chapter 7), with the RSL timers
its events start and stop (R164 to R167). -/

namespace Sys2Proof.Machine

/-! ### Hold sets (R139) -/

/-- A hold to add. -/
inductive HoldRequest where
  | fault (hold : FaultHold)
  | stop
  | lockout
  | service
  deriving DecidableEq, Repr

/-- The opening cause a hold gives (R140). -/
def HoldRequest.cause : HoldRequest → OpenCause
  | .fault h => .fault h.cause
  | .stop => .stop
  | .lockout => .lockout
  | .service => .service

/-- The details that travel with a hold (R139). -/
def HoldRequest.detail : HoldRequest → HoldDetail
  | .fault h => h.detail
  | .stop => HoldDetail.none
  | .lockout => HoldDetail.none
  | .service => HoldDetail.none

/-- No hold is in the set. -/
def HoldSet.isEmpty (h : HoldSet) : Bool := h.fault.isNone && h.stop.isNone && !h.lockout && !h.service

/-- Record a cause as the later fault cause, unless it is the one the string is held under (R139). -/
def HoldSet.recordLater (h : HoldSet) (c : FaultCause) : HoldSet :=
  if h.fault.map (·.cause) == some c then h else { h with later := some c }

/-- Add a hold to a set that takes fault holds: the first fault cause stays (R139). -/
def HoldSet.add (h : HoldSet) : HoldRequest → HoldSet
  | .fault f => if h.fault.isNone then { h with fault := some f } else h.recordLater f.cause
  | .stop => { h with stop := some .tied }
  | .lockout => { h with lockout := true }
  | .service => { h with service := true }

/-- Add a hold to an OPEN or STUCK string: a fault hold is not added, its cause is recorded (R140). -/
def HoldSet.addIsolated (h : HoldSet) : HoldRequest → HoldSet
  | .fault f => h.recordLater f.cause
  | .stop => { h with stop := some .tied }
  | .lockout => { h with lockout := true }
  | .service => { h with service := true }

/-- A named hold to release (R141); STOP is named tied or remembered (R171, R172). -/
inductive Release where
  | fault (cause : FaultCause)
  | stopTied
  | stopRemembered
  | lockout
  | service
  deriving DecidableEq, Repr

/-- The string has the hold a release names (R141). -/
def HoldSet.has (h : HoldSet) : Release → Bool
  | .fault c => h.fault.map (·.cause) == some c
  | .stopTied => h.stop == some .tied
  | .stopRemembered => h.stop == some .remembered
  | .lockout => h.lockout
  | .service => h.service

/-- The set without the hold a release names; the later fault cause goes with the fault hold (R139, R141). -/
def HoldSet.remove (h : HoldSet) : Release → HoldSet
  | .fault _ => { h with fault := none, later := none }
  | .stopTied => { h with stop := none }
  | .stopRemembered => { h with stop := none }
  | .lockout => { h with lockout := false }
  | .service => { h with service := false }

/-- The leading hold as an opening cause with its details (R139). -/
def HoldSet.leading (h : HoldSet) : OpenCause × HoldDetail :=
  match h.fault with
  | some f => (.fault f.cause, f.detail)
  | none => if h.stop.isSome then (.stop, HoldDetail.none) else if h.lockout then (.lockout, HoldDetail.none) else (.service, HoldDetail.none)

/-! ### The drive engine (R143, R144) -/

/-- The request a string has is taken by the engine. -/
def StringRecord.holdRequest (r : StringRecord) : StringRecord :=
  { r with request := r.request.map fun q => { q with held := true } }

/-- The engine begins a pulse (R146). -/
def State.beginPulse (s : State) (k : StringNo) (d : Direction) : State :=
  let s := s.setString k StringRecord.holdRequest
  { s with swc := { s.swc with engine := .pulsing k d, coil := some (k, d), pulseEndAt := some (s.now.plus s.smu.settings.pulseMs) } }

/-- The engine takes the head of the Drive Queue when it is IDLE, the source is ready and the supply is RUN (R143,
R144). It runs from the hand-over (R182). -/
def State.kickDrive (s : State) : State :=
  if s.started && s.swc.engine == .idle && s.swc.ready && s.smu.supply == .run then
    match s.swc.openQ with
    | k :: rest => ({ s with swc := { s.swc with openQ := rest } }).beginPulse k .toOpen
    | [] =>
      match s.swc.closeQ with
      | k :: rest => ({ s with swc := { s.swc with closeQ := rest } }).beginPulse k .toClose
      | [] => s
  else s

/-- An OPEN request is queued and the string becomes OPENING (R140); it leaves CLOSED, so its closed timer stops
(R167). -/
def State.queueOpen (s : State) (k : StringNo) (c : OpenCause) (d : HoldDetail) : State :=
  let s := s.setString k fun r =>
    { r with state := .opening, mismatch := 0, request := some { dir := .toOpen, cause := some c, detail := d, failed := 0, held := false } }
  let s := s.setRelease k fun r => { r with closedAt := none }
  ({ s with swc := { s.swc with openQ := s.swc.openQ ++ [k] } }).kickDrive

/-- A CLOSE request is queued and the string becomes CLOSING (R141, R150, R156). -/
def State.queueClose (s : State) (k : StringNo) : State :=
  let s := s.setString k fun r =>
    { r with state := .closing, mismatch := 0,
             request := some { dir := .toClose, cause := none, detail := HoldDetail.none, failed := 0, held := false } }
  ({ s with swc := { s.swc with closeQ := s.swc.closeQ ++ [k] } }).kickDrive

/-! ### Memo requests (R153) -/

/-- The wanted memo value of a hold set (R153). -/
def HoldSet.wanted (h : HoldSet) : MemoValue :=
  match h.fault with
  | some f =>
    match f.cause with
    | .arc => .arc
    | .ground => .ground
    | .reverse => .reverse
    | .overcurrent => .overcurrent
    | .unknown => .none
  | none => if h.service then .service else if h.stop.isSome then .stop else .none

/-- The memo value of an OPEN or STUCK string is brought up to date (R153). -/
def State.updateMemo (s : State) (k : StringNo) : State :=
  let r := s.string k
  if (r.state == .opened || r.state.stuck) && r.memo != r.holds.wanted then
    (s.setString k fun r => { r with memo := r.holds.wanted }).askMemo k r.holds.wanted
  else s

/-! ### Adding and releasing (R140, R141) -/

/-- The string's request waits in the Drive Queue. -/
def StringRecord.waiting (r : StringRecord) : Bool :=
  match r.request with
  | some q => !q.held
  | none => false

/-- A request to add a hold, by the string's state (R140). -/
def State.addHold (s : State) (k : StringNo) (h : HoldRequest) : State :=
  match (s.string k).state with
  | .closed => (s.setString k fun r => { r with holds := r.holds.add h }).queueOpen k h.cause h.detail
  | .opening => s.setString k fun r => { r with holds := r.holds.add h }
  | .closing =>
    if (s.string k).waiting then
      let s := s.setString k fun r => { r with holds := r.holds.add h, request := none, state := .opened }
      ({ s with swc := { s.swc with closeQ := s.swc.closeQ.filter fun j => j != k } }).updateMemo k
    else s.setString k fun r => { r with holds := r.holds.add h }
  | .opened => (s.setString k fun r => { r with holds := r.holds.addIsolated h }).updateMemo k
  | .stuckClosed => (s.setString k fun r => { r with holds := r.holds.addIsolated h }).updateMemo k
  | .stuckOpen => (s.setString k fun r => { r with holds := r.holds.addIsolated h }).updateMemo k
  | .disabled => s

/-- A request to release a hold (R141). -/
def State.releaseHold (s : State) (k : StringNo) (x : Release) : State :=
  if (s.string k).holds.has x then
    let s := s.setString k fun r => { r with holds := r.holds.remove x }
    if (s.string k).state == .opened && (s.string k).holds.isEmpty then s.queueClose k else s.updateMemo k
  else s

/-! ### Confirmations (R150 to R152) -/

/-- The cause of an isolation record, for the opening causes that write one (R150). -/
def OpenCause.isolation : OpenCause → Option IsoCause
  | .fault .arc => some .arc
  | .fault .ground => some .ground
  | .fault .reverse => some .reverse
  | .fault .overcurrent => some .overcurrent
  | .fault .unknown => none
  | .service => some .service
  | .stop => none
  | .lockout => none

/-- The details an isolation record keeps for its cause (R150). -/
def isolationDetail (c : IsoCause) (d : HoldDetail) : HoldDetail :=
  match c with
  | .arc => { rank := d.rank, round := d.round, tag := none }
  | .ground => { rank := d.rank, round := 0, tag := d.tag }
  | .reverse => HoldDetail.none
  | .overcurrent => HoldDetail.none
  | .service => HoldDetail.none

/-- The ISOLATED frame of a string and its isolation record (R151, 10.3). A GROUND record without window tag, of a hold
restored from a memo, sends 0, 0 as the other causes do (log entry 36). -/
def isolatedFrame (k : StringNo) (r : IsolationRecord) : QueuedFrame :=
  let t := r.detail.tag.getD { injector := 0, sequence := 0 }
  newFrame .isolated r.detail.rank [BitVec.ofNat 8 k.number, BitVec.ofNat 8 r.cause.code, BitVec.ofNat 8 r.detail.round,
    BitVec.ofNat 8 t.injector, BitVec.ofNat 8 t.sequence]

/-- The details of the opening cause at the confirmation: those the string's hold of that cause carries; those of the
request when the hold has been released meanwhile (R150, log entry 18). -/
def HoldSet.openingDetail (h : HoldSet) (c : OpenCause) (q : Request) : HoldDetail :=
  match h.fault with
  | some f => if c = .fault f.cause then f.detail else q.detail
  | none => q.detail

/-- Steps 1 and 2 of an OPEN confirmation: the isolation record and the ISOLATED frame (R150, R151). -/
def State.recordIsolation (s : State) (k : StringNo) (c : OpenCause) (d : HoldDetail) : State :=
  match c.isolation with
  | none => s
  | some i =>
    let r : IsolationRecord := { active := true, cause := i, detail := isolationDetail i d, time := s.now }
    (s.setString k fun x => { x with iso := r }).queueFrame (isolatedFrame k r)

/-- The fault hold of a string is of cause REVERSE or OVERCURRENT (R164). -/
def HoldSet.reclosable (h : HoldSet) : Bool :=
  match h.fault with
  | some f => f.cause == .reverse || f.cause == .overcurrent
  | none => false

/-- The reclose timer starts at an OPEN confirmation or an initial setting (R164). -/
def State.startReclose (s : State) (k : StringNo) : State :=
  if (s.string k).holds.reclosable && decide (s.rsl.str[k].reclose < s.smu.settings.recloseMax) then
    s.setRelease k fun r => { r with recloseAt := some (s.now.plus (s.smu.settings.recloseDelay * 1000)) }
  else s

/-- The confirmation of an OPEN whose request is `q` (R150). -/
def State.openConfirmed (s : State) (k : StringNo) (q : Request) : State :=
  let c := q.cause.getD .stop
  let s := s.setString k fun r => { r with state := .opened, mismatch := 0, request := none }
  let s := (s.recordIsolation k c ((s.string k).holds.openingDetail c q)).updateMemo k
  let s := ((s.selOpened k).probeDisturbed).startReclose k
  if (s.string k).holds.isEmpty then s.queueClose k else s

/-- Steps 1 to 4 of R152: the string is taken as CLOSED. -/
def State.takenClosed (s : State) (k : StringNo) : State :=
  let s := s.setString k fun r =>
    { r with state := .closed, mismatch := 0, request := none, iso := { r.iso with active := false }, memo := .none }
  let s := (s.askMemo k .none).setEvidence k fun e => { e with learnPending := true }
  s.setRelease k fun r => { r with closedAt := some (s.now.plus closedTimerMs) }

/-- The confirmation of a CLOSE (R152). An incident DECIDED while this close was held stays, also when its hold has been
released meanwhile: R44 names no event that closes it (log entry 32). -/
def State.closeConfirmed (s : State) (k : StringNo) : State :=
  let s := s.takenClosed k
  if (s.string k).holds.isEmpty then s
  else s.queueOpen k (s.string k).holds.leading.1 (s.string k).holds.leading.2

/-- The engine is IDLE again, with no pulse or confirmation timed. -/
def State.engineIdle (s : State) : State :=
  { s with swc := { s.swc with engine := .idle, coil := none, pulseEndAt := none, confirmAt := none } }

/-- An attempt is confirmed (R147, R149); the queue is served afresh at the end of the event. -/
def State.attemptConfirmed (s : State) (k : StringNo) (d : Direction) : State :=
  let s := s.engineIdle
  match (s.string k).request with
  | none => s.kickDrive
  | some q =>
    match d with
    | .toOpen => (s.openConfirmed k q).kickDrive
    | .toClose => (s.closeConfirmed k).kickDrive

/-! ### Failed attempts and STUCK strings (R148, R154) -/

/-- A string becomes STUCK (R154). -/
def State.becomeStuck (s : State) (k : StringNo) (st : StringState) : State :=
  ((s.setString k fun r => { r with state := st, mismatch := 0, request := none }).updateMemo k).selStuck k

/-- The request re-enters the queue at the front of its class (R148). -/
def State.requeue (s : State) (k : StringNo) (d : Direction) : State :=
  let s := s.setString k fun r => { r with request := r.request.map fun q => { q with failed := q.failed + 1, held := false } }
  match d with
  | .toOpen => { s with swc := { s.swc with openQ := k :: s.swc.openQ } }
  | .toClose => { s with swc := { s.swc with closeQ := k :: s.swc.closeQ } }

/-- A failed attempt (R148). -/
def State.attemptFailed (s : State) (k : StringNo) (d : Direction) : State :=
  let s := s.engineIdle
  match (s.string k).request with
  | none => s.kickDrive
  | some q =>
    match d with
    | .toOpen => if q.failed = 0 then (s.requeue k d).kickDrive else (s.becomeStuck k .stuckClosed).kickDrive
    | .toClose =>
      if (s.string k).holds.isEmpty then
        (if q.failed = 0 then (s.requeue k d).kickDrive else (s.becomeStuck k .stuckOpen).kickDrive)
      else
        (((s.setString k fun r => { r with state := .opened, mismatch := 0, request := none }).updateMemo k).selReturned k).kickDrive

/-- The pulse ends: the coil is released, and the source recharges (R145, R146). -/
def State.pulseEnds (s : State) : State :=
  { s with swc := { s.swc with coil := none, pulseEndAt := none, ready := false, rechargeAt := some (s.now.plus rechargeMs) } }

/-- The contact feedback shows the position a request asks for (R147). -/
def State.contactShows (s : State) (k : StringNo) (d : Direction) : Bool := s.swc.contact[k] == (d == .toClose)

/-- The current mismatch test of an interval set (R155). -/
def State.mismatchTest (s : State) (k : StringNo) : State :=
  if (s.string k).state == .opened then
    if 20 ≤ s.ssu.str[k].record.current.natAbs then
      if 3 ≤ (s.string k).mismatch + 1 then
        ((s.setRelease k fun r => { r with recloseAt := none }).becomeStuck k .stuckClosed)
      else s.setString k fun r => { r with mismatch := r.mismatch + 1 }
    else s.setString k fun r => { r with mismatch := 0 }
  else s.setString k fun r => { r with mismatch := 0 }

/-- A fresh-attempt request (R156). -/
def State.freshAttempt (s : State) (k : StringNo) : State :=
  match (s.string k).state with
  | .stuckClosed =>
    if (s.string k).holds.isEmpty then s.takenClosed k
    else s.queueOpen k (s.string k).holds.leading.1 (s.string k).holds.leading.2
  | .stuckOpen =>
    if (s.string k).holds.isEmpty then s.queueClose k
    else s.setString k fun r => { r with state := .opened, mismatch := 0 }
  | .closed => s
  | .opening => s
  | .opened => s
  | .closing => s
  | .disabled => s

/-! ### The initial setting (R142, R181) -/

/-- The cause an OPEN setting's isolation record takes (R142). -/
def MemoValue.hold : MemoValue → Option HoldRequest
  | .none => Option.none
  | .arc => some (.fault { cause := .arc, detail := HoldDetail.none })
  | .ground => some (.fault { cause := .ground, detail := HoldDetail.none })
  | .reverse => some (.fault { cause := .reverse, detail := HoldDetail.none })
  | .overcurrent => some (.fault { cause := .overcurrent, detail := HoldDetail.none })
  | .service => some .service
  | .stop => some .stop

/-- The holds of a string set OPEN from a memo value (R181). -/
def openHolds : Option MemoValue → HoldSet
  | some .stop => { HoldSet.empty with stop := some .remembered }
  | some v =>
    match v.hold with
    | some h => HoldSet.empty.add h
    | none => HoldSet.empty.add (.fault { cause := .unknown, detail := HoldDetail.none })
  | none => HoldSet.empty.add (.fault { cause := .unknown, detail := HoldDetail.none })

/-- The isolation record of a string set OPEN (R142). -/
def openRecord (now : Time) (v : Option MemoValue) (old : IsolationRecord) : IsolationRecord :=
  match (v.bind MemoValue.hold).bind fun h => h.cause.isolation with
  | some c => { active := true, cause := c, detail := HoldDetail.none, time := now }
  | none => old

/-- The initial setting of one string from its contact and its slot, none for a bad slot (R142, R181). -/
def State.initialSetting (s : State) (k : StringNo) (closed : Bool) (slot : Option MemoValue) : State :=
  if closed then
    match slot with
    | some .stop => (s.setString k fun r => { r with state := .closed, memo := .none }).askMemo k .none
    | none => (s.setString k fun r => { r with state := .closed, memo := .none }).askMemo k .none
    | some v =>
      let s := s.setString k fun r => { r with state := .closed, memo := v }
      match v.hold with
      | some h => s.addHold k h
      | none => s
  else
    let s := s.setString k fun r =>
      { r with state := .opened, holds := openHolds slot, memo := slot.getD .none, iso := openRecord s.now slot r.iso }
    let s := if slot.isNone then s.askMemo k .none else s
    s.startReclose k

end Sys2Proof.Machine
end

