-- ==== Sys2Proof/Machine/Decisions.lean ====
section
/-! DEFINITION. The SEL's decisions: the decision point, the ground decision, the yield-hold expiry (R38, R41, R52). -/

namespace Sys2Proof.Machine

/-- A hold request for a string in this state leaves no opening to confirm (R44). -/
def StringRecord.noOpening (r : StringRecord) : Bool :=
  r.state == .opened || r.state.stuck || (r.state == .closing && r.waiting)

/-- The SEL asks the SWC for a fault hold; the incident closes in the event when no opening is to come (R38, R44). -/
def State.requestHold (s : State) (kind : IncidentKind) (k : StringNo) (h : FaultHold) : State :=
  let t := s.addHold k (.fault h)
  if (s.string k).noOpening then t.closeIncident kind else t

/-- The decision point of the ARC incident (R38). -/
def State.decideArc (s : State) : State :=
  match s.sel.arc with
  | none => s
  | some i =>
    if i.state == .claiming && reached s.now i.decision then
      let s := (s.setArc (some { i with state := .decided })).withdrawClaim .arc
      let s := { s with sel := { s.sel with recent := some (i.rank, i.decision) } }
      s.requestHold .arc i.string { cause := .arc, detail := { rank := i.rank, round := i.round, tag := none } }
    else s

/-- The decision time of the GROUND incident (R52, R54). -/
def State.decideGround (s : State) : State :=
  match s.sel.ground with
  | none => s
  | some i =>
    if reached s.now i.decision then
      match i.state with
      | .claiming =>
        let s := (s.setGround (some { i with state := .decided })).withdrawClaim .ground
        if i.riso.getD rangeEnd < s.smu.settings.gfTrip ∧ s.smu.settings.gfAction = .isolate then
          (s.setSuspect i.string false).requestHold .ground i.string
            { cause := .ground, detail := { rank := i.rank, round := 0, tag := i.tag } }
        else (s.setSuspect i.string true).closeIncident .ground
      | .yielded => (s.setSuspect i.string false).closeIncident .ground
      | .decided => s
    else s

/-- The end of a yield hold: onset + SEL_WIN + YIELD_HOLD of the round (R40). -/
def State.yieldEnd (s : State) (i : Incident) : Time := i.onset.plus (s.smu.settings.selWin + s.smu.settings.yieldHold)

/-- The yield-hold expiry: a new round when the string still qualifies, else the incident closes (R41). A claim of the earlier round that
is still QUEUED is withdrawn before the new round queues its own; R41 names no such request (DESIGN CHOICE, log entry 44). -/
def State.yieldExpiry (s : State) : State :=
  match s.sel.arc with
  | none => s
  | some i =>
    if i.state == .yielded && reached s.now (s.yieldEnd i) then
      if s.smu.settings.arcQual ≤ s.eve[i.string].q ∧ i.round < s.smu.settings.arcRounds then
        (s.withdrawClaim .arc).openRound
          { i with round := i.round + 1, rank := s.roundRank (i.round + 1) s.eve[i.string].peak, onset := s.now,
                   decision := s.now.plus s.smu.settings.selWin }
      else s.closeIncident .arc
    else s

end Sys2Proof.Machine
end

