-- ==== Sys2Proof/Machine/Operands.lean ====
section
/-! DEFINITION. What an interval's samples become: the interval records, the ground record and the injector means (R2 to R5, R66). -/

namespace Sys2Proof.Machine

/-- The number of samples an interval takes of each input (R1). -/
def samplesPerInterval : Nat := 40

/-- A current or energy sample was clamped (R3). -/
def clampedSample (x : StringSamples) : Bool :=
  x.current.any (fun i => decide (i < -2000) || decide (2000 < i)) || x.energy.any (fun e => decide (4095 < e))

/-- The interval record of one string from its samples (R2, R3). -/
def intervalRecord (x : StringSamples) : IntervalRecord where
  current := meanInt (x.current.map (clampInt (-2000) 2000)) samplesPerInterval
  energy := meanNat (x.energy.map (clampNat 0 4095)) samplesPerInterval
  residual := meanInt (x.residual.map (clampInt (-2047) 2047)) samplesPerInterval
  saturated := clampedSample x

/-- A voltage mean: each sample above 1500 V is replaced by 1500 (R3). -/
def voltageMean (xs : List Nat) : Nat := meanNat (xs.map (clampNat 0 1500)) samplesPerInterval

/-- The injector current of an interval (R66). -/
def injectorMean (xs : List Int) : Int := meanInt (xs.map (clampInt (-4095) 4095)) samplesPerInterval

/-- The balance, thousandths (R5). -/
def balanceOf (vpg vng : Nat) : Nat := if vpg + vng = 0 then 500 else 1000 * vpg / (vpg + vng)

/-- The ground record of an interval (R5). -/
def groundRecord (vpg vng : List Nat) : GroundRecord where
  vpg := voltageMean vpg
  vng := voltageMean vng
  balance := balanceOf (voltageMean vpg) (voltageMean vng)

/-- The samples of one string; a set that lacks them reads as an input at rest (only of an ill-formed command). -/
def samplesOf (x : IntervalSamples) (k : StringNo) : StringSamples :=
  x.strings.getD k.val { current := [], energy := [], residual := [] }

/-- The SENSOR_FAULT counts and flag after a record (R4). -/
def senseUpdate (c : SenseString) (r : IntervalRecord) : SenseString :=
  if r.saturated then
    { satRun := min 3 (c.satRun + 1), clearRun := 0, sensorFault := c.sensorFault || decide (3 ≤ c.satRun + 1), record := r }
  else if c.sensorFault then
    if 100 ≤ c.clearRun + 1 then { satRun := 0, clearRun := 0, sensorFault := false, record := r }
    else { satRun := 0, clearRun := c.clearRun + 1, sensorFault := true, record := r }
  else { satRun := 0, clearRun := 0, sensorFault := false, record := r }

/-- The SSU forms the interval set: records of the fitted strings, the ground record, the injector means (R1, R6). -/
def State.formInterval (s : State) (x : IntervalSamples) : State :=
  forStrings s.fittedStrings
    (fun t k => { t with ssu := { t.ssu with str := modifyAt t.ssu.str k (fun c => senseUpdate c (intervalRecord (samplesOf x k))) } })
    { s with ssu := { s.ssu with ground := groundRecord x.vpg x.vng, intervalStart := some s.now,
                                 probeV := voltageMean x.sense, probeI := injectorMean x.injector } }

end Sys2Proof.Machine
end

