-- ==== Sys2Proof/Machine/EvidenceEngine.lean ====
section
/-! DEFINITION. The EVE: learning, scores, the box median, evidence, baselines, counters, trips and onsets (R9 to R22). -/

namespace Sys2Proof.Machine

/-- What one string brings into an interval set: its record, SENSOR_FAULT, whether it is CLOSED and whether it is
the string of the ARC incident (R9). -/
structure SetInput where
  record : IntervalRecord
  sensorFault : Bool
  closed : Bool
  arcString : Bool
  deriving DecidableEq, Repr

/-- The set input of a string. -/
def State.setInput (s : State) (k : StringNo) : SetInput where
  record := s.ssu.str[k].record
  sensorFault := s.ssu.str[k].sensorFault
  closed := (s.string k).state == .closed
  arcString := s.sel.arc.map (·.string) == some k

/-- Steps 1 and 2: a learn load, or the learning count (R10, R11). -/
def Evidence.learn (e : Evidence) (x : SetInput) : Evidence :=
  if e.learnPending then
    { e with base := 16 * x.record.energy, learning := 100, learnPending := false, score := 10, evid := 0, eligible := false }
  else if x.closed then { e with learning := e.learning - 1 }
  else e

/-- The score: 10 in learning, else the energy in tenths of the effective baseline (R11, R13). -/
def scoreOf (learning base energy : Nat) : Nat := if learning ≠ 0 then 10 else min 250 (160 * energy / max base 128)

/-- Steps 1 to 4 of a set for one string (R10 to R13). -/
def Evidence.observe (e : Evidence) (x : SetInput) (iMinArc : Nat) : Evidence :=
  let e := e.learn x
  { e with eligible := x.closed && !x.sensorFault && e.learning == 0 && decide ((iMinArc : Int) ≤ x.record.current)
           score := scoreOf e.learning e.base x.record.energy }

/-- Insert a score into an ascending list. -/
def insertScore (a : Nat) (xs : List Nat) : List Nat :=
  match xs with
  | [] => [a]
  | b :: rest => if a ≤ b then a :: b :: rest else b :: insertScore a rest

/-- Scores in ascending order, equal scores kept apart (R14). -/
def sortScores (xs : List Nat) : List Nat := xs.foldl (fun acc a => insertScore a acc) []

/-- The box median: none without eligible strings, 10 for one, else the lower median (R14). -/
def boxMedian (scores : List Nat) : Option Nat :=
  match scores with
  | [] => none
  | [_] => some 10
  | _ :: _ :: _ => some ((sortScores scores).getD ((scores.length - 1) / 2) 0)

/-- Step 6: the evidence (R15). -/
def evidenceOf (eligible : Bool) (score : Nat) (median : Option Nat) : Nat :=
  match median with
  | none => 0
  | some m => if eligible then score - m else 0

/-- Step 7: the baseline is frozen in this set (R16). -/
def frozen (x : SetInput) (evid iMinArc arcOnset : Nat) : Bool :=
  !x.closed || x.sensorFault || decide (x.record.current < (iMinArc : Int)) || decide (arcOnset ≤ evid) || x.arcString

/-- One baseline step toward 16·E (R16). -/
def baseStep (base energy : Nat) : Nat :=
  (clampInt 0 65520 ((base : Int) + ((16 * energy : Int) - (base : Int)).tdiv 64)).toNat

/-- A leaky counter (R17). -/
def leaky (n : Nat) (up : Bool) : Nat := if up then min 255 (n + 1) else n - 1

/-- The run peak (R18). -/
def runPeak (q q' peak evid : Nat) : Nat := if q' = 0 then 0 else if q = 0 then evid else max peak evid

/-- Steps 6 to 8 of a set for one string, `loaded` when it made a learn load (R15 to R18). -/
def Evidence.conclude (e : Evidence) (x : SetInput) (loaded : Bool) (median : Option Nat) (c : Settings) : Evidence :=
  let a := evidenceOf e.eligible e.score median
  let q' := leaky e.q (decide (c.arcOnset ≤ a))
  { e with
    evid := a
    base := if loaded || frozen x a c.iMinArc c.arcOnset then e.base else baseStep e.base x.record.energy
    q := q'
    peak := runPeak e.q q' e.peak a
    qr := leaky e.qr (x.closed && decide (x.record.current ≤ -(c.revLim : Int)))
    qo := leaky e.qo (x.closed && decide ((c.ocLim : Int) ≤ x.record.current)) }

/-- Steps 1 to 4 for every fitted string. -/
def State.observeAll (s : State) : State :=
  forStrings s.fittedStrings (fun t k => t.setEvidence k fun e => e.observe (s.setInput k) s.smu.settings.iMinArc) s

/-- Step 5: the scores of the eligible fitted strings. -/
def State.eligibleScores (s : State) : List Nat :=
  (s.fittedStrings.filter fun k => s.eve[k].eligible).map fun k => s.eve[k].score

/-- Steps 1 to 8 of a set (R9). -/
def State.evidenceUpdate (s : State) : State :=
  let t := s.observeAll
  let median := boxMedian t.eligibleScores
  forStrings s.fittedStrings
    (fun u k => u.setEvidence k fun e => e.conclude (s.setInput k) s.eve[k].learnPending median s.smu.settings) t

/-- A counter goes from one below its qualification to it (R21). -/
def trips (before after qual : Nat) : Bool := after == qual && before + 1 == qual

/-- The trip of a string in a set, if any (R21). -/
def tripOf (e e' : Evidence) (c : Settings) : Option FaultCause :=
  if trips e.qr e'.qr c.revQual then some .reverse else if trips e.qo e'.qo c.ocQual then some .overcurrent else none

/-- Step 9, first part: the trips are handed to the SWC in string order (R21). `e` is the table before the set. -/
def State.handTrips (s : State) (e : PerString Evidence) : State :=
  forStrings s.fittedStrings
    (fun t k => match tripOf e[k] s.eve[k] s.smu.settings with
      | none => t
      | some c => t.addHold k (.fault { cause := c, detail := HoldDetail.none })) s

/-- The onset candidates of a set (R19). -/
def State.candidates (s : State) (e : PerString Evidence) : List StringNo :=
  s.fittedStrings.filter fun k =>
    s.eve[k].eligible && decide (s.smu.settings.arcQual ≤ s.eve[k].q) && (tripOf e[k] s.eve[k] s.smu.settings).isNone

/-- The winner: highest P, the lowest number among equals (R19). -/
def State.winner (s : State) (ks : List StringNo) : Option StringNo :=
  ks.foldl (fun best k => match best with
    | none => some k
    | some b => if s.eve[b].peak < s.eve[k].peak then some k else some b) none

/-- An arc onset: the SEL opens the ARC incident, and the PRB learns of it (R20, R31, R62, R68). The ARC-CLAIM is queued
before the PRB withdraws its PROBE-OPEN or, as an injector, queues its PROBE-CLOSE of status ABORTED, so the claim is offered the
last place in the queue (DESIGN CHOICE, log entry 34). -/
def State.arcOnset (s : State) (k : StringNo) : State := (s.openArc k s.eve[k].peak).probeAbort

/-- The EVE takes an interval set (R9, R19). -/
def State.eveInterval (s : State) : State :=
  let t := s.evidenceUpdate
  let u := t.handTrips s.eve
  if s.sel.arc.isSome then u
  else match t.winner (t.candidates s.eve) with
    | none => u
    | some k => u.arcOnset k

end Sys2Proof.Machine
end

