-- ==== Sys2Proof/Machine/Flags.lean ====
section
/-! DEFINITION. The outputs and flags computed from the state: BOX TRIP, FAULT RELAY, the STATUS flags (R129, R136, R157). -/

namespace Sys2Proof.Machine

/-- Some fitted string is STUCK-CLOSED with a fault hold or a STOP hold (R157). -/
def State.boxTripCondition (s : State) : Bool :=
  s.fittedStrings.any fun k =>
    (s.string k).state == .stuckClosed && ((s.string k).holds.fault.isSome || (s.string k).holds.stop.isSome)

/-- A fitted string is CLOSED, unmarked and sound (R136). -/
def State.stringHealthy (s : State) (k : StringNo) : Bool :=
  (s.string k).state == .closed && !s.sel.suspect[k] && !s.ssu.str[k].sensorFault

/-- The conditions under which the FAULT RELAY is energised, BOX TRIP apart (R136). -/
def State.relayCondition (s : State) : Bool :=
  s.started && s.fittedStrings.all s.stringHealthy && (s.lnc.line == .listen || s.lnc.line == .up || s.lnc.line == .degraded)
    && !s.smu.configDefault && !s.lnc.conflict && !s.smu.memoFault

/-- The end of every event: the SWC and the RPT bring BOX TRIP and the FAULT RELAY to their conditions (R136, R157;
log entry 22). -/
def State.settle (s : State) : State :=
  { s with swc := { s.swc with boxTrip := s.boxTripCondition }
           rpt := { s.rpt with relay := s.relayCondition && !s.boxTripCondition } }

/-- Bit i of a flag character. -/
def flagBit (b : Bool) (i : Nat) : Nat := if b then 2 ^ i else 0

/-- The first flag character of a STATUS (R129, 10.3). -/
def State.statusFlags1 (s : State) : Byte :=
  BitVec.ofNat 8 (flagBit s.rsl.stopKey.accepted 7 + flagBit s.rsl.lockKey.accepted 6 + flagBit s.swc.boxTrip 5
    + flagBit (s.smu.supply == .low) 4 + flagBit s.smu.configDefault 3 + flagBit s.smu.configClamped 2
    + flagBit s.lnc.conflict 1 + flagBit s.smu.memoFault 0)

/-- The second flag character of a STATUS (R129, 10.3). -/
def State.statusFlags2 (s : State) (truncated : Bool) : Byte :=
  BitVec.ofNat 8 (flagBit truncated 7 + flagBit s.sel.concurrent 6 + flagBit (!s.pvw.stopSet.isEmpty) 5)

end Sys2Proof.Machine
end

