-- ==== Sys2Proof/Machine/Release.lean ====
section
/-! DEFINITION. The PVW's Stop Set and the RSL: stops taken and removed, presses, recloses, keys (chapters 6 and 8). -/

namespace Sys2Proof.Machine

/-! ### The Stop Set (R125 to R127) -/

/-- Put an address into the set once; the list is kept ascending. -/
def insertAddress (a : Nat) (xs : List Nat) : List Nat :=
  match xs with
  | [] => [a]
  | b :: rest => if a < b then a :: b :: rest else if a == b then b :: rest else b :: insertAddress a rest

/-- Change the Stop Set. -/
def State.setStopSet (s : State) (xs : List Nat) : State := { s with pvw := { s.pvw with stopSet := xs } }

/-- The PVW takes an ARRAY-STOP of an address (R126). -/
def State.takeArrayStop (s : State) (a : Nat) : State :=
  let s := s.setStopSet (insertAddress a s.pvw.stopSet)
  let s := forStrings s.fittedStrings (fun t k => t.addHold k .stop) s
  s.selSuperseded.probeBarred

/-- The Stop Set has become empty: STOP tied to it is released on every fitted string (R171). -/
def State.releaseStops (s : State) : State := forStrings s.fittedStrings (fun t k => t.releaseHold k .stopTied) s

/-- A member leaves the Stop Set (R127). -/
def State.removeStop (s : State) (a : Nat) : State :=
  if s.pvw.stopSet.contains a then
    let t := s.setStopSet (s.pvw.stopSet.filter fun b => b != a)
    if t.pvw.stopSet.isEmpty then t.releaseStops else t
  else s

/-- The remembered-stop expiry (R172). -/
def State.releaseRemembered (s : State) : State :=
  forStrings s.fittedStrings (fun t k => t.releaseHold k .stopRemembered) s

/-! ### The RESTORE pushbutton (R160, R161) -/

/-- Stop a string's reclose timer (R166). -/
def State.stopReclose (s : State) (k : StringNo) : State := s.setRelease k fun r => { r with recloseAt := none }

/-- Release a string's fault hold, whatever its cause, and stop its reclose timer (R161, R163). -/
def State.releaseFault (s : State) (k : StringNo) : State :=
  match (s.string k).holds.fault with
  | none => s
  | some f => (s.stopReclose k).releaseHold k (.fault f.cause)

/-- An accepted press (R161). -/
def State.press (s : State) : State :=
  let s := forStrings s.fittedStrings (fun t k => (t.releaseFault k).releaseHold k .service) s
  forStrings s.fittedStrings State.freshAttempt s

/-- Change the pushbutton filter and its test. -/
def State.setButton (s : State) (b : ButtonState) (test : Option Time) : State :=
  { s with rsl := { s.rsl with button := b, buttonAt := test } }

/-- The pushbutton input changes (R160). The filter runs from the listen period on (R159). -/
def State.buttonInput (s : State) (pressed : Bool) : State :=
  if s.rsl.buttonIn == pressed then s
  else
    let s := { s with rsl := { s.rsl with buttonIn := pressed } }
    let test := some (s.now.plus inputTestMs)
    if s.started then
      match s.rsl.button with
      | .waitOpen => s.setButton .waitOpen (if pressed then none else test)
      | .released => if pressed then s.setButton .pressing test else s
      | .pressing => if pressed then s else s.setButton .released none
      | .pressed => s.setButton .pressed (if pressed then none else test)
    else s

/-- The 50 ms test of the pushbutton expires (R160). -/
def State.buttonExpiry (s : State) : State :=
  if s.started && expired s.now s.rsl.buttonAt then
    match s.rsl.button with
    | .waitOpen => s.setButton .released none
    | .released => s
    | .pressing => (s.setButton .pressed none).press
    | .pressed => s.setButton .released none
  else s

/-! ### Reclose (R165, R167) -/

/-- A reclose timer expires (R165). -/
def State.recloseExpired (s : State) (k : StringNo) : State :=
  if expired s.now s.rsl.str[k].recloseAt then
    let s := s.setRelease k fun r => { r with recloseAt := none, reclose := min 3 (r.reclose + 1) }
    if (s.string k).holds.reclosable then s.releaseFault k else s
  else s

/-- A closed timer expires (R167). -/
def State.closedExpired (s : State) (k : StringNo) : State :=
  if expired s.now s.rsl.str[k].closedAt then s.setRelease k fun r => { r with closedAt := none, reclose := 0 } else s

/-! ### The keys (R168 to R174) -/

/-- A stop announcement is asked of the LNC: an attempt in progress is ended, the line is driven dominant for
300 ms, and no frame is received meanwhile (R118, log entry 10). Asked again during the drive, the 300 ms start anew, with
one flush and one ARRAY-STOP at their end (log entry 35). A frame taken whole before the drive stays in `rxDone`, to be judged
by FRAME_COMPLETION also during the drive (DESIGN CHOICE, log entry 46). -/
def State.announceStop (s : State) : State :=
  if s.listenOnly then s
  else
    let s := if s.lnc.rx == .frame && s.lnc.sending.isNone then s.countError else s
    { s with lnc := { s.lnc with sending := none, tx := [], rx := .sync, rxChars := [], ownRun := true,
                                 breakEndAt := some (s.now.plus breakDriveMs) } }

/-- Start the stop repeat timer, except at a listen-only station (R168). -/
def State.startRepeat (s : State) : State :=
  if s.listenOnly then s else { s with rsl := { s.rsl with repeatAt := some (s.now.plus stopRepeatMs) } }

/-- The ARRAY STOP key is accepted as closed (R168). -/
def State.stopKeyCloses (s : State) : State := ((s.takeArrayStop s.smu.address).announceStop).startRepeat

/-- The ARRAY STOP key is accepted as open (R170). -/
def State.stopKeyOpens (s : State) : State :=
  let s := { s with rsl := { s.rsl with repeatAt := none } }
  (s.removeStop s.smu.address).queueFrame (newFrame .arrayResume 0 [])

/-- The LOCKOUT key is accepted as closed (R173). -/
def State.lockKeyCloses (s : State) : State :=
  let s := forStrings s.fittedStrings (fun t k => t.addHold k .lockout) s
  s.selSuperseded.probeBarred

/-- The LOCKOUT key is accepted as open (R174). -/
def State.lockKeyOpens (s : State) : State := forStrings s.fittedStrings (fun t k => t.releaseHold k .lockout) s

/-- A key. -/
def State.key (s : State) : Key → KeyState
  | .arrayStop => s.rsl.stopKey
  | .lockout => s.rsl.lockKey

/-- Change a key. -/
def State.setKey (s : State) (k : Key) (x : KeyState) : State :=
  match k with
  | .arrayStop => { s with rsl := { s.rsl with stopKey := x } }
  | .lockout => { s with rsl := { s.rsl with lockKey := x } }

/-- A key input changes: its acceptance test starts or is cancelled (R168, R173). -/
def State.keyInput (s : State) (k : Key) (closed : Bool) : State :=
  let x := s.key k
  if x.input == closed then s
  else if s.started then
    s.setKey k { x with input := closed, testAt := if closed == x.accepted then none else some (s.now.plus inputTestMs) }
  else s.setKey k { x with input := closed }

/-- A key input has held its new position for 50 ms: a closing or an opening (R168, R170, R173, R174). -/
def State.keyAccepted (s : State) (k : Key) : State :=
  let x := s.key k
  if s.started && expired s.now x.testAt then
    let s := s.setKey k { x with accepted := x.input, testAt := none }
    match k, x.input with
    | .arrayStop, true => s.stopKeyCloses
    | .arrayStop, false => s.stopKeyOpens
    | .lockout, true => s.lockKeyCloses
    | .lockout, false => s.lockKeyOpens
  else s

/-- The stop repeat timer expires while the key is accepted closed (R169). -/
def State.stopRepeat (s : State) : State :=
  if s.rsl.stopKey.accepted && expired s.now s.rsl.repeatAt then s.announceStop.startRepeat else s

/-! ### The start of the watching (R159, R182) -/

/-- At the hand-over the RSL begins to watch its three inputs. -/
def State.beginWatching (s : State) : State :=
  let test := some (s.now.plus inputTestMs)
  { s with rsl := { s.rsl with buttonAt := if s.rsl.buttonIn then none else test
                               stopKey := { s.rsl.stopKey with testAt := if s.rsl.stopKey.input then test else none }
                               lockKey := { s.rsl.lockKey with testAt := if s.rsl.lockKey.input then test else none } } }

end Sys2Proof.Machine
end

