-- ==== Sys2Proof/Machine/Report.lean ====
section
/-! DEFINITION. The RPT: STATUS, SERVICE requests and their ANSWER (R128 to R135). -/

namespace Sys2Proof.Machine

/-! ### STATUS (R128 to R130) -/

/-- The exception code of an OPEN string by its holds (R130). -/
def HoldSet.exceptionCode (h : HoldSet) : Nat :=
  match h.fault with
  | some f =>
    match f.cause with
    | .arc => 1
    | .ground => 2
    | .reverse => 3
    | .overcurrent => 4
    | .unknown => 8
  | none => if h.stop.isSome then 6 else if h.lockout then 7 else if h.service then 5 else 8

/-- The exception code of a fitted string, none when it does not qualify (R130). -/
def State.exceptionOf (s : State) (k : StringNo) : Option Nat :=
  match (s.string k).state with
  | .stuckClosed => some 11
  | .stuckOpen => some 12
  | .opened => some (s.string k).holds.exceptionCode
  | .opening => some 9
  | .closing => some 10
  | .closed => if s.sel.suspect[k] then some 13 else if s.ssu.str[k].sensorFault then some 14 else none
  | .disabled => none

/-- The exception entries of all strings that qualify, ascending (R130, 10.3). -/
def State.exceptions (s : State) : List Byte :=
  s.fittedStrings.filterMap fun k => (s.exceptionOf k).map fun c => BitVec.ofNat 8 (16 * k.number + c)

/-- The payload of a STATUS built now (R129, 10.3). Bits 7 and 3 of character 1 are sent 0 (log entry 37). -/
def State.statusPayload (s : State) : List Byte :=
  [BitVec.ofNat 8 (16 * s.lnc.line.code + s.lnc.level), s.statusFlags1, s.statusFlags2 (decide (11 < s.exceptions.length))]
    ++ unsigned16 s.prb.lastRiso ++ s.exceptions.take 11

/-- The RPT builds a STATUS and hands it to the LNC; the SEL notes a flag taken into it (R49, R128). -/
def State.buildStatus (s : State) : State :=
  s.queueFrame { newFrame .status 0 s.statusPayload with flagNote := s.sel.concurrent }

/-! ### SERVICE (R131 to R135) -/

/-- The frame matches this station: address and destination agree under the mask (R131). -/
def addressMatches (own dest mask : Nat) : Bool := Nat.land own mask == Nat.land dest mask

/-- Strings 1..12 of a string set, ascending; the set's bits for 13..16 are passed over (R132, 10.3). -/
def setStrings (bits : Nat) : List StringNo := allStrings.filter fun k => bits.testBit k.val

/-- The string holds a hold a line RESTORE may release (R132). -/
def HoldSet.lineReleasable (h : HoldSet) : Bool :=
  h.service || (match h.fault with
    | some f => f.cause == .ground || f.cause == .reverse || f.cause == .overcurrent
    | none => false)

/-- The string is held by a fault hold a line RESTORE may not touch (R132). -/
def HoldSet.refusesCause (h : HoldSet) : Bool :=
  match h.fault with
  | some f => f.cause == .arc || f.cause == .unknown
  | none => false

/-- The result RESTORE gives a string (R132). -/
def State.restoreResult (s : State) (k : StringNo) : ServiceResult :=
  if !s.fitted k then .notFitted
  else if (s.string k).state.stuck then .refusedStuck
  else if (s.string k).holds.refusesCause then .refusedCause
  else if (s.string k).holds.stop.isSome || (s.string k).holds.lockout then .heldOther
  else if (s.string k).holds.lineReleasable then .done
  else .noChange

/-- The RSL's releases for a string given DONE or HELD-OTHER (R163). -/
def State.lineRelease (s : State) (k : StringNo) : State := (s.releaseFault k).releaseHold k .service

/-- RESTORE over a string set: results from the state at the delivery, then the releases (R132, R163). -/
def State.serviceRestore (s : State) (ks : List StringNo) : State × List (StringNo × ServiceResult) :=
  let results := ks.map fun k => (k, s.restoreResult k)
  (forStrings (ks.filter fun k => s.restoreResult k == .done || s.restoreResult k == .heldOther) State.lineRelease s, results)

/-- The result OPEN gives a string (R133). -/
def State.openResult (s : State) (k : StringNo) : ServiceResult :=
  if !s.fitted k then .notFitted
  else if (s.string k).state.stuck then .refusedStuck
  else if (s.string k).holds.service then .noChange
  else .done

/-- OPEN over a string set (R133). -/
def State.serviceOpen (s : State) (ks : List StringNo) : State × List (StringNo × ServiceResult) :=
  let results := ks.map fun k => (k, s.openResult k)
  (forStrings (ks.filter fun k => s.openResult k == .done) (fun t k => t.addHold k .service) s, results)

/-- The state code of a string report (10.4). -/
def StringState.reportCode : StringState → Nat
  | .closed => 1
  | .opening => 2
  | .opened => 3
  | .closing => 4
  | .stuckClosed => 5
  | .stuckOpen => 6
  | .disabled => 0

/-- A fault cause's code, 0 for none (10.4). -/
def causeCode (c : Option FaultCause) : Nat := (c.map FaultCause.code).getD 0

/-- Characters 13 to 16 of a string report: the isolation record while active, else zeros (R134, 10.4). -/
def isolationReport (r : IsolationRecord) (now : Time) : List Byte :=
  if r.active then
    [BitVec.ofNat 8 (r.cause.code + 8 * r.detail.round), BitVec.ofNat 8 r.detail.rank] ++ unsigned16 (min 65535 (now.since r.time / 1000))
  else [0, 0, 0, 0]

/-- The string report of QUERY, characters 4 to 16 (R134, 10.4). -/
def State.stringReport (s : State) (k : StringNo) : List Byte :=
  let r := s.string k
  let e := s.eve[k]
  [BitVec.ofNat 8 (r.state.reportCode + 8 * causeCode r.holds.later + flagBit s.sel.suspect[k] 6 + flagBit s.ssu.str[k].sensorFault 7),
   BitVec.ofNat 8 (causeCode (r.holds.fault.map (·.cause)) + flagBit r.holds.stop.isSome 3
     + flagBit (r.holds.stop == some .remembered) 4 + flagBit r.holds.lockout 5 + flagBit r.holds.service 6
     + flagBit s.swc.driveSupply 7)]
  ++ signed16 s.ssu.str[k].record.current
  ++ [BitVec.ofNat 8 e.score, BitVec.ofNat 8 e.evid]
  ++ unsigned16 (e.base / 16)
  ++ [BitVec.ofNat 8 e.q]
  ++ isolationReport r.iso s.now

/-- QUERY of a string: character 3 and, for a fitted string, the report (R134, 10.4). -/
def State.queryResults (s : State) (k : StringNo) : List Byte :=
  if s.fitted k then BitVec.ofNat 8 (16 * k.number + ServiceResult.done.code) :: s.stringReport k
  else [BitVec.ofNat 8 (16 * k.number + ServiceResult.notFitted.code)]

/-- A string result as one character (10.4). -/
def resultByte (x : StringNo × ServiceResult) : Byte := BitVec.ofNat 8 (16 * x.1.number + x.2.code)

/-- A matching SERVICE is carried out: the state after, and the result characters of its ANSWER (R131 to R134). -/
def State.carryOut (s : State) (op : Operation) (h l : Byte) : State × List Byte :=
  match op with
  | .restore =>
    let r := s.serviceRestore (setStrings (word16 h l))
    (r.1, r.2.map resultByte)
  | .opens =>
    let r := s.serviceOpen (setStrings (word16 h l))
    (r.1, r.2.map resultByte)
  | .probeNow =>
    let r := s.serviceTrigger
    (r.1, [BitVec.ofNat 8 r.2.code])
  | .query => (s, s.queryResults (Fin.ofNat 12 (l.toNat - 1)))

/-- A SERVICE frame is delivered (R131, R135). -/
def State.serviceDelivered (s : State) (f : Received) : State :=
  let c := fun i => (charAt f.payload i).toNat
  if addressMatches s.smu.address (c 0) (c 1) then
    match Operation.ofCode (c 2) with
    | none => s
    | some op =>
      let r := s.carryOut op (charAt f.payload 3) (charAt f.payload 4)
      if c 1 == 31 then
        r.1.queueFrame (newFrame .answer 0 ([BitVec.ofNat 8 f.source, BitVec.ofNat 8 op.code] ++ r.2))
      else r.1
  else s

end Sys2Proof.Machine
end

