-- ==== Sys2Proof/Machine/LineEvents.lean ====
section
/-! DEFINITION. The LNC: characters, frames and their delivery, attempts and their outcomes, health, line states, breaks
(chapter 5), with the Peer Table (R121 to R124). -/

namespace Sys2Proof.Machine

/-- Change the LNC's state. -/
def State.setLnc (s : State) (l : Lnc) : State := { s with lnc := l }

/-! ### Outcomes of queued frames (R109) -/

/-- How a frame leaves the queue, for the owners that act on it (R109). -/
inductive FrameOutcome where
  | completed
  | dropped
  | withdrawn
  | removedByBreak
  deriving DecidableEq, Repr

/-- The claim state an outcome gives (R34). -/
def FrameOutcome.claim : FrameOutcome → ClaimState
  | .completed => .sent
  | .dropped => .dropped
  | .withdrawn => .withdrawn
  | .removedByBreak => .dropped

/-- A STATUS that carried the concurrent isolation flag has completed: the flag clears, unless it has been set again
since the build (R49). -/
def State.statusCompleted (s : State) (f : QueuedFrame) : State :=
  if f.flagNote then { s with sel := { s.sel with concurrent := false } } else s

/-- The report of an outcome to the owner of the frame (R34, R49, R62, R70, R109). -/
def State.reportOutcome (s : State) (f : QueuedFrame) (o : FrameOutcome) : State :=
  match f.kind with
  | .arcClaim => s.claimReport .arc o.claim
  | .locate => s.claimReport .ground o.claim
  | .probeOpen =>
    match o with
    | .completed => s.injectorStart f
    | .dropped => s.probeOpenLost
    | .removedByBreak => s.probeOpenLost
    | .withdrawn => s.probeOpenWithdrawn
  | .probeClose =>
    match o with
    | .completed => s.injectorEnd
    | .dropped => s.probeCloseLost
    | .removedByBreak => s.probeCloseLost
    | .withdrawn => s.probeCloseLost
  | .status =>
    match o with
    | .completed => s.statusCompleted f
    | .dropped => s
    | .removedByBreak => s
    | .withdrawn => s
  | .arrayStop => s
  | .arrayResume => s
  | .isolated => s
  | .service => s
  | .answer => s

/-- The frame with an attempt in progress. -/
def State.sendingFrame (s : State) : Option QueuedFrame :=
  match s.lnc.sending with
  | none => none
  | some e => s.lnc.queue.find? fun f => f.entry == e

/-- A pending STATUS is taken as a new frame after the old one has completed or been dropped (R105, step 2). -/
def State.takePending (s : State) : State :=
  match s.lnc.pendingStatus with
  | none => s
  | some p => ((s.setLnc { s.lnc with pendingStatus := none }).makeRoomAndEnter p).1

/-- The attempt ended without completion and the frame is still queued: a withdrawal asked meanwhile is granted
(R110), and a pending STATUS replaces the STATUS (R105). -/
def State.attemptEnded (s : State) (f : QueuedFrame) : State :=
  if f.withdrawAsked then (s.removeEntry f.entry).reportOutcome f .withdrawn
  else if f.kind == .status then
    match s.lnc.pendingStatus with
    | none => s
    | some p => ((s.removeEntry f.entry).setLnc { (s.removeEntry f.entry).lnc with pendingStatus := none }).enterFrame p
  else s

/-- The end of a STATUS's attempt by completion or drop takes the pending STATUS (R105). -/
def State.afterLeaving (s : State) (f : QueuedFrame) : State := if f.kind == .status then s.takePending else s

/-! ### Attempts (R98, R106 to R109) -/

/-- The frame offered for an attempt: the first in queue order, but stop frames only in the listen period, and none
in STUCK (R106). -/
def State.offered (s : State) : Option QueuedFrame :=
  if s.lnc.line == .stuck then none
  else match s.lnc.queue with
    | [] => none
    | f :: _ =>
      if s.smu.phase == .listening then (if f.kind == .arrayStop || f.kind == .arrayResume then some f else none)
      else some f

/-- The levels a frame of this station is sent as: its characters and check under the own address (R96, R97, R188). -/
def State.sentLevels (s : State) (f : QueuedFrame) : List Level :=
  frameLevels (frameChars f.kind f.rank s.smu.address f.payload)

/-- An attempt begins with the offered frame (R98, R106); the receiver is in FRAME from the first start bit (R107). -/
def State.startAttempt (s : State) : State :=
  match s.lnc.sending with
  | some _ => s
  | none =>
    match s.offered with
    | none => s
    | some f => s.setLnc { s.lnc with sending := some f.entry, tx := s.sentLevels f, rx := .frame, rxChars := [] }

/-- The line has been recessive for 12 bit times (R98, R99). -/
def State.idleGap (s : State) : State :=
  if s.lnc.breakEndAt.isSome || s.lnc.line == .stuck then s
  else
    (s.setLnc { s.lnc with rx := if s.lnc.rx == .sync then .ready else s.lnc.rx, ownRun := false, dominantRun := 0 }).startAttempt

/-- Bit i of a frame, the first start bit being bit 0, is a data bit of characters 1 to 3 (R96, R107). -/
def arbitrationBit (i : Nat) : Bool := decide (i < 33 ∧ 1 ≤ i % 11 ∧ i % 11 ≤ 8)

/-- What the comparison of the bits read back with the bits sent says of an attempt (R107 to R109). -/
inductive Verdict where
  | going
  | loss
  | bitError
  | sent
  deriving DecidableEq, Repr

/-- The comparison from bit i on: the first difference decides. It is a loss when the bit was sent recessive within the arbitration
bits, else a bit error (R107, R108); with none the frame is sent once its last bit has been read back (R109). -/
def readBack (i : Nat) : List Level → List Level → Verdict
  | [], _ => .sent
  | _ :: _, [] => .going
  | b :: tx, r :: read =>
    if b = r then readBack (i + 1) tx read
    else if b = .recessive ∧ arbitrationBit i = true then .loss else .bitError

/-- What the bits read back say of the attempt in progress, sent as `Lnc.tx`. -/
def State.verdict (s : State) (read : List Level) : Verdict := readBack 0 s.lnc.tx read

/-- The attempt in progress loses arbitration (R107). A withdrawal asked meanwhile is granted at once, also when the dominant run behind the loss
later becomes a break (R110, R120; log entry 42). -/
def State.loseAttempt (s : State) : State :=
  match s.sendingFrame with
  | none => s
  | some f => (s.setLnc { s.lnc with sending := none, tx := [] }).attemptEnded f

/-- ARBITRATION_LOSS: the attempt is lost when a bit sent recessive within the data bits of characters 1 to 3 was read dominant,
every bit before it as sent (R107). -/
def State.arbitrationLoss (s : State) (read : List Level) : State := if s.verdict read = .loss then s.loseAttempt else s

/-- Count a failed attempt in the queue. -/
def countFailure (e : Nat) (q : List QueuedFrame) : List QueuedFrame :=
  q.map fun f => if f.entry == e then { f with failed := f.failed + 1 } else f

/-- The attempt in progress fails by a bit error (R108); one that a break causes leaves the frame and its count to the flush (R120). -/
def State.failAttempt (s : State) (byBreak : Bool) : State :=
  match s.sendingFrame with
  | none => s
  | some f =>
    let s := s.countError
    let s := s.setLnc { s.lnc with sending := none, tx := [], rx := .sync, rxChars := [] }
    if byBreak then s
    else if 3 ≤ f.failed + 1 then ((s.removeEntry f.entry).reportOutcome f .dropped).afterLeaving f
    else (s.setLnc { s.lnc with queue := countFailure f.entry s.lnc.queue }).attemptEnded f

/-- BIT_ERROR: the attempt fails when a bit was read different from the bit sent, every bit before it as sent, and this is no loss of
arbitration (R108). -/
def State.bitError (s : State) (read : List Level) (byBreak : Bool) : State :=
  if s.verdict read = .bitError then s.failAttempt byBreak else s

/-- The attempt in progress completes: the last stop bit of the own frame has been sent (R109). -/
def State.completeAttempt (s : State) : State :=
  match s.sendingFrame with
  | none => s
  | some f =>
    let s := s.setLnc { s.lnc with sending := none, tx := [], rx := .ready, rxChars := [], rxDone := none }
    ((s.removeEntry f.entry).reportOutcome f .completed).afterLeaving f

/-- TRANSMIT_COMPLETED: the attempt completes when every bit of the frame was read back as sent, with no loss and no bit error
(R107, R109). -/
def State.transmitCompleted (s : State) (read : List Level) : State := if s.verdict read = .sent then s.completeAttempt else s

/-! ### Receiving (R99 to R103) -/

/-- The length a frame announces in character 4. -/
def announced (xs : List Byte) : Nat := (charAt xs 3).toNat

/-- A character appended to the frame being assembled (R100). -/
def State.appendChar (s : State) (c : Byte) : State :=
  let xs := s.lnc.rxChars ++ [c]
  if xs.length == 4 && decide (16 < announced xs) then
    s.countError.setLnc { s.countError.lnc with rx := .sync, rxChars := [] }
  else if decide (4 ≤ xs.length) && xs.length == announced xs + 6 then
    s.setLnc { s.lnc with rx := .ready, rxChars := [], rxDone := some xs }
  else s.setLnc { s.lnc with rxChars := xs }

/-- A character is taken (R99, R100). While the own break is driven nothing is received (R118), and in STUCK no
character is read (R111). -/
def State.characterTaken (s : State) (c : Byte) (mark stop : Level) : State :=
  if s.lnc.breakEndAt.isSome || s.lnc.line == .stuck then s
  else
    match s.lnc.rx with
    | .sync => s
    | .ready =>
      match stop, mark with
      | .dominant, _ => s.countError.setLnc { s.countError.lnc with rx := .sync, rxChars := [] }
      | .recessive, .recessive => s.setLnc { s.lnc with rx := .frame, rxChars := [c] }
      | .recessive, .dominant => s
    | .frame =>
      match stop, mark with
      | .dominant, _ => s.countError.setLnc { s.countError.lnc with rx := .sync, rxChars := [] }
      | .recessive, .recessive => s.setLnc { s.lnc with rxChars := [c] }
      | .recessive, .dominant => s.appendChar c

/-- 33 bit times without a start bit inside a frame (R100). -/
def State.characterGap (s : State) : State :=
  if s.lnc.rx == .frame && s.lnc.sending.isNone then
    s.countError.setLnc { s.countError.lnc with rx := .ready, rxChars := [] }
  else s

/-- The Peer Table entry of an address 1..31 (R121). -/
def State.setPeer (s : State) (p : PeerNo) (e : PeerEntry) : State := { s with pvw := { s.pvw with peers := s.pvw.peers.set p.val e } }

/-- A frame counts as heard from its source: the Peer Table first, then the line state (R102, R114, R122). -/
def State.heard (s : State) (p : PeerNo) : State :=
  let s := s.setPeer p { presence := .present, lastHeard := some s.now }
  if s.lnc.line == .down then s.setLnc { s.lnc with lastGood := some s.now, line := .up, cleanRun := 0 }
  else s.setLnc { s.lnc with lastGood := some s.now }

/-- The Claim Log entry of a delivered claim frame (R27, 10.3). -/
def State.claimOf (s : State) (k : ClaimKind) (f : Received) : ClaimEntry :=
  { kind := k, source := f.source, rank := f.rank,
    cause := if k == .isolated then IsoCause.ofCode (charAt f.payload 1).toNat else none,
    tag := if k == .locate then some { injector := (charAt f.payload 0).toNat, sequence := (charAt f.payload 1).toNat } else none,
    arrival := s.now }

/-- A STATUS of a peer whose stop-key flag is clear removes it from the Stop Set (R124). -/
def State.statusDelivered (s : State) (f : Received) : State :=
  if (charAt f.payload 1).getLsbD 7 then s else s.removeStop f.source

/-- A good frame is delivered to the blocks that own its kind (R102). At an ISOLATED the SEL acts before the PRB, an order R102 leaves
open (DESIGN CHOICE, log entry 45). -/
def State.deliver (s : State) (k : Kind) (f : Received) : State :=
  match k with
  | .arrayStop => s.takeArrayStop f.source
  | .arrayResume => s.removeStop f.source
  | .arcClaim => s.claimDelivered (s.claimOf .arcClaim f)
  | .locate => s.claimDelivered (s.claimOf .locate f)
  | .isolated => (s.claimDelivered (s.claimOf .isolated f)).probeDisturbed
  | .probeOpen => s.probeOpenTaken f
  | .probeClose => s.probeCloseDelivered f
  | .service => s.serviceDelivered f
  | .status => s.statusDelivered f
  | .answer => s

/-- A good frame is sorted (R101): its source, the own address, its kind and its form decide. -/
def State.sortFrame (s : State) (f : Received) : State :=
  if f.source = 0 ∨ 31 < f.source then s
  else if f.source = s.smu.address then s.setLnc { s.lnc with conflict := true }
  else
    let t := s.heard (Fin.ofNat 31 (f.source - 1))
    match Kind.ofCode f.code with
    | none => t
    | some k => if encodingFits k f.payload then t.deliver k f else t

/-- A frame has been taken to its last check character (R101). It is judged also while the own break is driven (DESIGN CHOICE,
log entry 46). -/
def State.frameCompleted (s : State) : State :=
  match s.lnc.rxDone with
  | none => s
  | some xs =>
    let s := s.setLnc { s.lnc with rxDone := none }
    if s.lnc.sending.isSome then s
    else match parseFrame xs with
      | none => s.countError
      | some f => s.sortFrame f

/-! ### Health and the receiver level (R111, R112, R115) -/

/-- The level after a bad period (R112). -/
def steppedLevel (level floor : Nat) : Nat := if level < 7 then level + 1 else floor

/-- The line state and clean-period run after a period that was bad or clean (R115). -/
def lineAfterPeriod (line : LineState) (run : Nat) (bad clean : Bool) : LineState × Nat :=
  match line with
  | .up => if bad then (.degraded, 0) else (.up, run)
  | .degraded =>
    if bad then (.degraded, 0)
    else if clean then (if 10 ≤ run + 1 then (.up, 0) else (.degraded, run + 1))
    else (.degraded, run)
  | .listen => (.listen, run)
  | .down => (.down, run)
  | .stuck => (.stuck, run)

/-- The end of a health period (R111, R112, R115). -/
def State.healthPeriodEnd (s : State) : State :=
  match s.lnc.periodEndAt with
  | none => s
  | some due =>
    if reached s.now due then
      let bad := decide (s.smu.settings.errLim ≤ s.lnc.errors)
      let clean := s.lnc.errors == 0 && !s.lnc.suspended
      let steps := bad && s.lnc.line != .stuck
      let next := lineAfterPeriod s.lnc.line s.lnc.cleanRun bad clean
      s.setLnc { s.lnc with
        line := next.1, cleanRun := next.2, errors := 0, periodEndAt := some (due.plus healthMs), suspended := steps,
        level := if steps then steppedLevel s.lnc.level s.smu.settings.rxFloor else s.lnc.level }
    else s

/-! ### Line states (R113 to R116) -/

/-- SILENCE_LIM in ms. -/
def State.silenceMs (s : State) : Nat := s.smu.settings.silenceLim * 1000

/-- The silence expiry of the line (R114). -/
def State.silence (s : State) : State :=
  if s.lineUsable && expired s.now (s.lnc.lastGood.map fun t => t.plus s.silenceMs) then
    s.setLnc { s.lnc with line := .down, cleanRun := 0 }
  else s

/-- The silence expiry of a Peer Table entry (R123). -/
def State.peerSilence (s : State) (p : PeerNo) : State :=
  let e := s.pvw.peers[p]
  if e.presence == .present && expired s.now (e.lastHeard.map fun t => t.plus s.silenceMs) then
    s.setPeer p { e with presence := .silent }
  else s

/-- Some Peer Table entry is PRESENT (R113). -/
def State.someonePresent (s : State) : Bool := s.pvw.peers.toList.any fun e => e.presence == .present

/-- The line becomes stuck (R116), which the PRB acts on (R62, R70). -/
def State.lineStuck (s : State) : State :=
  (s.setLnc { s.lnc with line := .stuck, cleanRun := 0, rx := .sync, rxChars := [] }).probeStuck

/-- STUCK_LINE: the dominant-run timer stands at the run since its first dominant bit, and from 1500 ms on the line is STUCK
(R95, R116). -/
def State.stuckLine (s : State) (run : Nat) : State :=
  let t := s.setLnc { s.lnc with dominantRun := run }
  if stuckMs ≤ run then t.lineStuck else t

/-- After STUCK the line has been recessive for the idle gap (R116). -/
def State.lineFreed (s : State) : State :=
  if s.lnc.line == .stuck then
    (s.setLnc { s.lnc with line := if s.smu.phase == .listening then .listen else .down, rx := .ready, rxChars := [], dominantRun := 0,
                           ownRun := false }).startAttempt
  else s

/-! ### The break (R118 to R120) -/

/-- A frame the flush keeps (R120). -/
def Kind.kept : Kind → Bool
  | .isolated => true
  | .arrayStop => true
  | .arrayResume => true
  | .arcClaim => false
  | .locate => false
  | .probeOpen => false
  | .probeClose => false
  | .service => false
  | .answer => false
  | .status => false

/-- The flush: the other frames are removed, and each is reported to its owner as removed by break (R120). -/
def State.flush (s : State) : State :=
  let removed := s.lnc.queue.filter fun f => !f.kind.kept
  let t := s.setLnc { s.lnc with queue := s.lnc.queue.filter fun f => f.kind.kept, pendingStatus := none, sending := none, tx := [] }
  removed.foldl (fun u f => u.reportOutcome f .removedByBreak) t

/-- A dominant run of 200 ms or more and less than 1500 ms has ended (R119); the run of the own break is not
recognised (R118), and one of another length is no break (R116, R119). The timer returns to 0 with the end of any run. -/
def State.breakRecognised (s : State) (run : Nat) : State :=
  if s.lnc.breakEndAt.isSome then s
  else if s.lnc.ownRun then s.setLnc { s.lnc with ownRun := false, dominantRun := 0 }
  else if breakMinMs ≤ run ∧ run < stuckMs then
    (s.setLnc { s.lnc with rx := .sync, rxChars := [], dominantRun := 0 }).flush
  else s.setLnc { s.lnc with dominantRun := 0 }

/-- The end of the own break drive: release, flush, and the ARRAY-STOP unless one is queued (R118). -/
def State.breakDriveEnd (s : State) : State :=
  if expired s.now s.lnc.breakEndAt then
    let t := (s.setLnc { s.lnc with breakEndAt := none }).flush
    if (t.queuedOf .arrayStop).isSome then t else t.queueFrame (newFrame .arrayStop 0 [])
  else s

end Sys2Proof.Machine
end

