-- ==== Sys2Proof/Machine/Settings.lean ====
section
/-! DEFINITION. The configuration record: its layout (10.6), its defaults (9.3), whether it is good (R178, R190) and its clamps (R179). -/

namespace Sys2Proof.Machine

/-- The default settings of 9.3. -/
def defaultSettings : Settings where
  lineRate := 19200
  rxFloor := 2
  errLim := 8
  silenceLim := 10
  statusPeriod := 2
  iMinArc := 50
  arcOnset := 30
  arcQual := 5
  selWin := 80
  yieldHold := 2000
  arcRounds := 3
  revLim := 100
  revQual := 10
  ocLim := 1400
  ocQual := 20
  recloseMax := 2
  recloseDelay := 60
  pulseMs := 20
  confirmMs := 100
  probePeriod := 15
  probeHp := 1000
  probeNp := 8
  probeSettle := 300
  shiftMin := 10
  locMin := 10
  gfTrip := 200
  gfAction := .isolate
  balShift := 50

/-- LINE_RATE codes; another code takes the default (R179). -/
def lineRateOf (c : Nat) : Nat := if c = 1 then 9600 else if c = 2 then 19200 else if c = 3 then 38400 else 19200

/-- GF_ACTION codes; another code takes the default (R179). -/
def gfActionOf (c : Nat) : GroundAction := if c = 2 then .report else .isolate

/-- PROBE_HP after its clamps (R179). -/
def clampHp (raw : Nat) : Nat := clampNat 200 2000 raw / 100 * 100

/-- PROBE_NP after its clamps (R179). -/
def clampNp (raw : Nat) : Nat := clampNat 4 16 raw / 2 * 2

/-- PROBE_SETTLE after its clamps, given the clamped PROBE_HP (R179). -/
def clampSettle (hp raw : Nat) : Nat := min (clampNat 50 1000 raw / 10 * 10) (hp / 2)

/-- The settings of a good record, each field clamped (R179; addresses of 10.6). -/
def clampedSettings (m : List Host.Cell) : Settings :=
  let b := fun a => (Memory.read m a).toNat
  let w := Memory.read16 m
  { lineRate := lineRateOf (b 0x02)
    rxFloor := clampNat 0 7 (b 0x03)
    errLim := clampNat 1 63 (b 0x04)
    silenceLim := clampNat 4 60 (b 0x05)
    statusPeriod := clampNat 1 10 (b 0x06)
    iMinArc := clampNat 0 500 (w 0x07)
    arcOnset := clampNat 10 200 (b 0x09)
    arcQual := clampNat 2 20 (b 0x0A)
    selWin := clampNat 40 250 (b 0x0B)
    yieldHold := clampNat 500 10000 (w 0x0C)
    arcRounds := clampNat 1 5 (b 0x0E)
    revLim := clampNat 10 1000 (w 0x0F)
    revQual := clampNat 2 50 (b 0x11)
    ocLim := clampNat 100 2000 (w 0x12)
    ocQual := clampNat 2 100 (b 0x14)
    recloseMax := clampNat 0 3 (b 0x15)
    recloseDelay := clampNat 10 600 (w 0x16)
    pulseMs := clampNat 10 50 (b 0x18)
    confirmMs := clampNat 50 500 (w 0x19)
    probePeriod := clampNat 5 60 (b 0x1B)
    probeHp := clampHp (w 0x1C)
    probeNp := clampNp (b 0x1E)
    probeSettle := clampSettle (clampHp (w 0x1C)) (w 0x1F)
    shiftMin := clampNat 5 50 (b 0x21)
    locMin := clampNat 2 100 (b 0x22)
    gfTrip := clampNat 20 2000 (w 0x23)
    gfAction := gfActionOf (b 0x25)
    balShift := clampNat 20 200 (b 0x26) }

/-- The record as stored, field by field in its unit; a code that is none of those listed is not represented, so
that the comparison of `recordClamped` adds it. -/
def storedSettings (m : List Host.Cell) : Settings :=
  let b := fun a => (Memory.read m a).toNat
  let w := Memory.read16 m
  { lineRate := lineRateOf (b 0x02)
    rxFloor := b 0x03
    errLim := b 0x04
    silenceLim := b 0x05
    statusPeriod := b 0x06
    iMinArc := w 0x07
    arcOnset := b 0x09
    arcQual := b 0x0A
    selWin := b 0x0B
    yieldHold := w 0x0C
    arcRounds := b 0x0E
    revLim := w 0x0F
    revQual := b 0x11
    ocLim := w 0x12
    ocQual := b 0x14
    recloseMax := b 0x15
    recloseDelay := w 0x16
    pulseMs := b 0x18
    confirmMs := w 0x19
    probePeriod := b 0x1B
    probeHp := w 0x1C
    probeNp := b 0x1E
    probeSettle := w 0x1F
    shiftMin := b 0x21
    locMin := b 0x22
    gfTrip := w 0x23
    gfAction := gfActionOf (b 0x25)
    balShift := b 0x26 }

/-- A code of a coded field is one of those listed (10.6). -/
def codeListed (c last : Nat) : Bool := decide (1 ≤ c) && decide (c ≤ last)

/-- At least one field of the record was changed by the clamps (R179). -/
def recordClamped (m : List Host.Cell) : Bool :=
  decide (clampedSettings m ≠ storedSettings m) || !codeListed (Memory.read m 0x02).toNat 3
    || !codeListed (Memory.read m 0x25).toNat 2

/-- The bytes a range of addresses holds. -/
def Memory.readRange (m : List Host.Cell) (a n : Nat) : List Byte := (List.range n).map fun i => Memory.read m (a + i)

/-- The record is present and its check agrees (R178, R190). -/
def recordGood (m : List Host.Cell) : Bool :=
  Memory.read m 0x00 == 0x5A#8 && Memory.read m 0x01 == 0xC3#8
    && Memory.read m 0x27 == crcHigh (crc (Memory.readRange m 0 0x27))
    && Memory.read m 0x28 == crcLow (crc (Memory.readRange m 0 0x27))

/-- STRINGS from the string-count straps: 0 or above 12 gives 12 (R177). -/
def stringCount (straps : Nat) : Nat := if straps = 0 ∨ 12 < straps then 12 else straps

/-- What READING takes from the memory: the settings and the two flags (R178, R179). -/
def State.readConfig (s : State) (answers : Bool) : State :=
  if answers && recordGood s.smu.mem then
    { s with smu := { s.smu with settings := clampedSettings s.smu.mem, configDefault := false, configClamped := recordClamped s.smu.mem } }
  else { s with smu := { s.smu with settings := defaultSettings, configDefault := true, configClamped := false } }

end Sys2Proof.Machine
end

