-- ==== Sys2Proof/Machine/StartUp.lean ====
section
/-! DEFINITION. Reset, READING, the hand-over, the listen end, the supply and the interval set as whole events (chapter 9,
R1, R6). -/

namespace Sys2Proof.Machine

/-- The shape of a meaning: time passes, the effect takes place, the outputs settle. -/
def State.event (s : State) (dt : Nat) (f : State → State) : Host.Outcome State Fault Refusal :=
  .next (f (s.elapse dt)).settle

/-- An effect of blocks that run from the hand-over on (R176, R182). -/
def whenStarted (f : State → State) (s : State) : State := if s.started then f s else s

/-! ### Reset (R176) -/

/-- The memory after a reset: a slot whose write was in progress is bad (R185). While a failed write's retry waits for RUN
no attempt is in the memory, and the slot keeps its bytes (log entry 39). -/
def State.memAfterReset (s : State) : List Host.Cell :=
  match s.smu.writer with
  | none => s.smu.mem
  | some w =>
    if w.busy then
      let t := tornBytes w.string s.freeBytes
      Memory.writeSlot s.smu.mem w.string t.1 t.2.1 t.2.2
    else s.smu.mem

/-- All volatile state is lost; the serial memory and the input pins stay, as do the waiting commands. A pulse in progress
is cut (R146), and the source recharges after it: its ready pin falls (R145, log entry 13). -/
def State.afterReset (s : State) : State :=
  { State.reset with
    pending := s.pending
    freeCount := s.freeCount + 3
    smu := { Smu.atReset with mem := s.memAfterReset }
    swc := { Swc.atReset with contact := s.swc.contact, ready := s.swc.ready && s.swc.coil.isNone }
    rsl := { Rsl.atReset with buttonIn := s.rsl.buttonIn
                              stopKey := { KeyState.atReset with input := s.rsl.stopKey.input }
                              lockKey := { KeyState.atReset with input := s.rsl.lockKey.input } } }

/-! ### READING (R177 to R179, R186) -/

/-- A reset by the supply lasts: since the last level below the reset threshold the supply has not risen to the release
level (R186). The levels are newest first. -/
def supplyHoldsReset (levels : List Nat) : Bool :=
  match levels.find? fun v => decide (v < supplyResetMv) || decide (supplyReleaseMv ≤ v) with
  | some v => decide (v < supplyResetMv)
  | none => false

/-- The RESET pin or the supply still holds the part in reset (R176, R186). -/
def resetHeld (p : StartPins) : Bool := p.resetAsserted || supplyHoldsReset (p.supply :: p.before)

/-- The supply state at the start of READING (R186). -/
def supplyAtStart (p : StartPins) : Supply := if supplyRunMv ≤ p.supply then .run else .low

/-- READING begins when nothing holds the reset: straps, supply state, configuration; the LNC takes RX_FLOOR (R95, R178). -/
def State.startReading (s : State) (address count : Nat) (pins : StartPins) (answers : Bool) : State :=
  if s.smu.phase == .inReset && !resetHeld pins then
    let s := s.setSmu { s.smu with phase := .reading, address := address, strings := stringCount count, supply := supplyAtStart pins }
    let s := s.readConfig answers
    s.setLnc { s.lnc with level := s.smu.settings.rxFloor }
  else s

/-! ### The hand-over (R180 to R182) -/

/-- What the slot of a string says; none when it is bad or the memory does not answer (R180). -/
def State.readSlot (s : State) (k : StringNo) (answers : Bool) : Option MemoValue :=
  if answers then
    slotValue k (Memory.read s.smu.mem (slotAddress k)) (Memory.read s.smu.mem (slotAddress k + 1)) (Memory.read s.smu.mem (slotAddress k + 2))
  else none

/-- The contact feedback inputs of the fitted strings are read (R180). -/
def State.readContacts (s : State) (closed : List Bool) : State :=
  forStrings s.fittedStrings
    (fun t k => { t with swc := { t.swc with contact := modifyAt t.swc.contact k fun _ => closed.getD k.val false } }) s

/-- The listen period begins and every block runs (R182). -/
def State.beginListening (s : State) : State :=
  let s := s.setSmu { s.smu with phase := .listening, listenEndAt := some (s.now.plus listenMs) }
  let s := s.setLnc { s.lnc with periodEndAt := some (s.now.plus healthMs) }
  let s := { s with ssu := { s.ssu with intervalStart := some s.now } }
  s.beginWatching.kickDrive

/-- The hand-over of all initial settings (R181). -/
def State.handOver (s : State) (closed answers : List Bool) : State :=
  if s.smu.phase == .reading then
    let s := s.readContacts closed
    let t := forStrings s.fittedStrings
      (fun u k => u.initialSetting k (s.swc.contact[k]) (s.readSlot k (answers.getD k.val false))) s
    t.beginListening
  else s

/-! ### The listen end (R183) -/

/-- The LNC leaves LISTEN (R113). -/
def State.leaveListen (s : State) : State :=
  if s.lnc.line == .listen then s.setLnc { s.lnc with line := if s.someonePresent then .up else .down, cleanRun := 0 } else s

/-- The PRB at the listen end (R59, R60, R73). -/
def State.probeListenEnd (s : State) : State :=
  let p := { s.prb with balRef := s.ssu.ground.balance }
  if s.listenOnly then s.setPrb p
  else s.setPrb { p with alarmArmed := true, staggerAt := none, alarmCount := 0, dueAt := some (s.now.plus s.dueMs), duePending := false,
                         retryAt := none }

/-- The offset of the first STATUS point, ms (R128). -/
def State.statusOffset (s : State) : Nat := s.smu.address * s.smu.settings.statusPeriod * 1000 / 32

/-- The RPT sets its first STATUS point (R128, R183). -/
def State.scheduleStatus (s : State) : State :=
  if s.listenOnly then s else { s with rpt := { s.rpt with statusAt := some (s.now.plus s.statusOffset) } }

/-- The end of the listen period (R183). -/
def State.listenEnd (s : State) : State :=
  if s.smu.phase == .listening && expired s.now s.smu.listenEndAt then
    let s := s.setSmu { s.smu with phase := .running, listenEndAt := none }
    let s := s.leaveListen.probeListenEnd.scheduleStatus
    s.setSmu { s.smu with rememberedAt := some (s.now.plus rememberedMs) }
  else s

/-- The remembered-stop expiry, announced to the RSL (R172, R183). -/
def State.rememberedExpiry (s : State) : State :=
  if expired s.now s.smu.rememberedAt then (s.setSmu { s.smu with rememberedAt := none }).releaseRemembered else s

/-! ### Supply (R186, R187) -/

/-- For how long, up to now, the supply has been at levels of a kind without interruption, ms (R186). -/
def heldNow (p : Nat → Bool) (course : List SupplySpan) : Nat := ((course.takeWhile fun x => p x.millivolts).map SupplySpan.held).sum

/-- The supply monitor's test of a kind of level has lasted its 10 ms (R186). -/
def testPassed (p : Nat → Bool) (course : List SupplySpan) : Bool := decide (supplyTestMs ≤ heldNow p course)

/-- The supply was below the reset threshold (R186). -/
def belowReset (course : List SupplySpan) : Bool := course.any fun x => decide (x.millivolts < supplyResetMv)

/-- The supply monitor takes a course of the supply pin (R186): a level below the reset threshold resets the part, whatever
the state; else the change follows when its test has passed. It does not run while the part is in reset (R176). -/
def State.watchSupply (s : State) (course : List SupplySpan) (p : Nat → Bool) (change : State → State) : State :=
  if s.smu.phase == .inReset then s
  else if belowReset course then s.afterReset
  else if testPassed p course then change s
  else s

/-- The supply state becomes LOW (R62, R68, R186). -/
def State.supplyLow (s : State) : State :=
  if s.smu.phase == .inReset || s.smu.supply == .low then s else (s.setSmu { s.smu with supply := .low }).probeAbort

/-- The supply state becomes RUN: the engine and the memo writer go on (R144, R184, R187). -/
def State.supplyRun (s : State) : State :=
  if s.smu.phase == .inReset || s.smu.supply == .run then s else (s.setSmu { s.smu with supply := .run }).kickDrive.kickMemo

/-! ### The interval set (R1, R6) -/

/-- The end of the interval in progress has been reached (R1). -/
def State.intervalOver (s : State) : Bool := expired s.now (s.ssu.intervalStart.map fun t => t.plus intervalMs)

/-- The SSU forms the set and hands it to the EVE, the PRB and the SWC (R6, R155; log entry 14). -/
def State.intervalCompletion (s : State) (x : IntervalSamples) : State :=
  if s.intervalOver then
    let s := (s.formInterval x).eveInterval.probeInterval
    forStrings s.fittedStrings State.mismatchTest s
  else s

end Sys2Proof.Machine
end

