-- ==== Sys2Proof/Machine/IncidentCommands.lean ====
section
/-! DEFINITION. The meanings of the SEL's expiry commands (chapter 2). -/

namespace Sys2Proof.Machine

/-- The entry of a source and kind is removed when 10 s have passed since its arrival (R28). -/
def State.claimExpiry (s : State) (source : Nat) (k : ClaimKind) : State :=
  { s with sel := { s.sel with claimLog := s.sel.claimLog.filter fun e =>
      !(e.source == source && e.kind == k && reached s.now (e.arrival.plus claimAgeMs)) } }

/-- The recent arc decision lapses 10 s after its time (R48). -/
def State.recentExpiry (s : State) : State :=
  if expired s.now (s.sel.recent.map fun x => x.2.plus recentMs) then { s with sel := { s.sel with recent := none } } else s

/-- CLAIM_EXPIRY (R28). -/
def execClaimExpiry (dt : Nat) (p : PeerNo) (k : ClaimKind) (s : State) : Host.Outcome State Fault Refusal :=
  s.event dt (whenStarted fun t => t.claimExpiry p.address k)

/-- DECISION_POINT (R38). -/
def execDecisionPoint (dt : Nat) (s : State) : Host.Outcome State Fault Refusal := s.event dt (whenStarted State.decideArc)

/-- GROUND_DECISION (R52). -/
def execGroundDecision (dt : Nat) (s : State) : Host.Outcome State Fault Refusal := s.event dt (whenStarted State.decideGround)

/-- YIELD_HOLD_EXPIRY (R41). -/
def execYieldHoldExpiry (dt : Nat) (s : State) : Host.Outcome State Fault Refusal := s.event dt (whenStarted State.yieldExpiry)

/-- RECENT_DECISION_EXPIRY (R48). -/
def execRecentDecisionExpiry (dt : Nat) (s : State) : Host.Outcome State Fault Refusal := s.event dt (whenStarted State.recentExpiry)

end Sys2Proof.Machine
end

