-- ==== Sys2Proof/Machine/LineCommands.lean ====
section
/-! DEFINITION. The meanings of the peer line commands (chapters 5 and 6). -/

namespace Sys2Proof.Machine

/-- CHARACTER_TAKEN (R99, R100). -/
def execCharacterTaken (dt : Nat) (c : Byte) (mark stop : Level) (s : State) : Host.Outcome State Fault Refusal :=
  s.event dt (whenStarted fun t => t.characterTaken c mark stop)

/-- CHARACTER_GAP_EXPIRY (R100). -/
def execCharacterGapExpiry (dt : Nat) (s : State) : Host.Outcome State Fault Refusal := s.event dt (whenStarted State.characterGap)

/-- FRAME_COMPLETION (R101, R102). -/
def execFrameCompletion (dt : Nat) (s : State) : Host.Outcome State Fault Refusal := s.event dt (whenStarted State.frameCompleted)

/-- IDLE_GAP (R98, R106). -/
def execIdleGap (dt : Nat) (s : State) : Host.Outcome State Fault Refusal := s.event dt (whenStarted State.idleGap)

/-- ARBITRATION_LOSS (R107). -/
def execArbitrationLoss (back : ReadBack) (s : State) : Host.Outcome State Fault Refusal :=
  s.event back.dt (whenStarted fun t => t.arbitrationLoss back.read)

/-- BIT_ERROR (R108, R120). -/
def execBitError (back : ReadBack) (byBreak : Bool) (s : State) : Host.Outcome State Fault Refusal :=
  s.event back.dt (whenStarted fun t => t.bitError back.read byBreak)

/-- TRANSMIT_COMPLETED (R107, R109). -/
def execTransmitCompleted (back : ReadBack) (s : State) : Host.Outcome State Fault Refusal :=
  s.event back.dt (whenStarted fun t => t.transmitCompleted back.read)

/-- HEALTH_PERIOD_END (R111, R112, R115). -/
def execHealthPeriodEnd (dt : Nat) (s : State) : Host.Outcome State Fault Refusal := s.event dt (whenStarted State.healthPeriodEnd)

/-- SILENCE_EXPIRY (R114). -/
def execSilenceExpiry (dt : Nat) (s : State) : Host.Outcome State Fault Refusal := s.event dt (whenStarted State.silence)

/-- PEER_SILENCE_EXPIRY (R123). -/
def execPeerSilenceExpiry (dt : Nat) (p : PeerNo) (s : State) : Host.Outcome State Fault Refusal :=
  s.event dt (whenStarted fun t => t.peerSilence p)

/-- STUCK_LINE (R116). -/
def execStuckLine (line : DominantRun) (s : State) : Host.Outcome State Fault Refusal :=
  s.event line.dt (whenStarted fun t => t.stuckLine line.run)

/-- LINE_FREED (R116). -/
def execLineFreed (dt : Nat) (s : State) : Host.Outcome State Fault Refusal := s.event dt (whenStarted State.lineFreed)

/-- BREAK_RECOGNISED (R119, R120). -/
def execBreakRecognised (dt : Nat) (run : Nat) (s : State) : Host.Outcome State Fault Refusal :=
  s.event dt (whenStarted fun t => t.breakRecognised run)

/-- BREAK_DRIVE_END (R118, R120). -/
def execBreakDriveEnd (dt : Nat) (s : State) : Host.Outcome State Fault Refusal := s.event dt (whenStarted State.breakDriveEnd)

/-- A STATUS point has come (R128). -/
def State.statusPoint (s : State) : State :=
  match s.rpt.statusAt with
  | none => s
  | some due =>
    if reached s.now due then
      ({ s with rpt := { s.rpt with statusAt := some (due.plus (s.smu.settings.statusPeriod * 1000)) } }).buildStatus
    else s

/-- STATUS_POINT (R128). -/
def execStatusPoint (dt : Nat) (s : State) : Host.Outcome State Fault Refusal := s.event dt (whenStarted State.statusPoint)

end Sys2Proof.Machine
end

