-- ==== Sys2Proof/Machine/LocalCommands.lean ====
section
/-! DEFINITION. The meanings of the pushbutton, key and reclose commands (chapter 8). -/

namespace Sys2Proof.Machine

/-- PUSHBUTTON_INPUT_CHANGE (R160). -/
def execPushbuttonInputChange (dt : Nat) (pressed : Bool) (s : State) : Host.Outcome State Fault Refusal :=
  s.event dt fun t => t.buttonInput pressed

/-- PUSHBUTTON_FILTER_EXPIRY (R160, R161). -/
def execPushbuttonFilterExpiry (dt : Nat) (s : State) : Host.Outcome State Fault Refusal := s.event dt State.buttonExpiry

/-- KEY_INPUT_CHANGE (R168, R173). -/
def execKeyInputChange (dt : Nat) (k : Key) (closed : Bool) (s : State) : Host.Outcome State Fault Refusal :=
  s.event dt fun t => t.keyInput k closed

/-- KEY_ACCEPT_EXPIRY (R168, R170, R173, R174). -/
def execKeyAcceptExpiry (dt : Nat) (k : Key) (s : State) : Host.Outcome State Fault Refusal := s.event dt fun t => t.keyAccepted k

/-- STOP_REPEAT_EXPIRY (R169). -/
def execStopRepeatExpiry (dt : Nat) (s : State) : Host.Outcome State Fault Refusal := s.event dt (whenStarted State.stopRepeat)

/-- RECLOSE_EXPIRY (R165). -/
def execRecloseExpiry (dt : Nat) (k : StringNo) (s : State) : Host.Outcome State Fault Refusal :=
  s.event dt (whenStarted fun t => t.recloseExpired k)

/-- CLOSED_TIMER_EXPIRY (R167). -/
def execClosedTimerExpiry (dt : Nat) (k : StringNo) (s : State) : Host.Outcome State Fault Refusal :=
  s.event dt (whenStarted fun t => t.closedExpired k)

end Sys2Proof.Machine
end

