-- ==== Sys2Proof/Machine/ProbeCommands.lean ====
section
/-! DEFINITION. The meanings of the PRB's commands (chapters 3 and 4). -/

namespace Sys2Proof.Machine

/-- The probe-due timer expires and the due trigger is evaluated (R59). -/
def State.probeDue (s : State) : State :=
  if expired s.now s.prb.dueAt then (s.setPrb { s.prb with dueAt := none }).dueTrigger else s

/-- A pending due trigger is evaluated again (R59). -/
def State.dueRetry (s : State) : State := if s.prb.duePending && expired s.now s.prb.retryAt then s.dueTrigger else s

/-- The stagger timer expires and the balance trigger is evaluated once (R60). -/
def State.stagger (s : State) : State :=
  if expired s.now s.prb.staggerAt then (s.setPrb { s.prb with staggerAt := none }).balanceTrigger else s

/-- PROBE_DUE_EXPIRY (R59). -/
def execProbeDueExpiry (dt : Nat) (s : State) : Host.Outcome State Fault Refusal := s.event dt (whenStarted State.probeDue)

/-- DUE_RETRY (R59). -/
def execDueRetry (dt : Nat) (s : State) : Host.Outcome State Fault Refusal := s.event dt (whenStarted State.dueRetry)

/-- STAGGER_EXPIRY (R60). -/
def execStaggerExpiry (dt : Nat) (s : State) : Host.Outcome State Fault Refusal := s.event dt (whenStarted State.stagger)

/-- REFERENCE_HALF_END (R65). -/
def execReferenceHalfEnd (dt : Nat) (s : State) : Host.Outcome State Fault Refusal := s.event dt (whenStarted State.referenceHalfEnd)

/-- INJECTION_START (R64). -/
def execInjectionStart (dt : Nat) (s : State) : Host.Outcome State Fault Refusal := s.event dt (whenStarted State.injectionStart)

/-- INJECTION_HALF_END (R66). -/
def execInjectionHalfEnd (dt : Nat) (s : State) : Host.Outcome State Fault Refusal := s.event dt (whenStarted State.injectionHalfEnd)

/-- HALF_EXPIRY (R80). -/
def execHalfExpiry (dt : Nat) (s : State) : Host.Outcome State Fault Refusal := s.event dt (whenStarted State.halfExpiry)

/-- W_MAX_EXPIRY (R90). -/
def execWMaxExpiry (dt : Nat) (s : State) : Host.Outcome State Fault Refusal := s.event dt (whenStarted State.wMax)

end Sys2Proof.Machine
end

