-- ==== Sys2Proof/Machine/StartCommands.lean ====
section
/-! DEFINITION. The meanings of the start-up, interval, supply and memo commands. -/

namespace Sys2Proof.Machine

/-- RESET (R176): its three causes have the same effect. -/
def execReset (s : State) : Host.Outcome State Fault Refusal := .next s.afterReset

/-- READING_START (R177 to R179). -/
def execReadingStart (dt : Nat) (a : BitVec 5) (n : BitVec 4) (pins : StartPins) (answers : Bool) (s : State) : Host.Outcome State Fault Refusal :=
  s.event dt fun t => t.startReading a.toNat n.toNat pins answers

/-- HAND_OVER (R180 to R182). -/
def execHandOver (dt : Nat) (closed answers : List Bool) (s : State) : Host.Outcome State Fault Refusal :=
  s.event dt fun t => t.handOver closed answers

/-- LISTEN_END (R183). -/
def execListenEnd (dt : Nat) (s : State) : Host.Outcome State Fault Refusal := s.event dt State.listenEnd

/-- REMEMBERED_STOP_EXPIRY (R172). -/
def execRememberedStopExpiry (dt : Nat) (s : State) : Host.Outcome State Fault Refusal :=
  s.event dt (whenStarted State.rememberedExpiry)

/-- INTERVAL_COMPLETION (R1, R6). -/
def execIntervalCompletion (dt : Nat) (x : IntervalSamples) (s : State) : Host.Outcome State Fault Refusal :=
  s.event dt (whenStarted fun t => t.intervalCompletion x)

/-- SUPPLY_LOW: the supply has been below the LOW threshold for 10 ms without interruption (R186). -/
def execSupplyLow (w : SupplyWatch) (s : State) : Host.Outcome State Fault Refusal :=
  s.event w.dt fun t => t.watchSupply w.course (fun v => decide (v < supplyLowMv)) State.supplyLow

/-- SUPPLY_RUN: the supply has been at or above the RUN threshold for 10 ms without interruption (R186). -/
def execSupplyRun (w : SupplyWatch) (s : State) : Host.Outcome State Fault Refusal :=
  s.event w.dt fun t => t.watchSupply w.course (fun v => decide (supplyRunMv ≤ v)) State.supplyRun

/-- MEMO_WRITE_DONE (R185). -/
def execMemoWriteDone (dt : Nat) (v h l : Byte) (s : State) : Host.Outcome State Fault Refusal :=
  s.event dt fun t => t.memoDone v h l

/-- MEMO_BUSY_TIMEOUT (R185). -/
def execMemoBusyTimeout (dt : Nat) (s : State) : Host.Outcome State Fault Refusal := s.event dt State.memoTimeout

end Sys2Proof.Machine
end

