-- ==== Sys2Proof/Machine/SwitchCommands.lean ====
section
/-! DEFINITION. The meanings of the drive engine's commands (chapter 7). -/

namespace Sys2Proof.Machine

/-- The source reports ready: DRIVE_SUPPLY clears, and the engine may take a request (R144, R145). Before the
hand-over only the pin changes. -/
def State.sourceReady (s : State) : State :=
  ({ s with swc := { s.swc with ready := true, driveSupply := false, rechargeAt := none } }).kickDrive

/-- The source has not reported ready 2 s after a pulse end (R145). -/
def State.rechargeExpiry (s : State) : State :=
  if expired s.now s.swc.rechargeAt && !s.swc.ready then
    { s with swc := { s.swc with driveSupply := true, rechargeAt := none } }
  else s

/-- The comparator reads OVER during a pulse: a coil short (R146). -/
def State.coilOver (s : State) : State :=
  match s.swc.engine with
  | .pulsing k d => s.pulseEnds.attemptFailed k d
  | .idle => s
  | .confirming _ _ => s

/-- The pulse end with the comparator's reading (R146, R147). -/
def State.pulseEnd (s : State) (r : CoilReading) : State :=
  match s.swc.engine with
  | .pulsing k d =>
    if expired s.now s.swc.pulseEndAt then
      let t := s.pulseEnds
      if r = .none then t.attemptFailed k d
      else if t.contactShows k d then t.attemptConfirmed k d
      else { t with swc := { t.swc with engine := .confirming k d, confirmAt := some (t.now.plus t.smu.settings.confirmMs) } }
    else s
  | .idle => s
  | .confirming _ _ => s

/-- A contact feedback input moves; in CONFIRMING to the requested position, it confirms the attempt (R147). -/
def State.contactChange (s : State) (k : StringNo) (closed : Bool) : State :=
  let s := { s with swc := { s.swc with contact := modifyAt s.swc.contact k fun _ => closed } }
  match s.swc.engine with
  | .confirming j d => if j = k ∧ s.contactShows k d then s.attemptConfirmed k d else s
  | .idle => s
  | .pulsing _ _ => s

/-- The feedback still shows the other position at the confirmation expiry (R147). -/
def State.confirmExpiry (s : State) : State :=
  match s.swc.engine with
  | .confirming k d => if expired s.now s.swc.confirmAt then s.attemptFailed k d else s
  | .idle => s
  | .pulsing _ _ => s

/-- SOURCE_READY (R145). -/
def execSourceReady (dt : Nat) (s : State) : Host.Outcome State Fault Refusal := s.event dt State.sourceReady

/-- RECHARGE_EXPIRY (R145). -/
def execRechargeExpiry (dt : Nat) (s : State) : Host.Outcome State Fault Refusal := s.event dt (whenStarted State.rechargeExpiry)

/-- COIL_OVER (R146). -/
def execCoilOver (dt : Nat) (s : State) : Host.Outcome State Fault Refusal := s.event dt (whenStarted State.coilOver)

/-- PULSE_END (R146). -/
def execPulseEnd (dt : Nat) (r : CoilReading) (s : State) : Host.Outcome State Fault Refusal :=
  s.event dt (whenStarted fun t => t.pulseEnd r)

/-- CONTACT_FEEDBACK_CHANGE (R147). -/
def execContactFeedbackChange (dt : Nat) (k : StringNo) (closed : Bool) (s : State) : Host.Outcome State Fault Refusal :=
  s.event dt fun t => t.contactChange k closed

/-- CONFIRM_EXPIRY (R147). -/
def execConfirmExpiry (dt : Nat) (s : State) : Host.Outcome State Fault Refusal := s.event dt (whenStarted State.confirmExpiry)

end Sys2Proof.Machine
end

