-- ==== Sys2Proof/Machine/Dispatch.lean ====
section
/-! DEFINITION. One arm per command. -/

namespace Sys2Proof.Machine

def exec (i : Instr) (s : State) : Host.Outcome State Fault Refusal :=
  match i with
  | .reset => Sys2Proof.Machine.execReset s
  | .readingStart dt a n p m => Sys2Proof.Machine.execReadingStart dt a n p m s
  | .handOver dt c m => Sys2Proof.Machine.execHandOver dt c m s
  | .listenEnd dt => Sys2Proof.Machine.execListenEnd dt s
  | .rememberedStopExpiry dt => Sys2Proof.Machine.execRememberedStopExpiry dt s
  | .intervalCompletion dt x => Sys2Proof.Machine.execIntervalCompletion dt x s
  | .supplyLow w => Sys2Proof.Machine.execSupplyLow w s
  | .supplyRun w => Sys2Proof.Machine.execSupplyRun w s
  | .characterTaken dt c m p => Sys2Proof.Machine.execCharacterTaken dt c m p s
  | .characterGapExpiry dt => Sys2Proof.Machine.execCharacterGapExpiry dt s
  | .frameCompletion dt => Sys2Proof.Machine.execFrameCompletion dt s
  | .idleGap dt => Sys2Proof.Machine.execIdleGap dt s
  | .arbitrationLoss back => Sys2Proof.Machine.execArbitrationLoss back s
  | .bitError back b => Sys2Proof.Machine.execBitError back b s
  | .transmitCompleted back => Sys2Proof.Machine.execTransmitCompleted back s
  | .healthPeriodEnd dt => Sys2Proof.Machine.execHealthPeriodEnd dt s
  | .silenceExpiry dt => Sys2Proof.Machine.execSilenceExpiry dt s
  | .peerSilenceExpiry dt p => Sys2Proof.Machine.execPeerSilenceExpiry dt p s
  | .stuckLine line => Sys2Proof.Machine.execStuckLine line s
  | .lineFreed dt => Sys2Proof.Machine.execLineFreed dt s
  | .breakRecognised dt r => Sys2Proof.Machine.execBreakRecognised dt r s
  | .breakDriveEnd dt => Sys2Proof.Machine.execBreakDriveEnd dt s
  | .claimExpiry dt p k => Sys2Proof.Machine.execClaimExpiry dt p k s
  | .decisionPoint dt => Sys2Proof.Machine.execDecisionPoint dt s
  | .groundDecision dt => Sys2Proof.Machine.execGroundDecision dt s
  | .yieldHoldExpiry dt => Sys2Proof.Machine.execYieldHoldExpiry dt s
  | .recentDecisionExpiry dt => Sys2Proof.Machine.execRecentDecisionExpiry dt s
  | .probeDueExpiry dt => Sys2Proof.Machine.execProbeDueExpiry dt s
  | .dueRetry dt => Sys2Proof.Machine.execDueRetry dt s
  | .staggerExpiry dt => Sys2Proof.Machine.execStaggerExpiry dt s
  | .referenceHalfEnd dt => Sys2Proof.Machine.execReferenceHalfEnd dt s
  | .injectionStart dt => Sys2Proof.Machine.execInjectionStart dt s
  | .injectionHalfEnd dt => Sys2Proof.Machine.execInjectionHalfEnd dt s
  | .halfExpiry dt => Sys2Proof.Machine.execHalfExpiry dt s
  | .wMaxExpiry dt => Sys2Proof.Machine.execWMaxExpiry dt s
  | .statusPoint dt => Sys2Proof.Machine.execStatusPoint dt s
  | .sourceReady dt => Sys2Proof.Machine.execSourceReady dt s
  | .rechargeExpiry dt => Sys2Proof.Machine.execRechargeExpiry dt s
  | .coilOver dt => Sys2Proof.Machine.execCoilOver dt s
  | .pulseEnd dt r => Sys2Proof.Machine.execPulseEnd dt r s
  | .contactFeedbackChange dt k c => Sys2Proof.Machine.execContactFeedbackChange dt k c s
  | .confirmExpiry dt => Sys2Proof.Machine.execConfirmExpiry dt s
  | .pushbuttonInputChange dt p => Sys2Proof.Machine.execPushbuttonInputChange dt p s
  | .pushbuttonFilterExpiry dt => Sys2Proof.Machine.execPushbuttonFilterExpiry dt s
  | .keyInputChange dt k c => Sys2Proof.Machine.execKeyInputChange dt k c s
  | .keyAcceptExpiry dt k => Sys2Proof.Machine.execKeyAcceptExpiry dt k s
  | .stopRepeatExpiry dt => Sys2Proof.Machine.execStopRepeatExpiry dt s
  | .recloseExpiry dt k => Sys2Proof.Machine.execRecloseExpiry dt k s
  | .closedTimerExpiry dt k => Sys2Proof.Machine.execClosedTimerExpiry dt k s
  | .memoWriteDone dt v h l => Sys2Proof.Machine.execMemoWriteDone dt v h l s
  | .memoBusyTimeout dt => Sys2Proof.Machine.execMemoBusyTimeout dt s

end Sys2Proof.Machine
end

