-- ==== Sys2Proof/Safety.lean ====
section
/-! DEFINITION. What a sound state of the part is, in the terms the statements use. -/

namespace Sys2Proof.Safety

open Sys2Proof.Machine

/-- The serial memory keeps its canonical form; the Claim Log holds at most 16 entries and never two of one source
and kind (R27, R28). -/
def StoresSound (s : State) : Prop :=
  Memory.wf s.smu.mem = true ∧ s.sel.claimLog.length ≤ 16 ∧
    s.sel.claimLog.Pairwise fun a b => ¬(a.source = b.source ∧ a.kind = b.kind)

/-- The transmit queue holds at most 16 frames, is ordered by kind code and then entry number, no two of them with one entry
number, holds at most one STATUS, ARC-CLAIM, LOCATE and PROBE-OPEN, only a STATUS waits as replacement (R104, R105), and the station puts levels on the line
exactly while an attempt is in progress (R106). -/
def QueueSound (l : Lnc) : Prop :=
  l.queue.length ≤ 16 ∧
  (l.queue.Pairwise fun f g => f.kind.code < g.kind.code ∨ (f.kind.code = g.kind.code ∧ f.entry < g.entry)) ∧
  (∀ f ∈ l.queue, f.entry < l.nextEntry) ∧ (l.queue.Pairwise fun f g => f.entry ≠ g.entry) ∧
  (∀ k, k = Kind.status ∨ k = Kind.arcClaim ∨ k = Kind.locate ∨ k = Kind.probeOpen →
    (l.queue.filter fun f => f.kind == k).length ≤ 1) ∧
  (∀ p, l.pendingStatus = some p → p.kind = .status) ∧
  (l.sending = none ↔ l.tx = [])

/-- BOX TRIP is asserted exactly when some fitted string is STUCK-CLOSED with a fault hold or a STOP hold (R157), and the
FAULT RELAY is energised exactly under the conditions of R136, once every block runs. -/
def OutputsSettled (s : State) : Prop :=
  (s.swc.boxTrip = true ↔ ∃ k : StringNo, k.val < s.smu.strings ∧ (s.string k).state = .stuckClosed ∧
    ((s.string k).holds.fault.isSome = true ∨ (s.string k).holds.stop.isSome = true)) ∧
  (s.rpt.relay = true ↔ s.started = true ∧
    (∀ k : StringNo, k.val < s.smu.strings →
      (s.string k).state = .closed ∧ s.sel.suspect[k] = false ∧ s.ssu.str[k].sensorFault = false) ∧
    s.swc.boxTrip = false ∧ s.lnc.line ≠ .down ∧ s.lnc.line ≠ .stuck ∧
    s.smu.configDefault = false ∧ s.lnc.conflict = false ∧ s.smu.memoFault = false)

/-- ADDRESS is 0..31, and the Stop Set is a set of such addresses, kept ascending without duplicates (R125, R177). -/
def StopSetSound (s : State) : Prop :=
  s.smu.address ≤ 31 ∧ s.pvw.stopSet.Pairwise (· < ·) ∧ ∀ a ∈ s.pvw.stopSet, a ≤ 31

/-- A coil output is driven exactly while the engine is PULSING, for the string and sense of its request (R144, R146). -/
def CoilMatchesEngine (s : State) : Prop :=
  s.swc.coil = match s.swc.engine with
    | .pulsing k d => some (k, d)
    | .idle => none
    | .confirming _ _ => none

/-- A window is known exactly in the roles INJECTING and LISTENING, the probe output is driven by an injector
only (R55), and the alarm count is 0 out of the role NONE (R60). -/
def ProbeSound (s : State) : Prop :=
  (s.prb.window.isSome = true ↔ s.prb.role = .injecting ∨ s.prb.role = .listening) ∧
  (s.prb.output ≠ .released → s.prb.role = .injecting) ∧
  (s.prb.role ≠ .none → s.prb.alarmCount = 0)

/-- The fields of a String Evidence Table entry lie in their ranges, and the run peak is 0 while q is (R8, R18). -/
def EvidenceInRange (e : Evidence) : Prop :=
  e.learning ≤ 100 ∧ e.base ≤ 65520 ∧ e.score ≤ 250 ∧ e.evid ≤ 250 ∧ e.q ≤ 255 ∧ e.peak ≤ 250 ∧ e.qr ≤ 255 ∧ e.qo ≤ 255 ∧
    (e.q = 0 → e.peak = 0)

/-- From `s` to `t` the station's part in a window ends as an ARRAY-STOP taken and the LOCKOUT key closing end it: a listener
abandons its window without a window end seen (R91), a PENDING station withdraws its PROBE-OPEN, or asks for it while an attempt is
in progress (R62; log entry 16), and an injector that has not closed ends with status ABORTED (R68). -/
def ProbePartEnds (s t : State) : Prop :=
  (s.prb.role = .none → t.prb = s.prb) ∧
  (∀ w, s.prb.role = .listening → s.prb.window = some w →
    t.prb = { s.prb with role := .none, window := none, output := .released }) ∧
  (∀ g, s.prb.role = .pending → s.queuedOf .probeOpen = some g →
    (s.lnc.sending ≠ some g.entry →
      t.prb = { s.prb with role := .none, byDue := false } ∧ ∀ h ∈ t.lnc.queue, h.kind ≠ .probeOpen) ∧
    (s.lnc.sending = some g.entry →
      t.prb = s.prb ∧ ∃ h ∈ t.lnc.queue, h = { g with withdrawAsked := true })) ∧
  ∀ w, s.prb.role = .injecting → s.prb.window = some w →
    (w.phase = some .closing → t.prb = s.prb) ∧
    (w.phase ≠ some .closing → s.smu.address ≠ 0 → s.lnc.queue.length < 16 →
      t.prb = { s.prb with
        output := .released, window := some { w with status := some .aborted, riso := 65535, phase := some .closing } } ∧
      ∃ h ∈ t.lnc.queue, h.kind = .probeClose ∧ h.rank = 0 ∧ h.entry = s.lnc.nextEntry ∧
        h.payload = [BitVec.ofNat 8 w.tag.sequence, 3, BitVec.ofNat 8 w.halvesInjected, 255, 255])

/-- From `s` to `t`, at `now`, the owners of the frames that a flush removes take the report (R34, R62, R70, R120): a queued claim is
DROPPED, a PENDING station gets the role NONE with its due trigger pending again a second later, and an injector whose PROBE-CLOSE
was queued loses its window. -/
def FlushReported (s t : State) (now : Time) : Prop :=
  let removed := fun k : Kind => ∃ g ∈ s.lnc.queue, g.kind = k
  t.sel = { s.sel with arc := t.sel.arc, ground := t.sel.ground } ∧
  (s.sel.arc = none → t.sel.arc = none) ∧ (s.sel.ground = none → t.sel.ground = none) ∧
  (∀ i, s.sel.arc = some i →
    (i.claim = .queued → removed .arcClaim → t.sel.arc = some { i with claim := .dropped }) ∧
    (i.claim ≠ .queued ∨ ¬removed .arcClaim → t.sel.arc = some i)) ∧
  (∀ i, s.sel.ground = some i →
    (i.claim = .queued → removed .locate → t.sel.ground = some { i with claim := .dropped }) ∧
    (i.claim ≠ .queued ∨ ¬removed .locate → t.sel.ground = some i)) ∧
  (s.prb.role = .none ∨ s.prb.role = .listening → t.prb = s.prb) ∧
  (s.prb.role = .pending →
    (removed .probeOpen → t.prb = if s.prb.byDue = true
      then { s.prb with role := .none, byDue := false, duePending := true, retryAt := some (now.plus 1000) }
      else { s.prb with role := .none }) ∧
    (¬removed .probeOpen → t.prb = s.prb)) ∧
  ∀ w, s.prb.role = .injecting → s.prb.window = some w →
    (removed .probeClose → t.prb = if s.smu.address = 0
      then { s.prb with role := .none, window := none, output := .released, lastEnd := some now }
      else { s.prb with role := .none, window := none, output := .released, lastEnd := some now,
                        alarmArmed := true, staggerAt := none, alarmCount := 0 }) ∧
    (¬removed .probeClose → t.prb = s.prb)

/-- The LNC once the owner of the queued frame of a kind has asked to withdraw it (R35, R110): with no attempt in progress the frame is
gone, else it stays with the withdrawal asked; with no such frame queued nothing changes. -/
def afterWithdrawal (l : Lnc) (k : Kind) : Lnc :=
  match l.queue.find? fun f => f.kind == k with
  | none => l
  | some g =>
    if l.sending = some g.entry then
      { l with queue := l.queue.map fun h => if h.entry = g.entry then { h with withdrawAsked := true } else h }
    else { l with queue := l.queue.filter fun h => h.entry != g.entry }

/-- The string is CLOSING and its CLOSE waits in the Drive Queue (R140). -/
def CloseWaits (r : StringRecord) : Prop := r.state = .closing ∧ ∃ q, r.request = some q ∧ q.held = false

/-- A fault hold asked for a string found so leaves no opening to confirm (R44). -/
def NoOpeningComes (r : StringRecord) : Prop :=
  r.state = .opened ∨ r.state = .stuckClosed ∨ r.state = .stuckOpen ∨ CloseWaits r

/-- From `s` to `t` the string `k` takes the fault hold `h` that the SEL asks for, by its state (R38, R52, R139, R140): the first cause
stays and another one is kept as the later fault cause, which is also all an OPEN or STUCK string takes (log entry 17: not of the cause
it is held under); a CLOSED string queues an OPEN under the hold, a waiting CLOSE is taken back; other strings keep state and holds. -/
def FaultHoldTaken (s t : State) (k : StringNo) (h : FaultHold) : Prop :=
  let r := s.string k
  let later : HoldSet := if r.holds.fault.map FaultHold.cause = some h.cause then r.holds else { r.holds with later := some h.cause }
  let added : HoldSet := if r.holds.fault = none then { r.holds with fault := some h } else later
  (r.state = .closed → (t.string k).state = .opening ∧ (t.string k).holds = added ∧ t.smu = s.smu ∧
    ∃ q, (t.string k).request = some q ∧ q.dir = .toOpen ∧ q.cause = some (.fault h.cause) ∧ q.detail = h.detail ∧ q.failed = 0) ∧
  (r.state = .opening → t.string k = { r with holds := added }) ∧
  (CloseWaits r → (t.string k).state = .opened ∧ (t.string k).holds = added ∧ (t.string k).request = none ∧ k ∉ t.swc.closeQ) ∧
  (r.state = .closing → ¬CloseWaits r → t.string k = { r with holds := added }) ∧
  (r.state = .opened ∨ r.state = .stuckClosed ∨ r.state = .stuckOpen →
    (t.string k).state = r.state ∧ (t.string k).holds = later ∧ (t.string k).request = r.request) ∧
  ∀ j, j ≠ k → (t.string j).state = (s.string j).state ∧ (t.string j).holds = (s.string j).holds

/-- From `s` to `t` every fitted string takes a STOP or LOCKOUT hold, which `add` puts into a hold set, by its state (R126, R140, R173): a
CLOSED string is OPENING with an OPEN queued under it, an OPENING one keeps its OPEN and cause, one whose CLOSE waits, so is not in the
OPEN class of the Drive Queue, is OPEN again, one whose CLOSE the engine holds goes on, and an OPEN or STUCK one stays as it is. A
DISABLED string and one not fitted keep state and holds. -/
def HoldTakenByAll (s t : State) (add : HoldSet → HoldSet) (cause : OpenCause) : Prop :=
  ∀ k : StringNo,
    let r := s.string k
    (k.val < s.smu.strings →
      (r.state ≠ .disabled → (t.string k).holds = add r.holds) ∧
      (r.state = .closed → (t.string k).state = .opening ∧
        ∃ q, (t.string k).request = some q ∧ q.dir = .toOpen ∧ q.cause = some cause ∧ q.failed = 0) ∧
      (r.state = .opening → (t.string k).state = .opening ∧
        (t.string k).request.map Request.cause = r.request.map Request.cause) ∧
      (CloseWaits r → k ∉ s.swc.openQ → (t.string k).state = .opened ∧ (t.string k).request = none) ∧
      (r.state = .closing → ¬CloseWaits r → (t.string k).state = .closing) ∧
      (r.state = .opened ∨ r.state = .stuckClosed ∨ r.state = .stuckOpen → (t.string k).state = r.state)) ∧
    (s.smu.strings ≤ k.val ∨ r.state = .disabled → (t.string k).state = r.state ∧ (t.string k).holds = r.holds)

/-- A frame of a kind fails a check of its form, by the table of R189; payload characters are numbered from 1 (10.3). -/
def FormFails (k : Kind) (p : List Byte) : Prop :=
  let c := fun i : Nat => (p.getD (i - 1) 0).toNat
  match k with
  | .arrayStop => p.length ≠ 0
  | .arrayResume => p.length ≠ 0
  | .arcClaim => p.length ≠ 2
  | .isolated => p.length ≠ 5 ∨ c 2 = 0 ∨ 5 < c 2 ∨ (c 2 = 2 ∧ (c 4 = 0 ∨ 31 < c 4))
  | .locate => p.length ≠ 5 ∨ c 1 = 0 ∨ 31 < c 1 ∨ 2047 < 256 * c 4 + c 5
  | .probeOpen => p.length ≠ 4
  | .probeClose => p.length ≠ 5 ∨ c 2 = 0 ∨ 4 < c 2
  | .service => p.length ≠ 5 ∨ 31 < c 1 ∨ 31 < c 2 ∨ c 3 = 0 ∨ 4 < c 3 ∨ (c 3 = 4 ∧ (c 5 = 0 ∨ 12 < c 5))
  | .answer => p.length < 2
  | .status => p.length < 5 ∨ 16 < p.length ∨ 4 < c 1 / 16 % 8 ∨
      ∃ x ∈ p.drop 5, x.toNat / 16 = 0 ∨ 12 < x.toNat / 16 ∨ x.toNat % 16 = 0 ∨ 14 < x.toNat % 16

/-- The memo value that a hold set wants, by the table of R153: the cause of the fault hold, none for UNKNOWN, otherwise SERVICE, otherwise
STOP, remembered or not, otherwise none. -/
def WantsMemo (h : HoldSet) (v : MemoValue) : Prop :=
  (∀ f, h.fault = some f → v = match f.cause with
    | .arc => .arc
    | .ground => .ground
    | .reverse => .reverse
    | .overcurrent => .overcurrent
    | .unknown => .none) ∧
  (h.fault = none → h.service = true → v = .service) ∧
  (h.fault = none → h.service = false → h.stop ≠ none → v = .stop) ∧
  (h.fault = none → h.service = false → h.stop = none → v = .none)

/-- From `s` to `t`, at `now`, a memo write of a string is asked of the SMU: it takes the place of the pending write of that string or joins
the end, and waits while the writer is busy, the supply LOW or the SMU not begun; else an idle writer takes the first pending write, and
one whose retry waited for RUN begins it again. Nothing else of the SMU changes (R184, R185; that a waiting retry goes on with its own
value beside a newer one of its string is the model's choice, log entry 20). -/
def MemoAsked (s t : State) (now : Time) (k : StringNo) (v : MemoValue) : Prop :=
  let asked := if ∃ x ∈ s.smu.memoQueue, x.1 = k then s.smu.memoQueue.map fun x => if x.1 = k then (k, v) else x
    else s.smu.memoQueue ++ [(k, v)]
  (s.smu.phase = .inReset ∨ s.smu.supply = .low → t.smu = { s.smu with memoQueue := asked }) ∧
  (s.smu.phase ≠ .inReset → s.smu.supply = .run →
    (∀ w, s.smu.writer = some w →
      t.smu = { s.smu with
        memoQueue := asked, writer := some (if w.busy = true then w else { w with busy := true, began := now }) }) ∧
    (s.smu.writer = none → ∃ j x rest, asked = (j, x) :: rest ∧
      t.smu = { s.smu with
        memoQueue := rest, writer := some { string := j, value := x, failed := 0, busy := true, began := now } }))

/-- From `s` to `t`, at `now`, the memo value of an OPEN or STUCK string with these holds is kept in step: it becomes the wanted one, and
its write is asked exactly when it was another (R153). -/
def MemoInStep (s t : State) (now : Time) (k : StringNo) (h : HoldSet) : Prop :=
  WantsMemo h (t.string k).memo ∧
  ((s.string k).memo = (t.string k).memo → t.smu = s.smu) ∧
  ((s.string k).memo ≠ (t.string k).memo → MemoAsked s t now k (t.string k).memo)

/-- Bit i of a frame, the first start bit being bit 0, lies within the data bits of characters 1 to 3: data bit d of character c + 1,
where a character is a start bit, eight data bits, a mark bit and a stop bit (R96, R107). -/
def InHeaderData (i : Nat) : Prop := ∃ c d, c < 3 ∧ d < 8 ∧ i = 11 * c + 1 + d

/-- Bit i is the first that was read back different from the bit sent. -/
def FirstDifference (tx read : List Level) (i : Nat) : Prop :=
  i < tx.length ∧ i < read.length ∧ tx[i]? ≠ read[i]? ∧ ∀ j, j < i → tx[j]? = read[j]?

/-- The sender of `tx` that read `read` back has lost arbitration: its first difference is a bit sent recessive and read dominant within
the data bits of characters 1 to 3 (R107). -/
def LosesArbitration (tx read : List Level) : Prop :=
  ∃ i, FirstDifference tx read i ∧ InHeaderData i ∧ tx[i]? = some .recessive ∧ read[i]? = some .dominant

/-- The sender of `tx` that read `read` back has a bit error: its first difference lies outside those data bits, or was sent dominant and
read recessive (R108). -/
def ReadsBitError (tx read : List Level) : Prop :=
  ∃ i, FirstDifference tx read i ∧ (¬InHeaderData i ∨ (tx[i]? = some .dominant ∧ read[i]? = some .recessive))

/-- Every bit of `tx` was read back as sent (R109). -/
def ReadAsSent (tx read : List Level) : Prop := ∀ i, i < tx.length → read[i]? = tx[i]?

/-- Every field lies in the range of 9.3, and the probe settings are those a listener finds usable (R76, R179). -/
def SettingsInRange (c : Settings) : Prop :=
  (c.lineRate = 9600 ∨ c.lineRate = 19200 ∨ c.lineRate = 38400) ∧ c.rxFloor ≤ 7 ∧ (1 ≤ c.errLim ∧ c.errLim ≤ 63) ∧
  (4 ≤ c.silenceLim ∧ c.silenceLim ≤ 60) ∧ (1 ≤ c.statusPeriod ∧ c.statusPeriod ≤ 10) ∧ c.iMinArc ≤ 500 ∧
  (10 ≤ c.arcOnset ∧ c.arcOnset ≤ 200) ∧ (2 ≤ c.arcQual ∧ c.arcQual ≤ 20) ∧ (40 ≤ c.selWin ∧ c.selWin ≤ 250) ∧
  (500 ≤ c.yieldHold ∧ c.yieldHold ≤ 10000) ∧ (1 ≤ c.arcRounds ∧ c.arcRounds ≤ 5) ∧ (10 ≤ c.revLim ∧ c.revLim ≤ 1000) ∧
  (2 ≤ c.revQual ∧ c.revQual ≤ 50) ∧ (100 ≤ c.ocLim ∧ c.ocLim ≤ 2000) ∧ (2 ≤ c.ocQual ∧ c.ocQual ≤ 100) ∧
  c.recloseMax ≤ 3 ∧ (10 ≤ c.recloseDelay ∧ c.recloseDelay ≤ 600) ∧ (10 ≤ c.pulseMs ∧ c.pulseMs ≤ 50) ∧
  (50 ≤ c.confirmMs ∧ c.confirmMs ≤ 500) ∧ (5 ≤ c.probePeriod ∧ c.probePeriod ≤ 60) ∧
  (200 ≤ c.probeHp ∧ c.probeHp ≤ 2000 ∧ c.probeHp % 100 = 0) ∧ (4 ≤ c.probeNp ∧ c.probeNp ≤ 16 ∧ c.probeNp % 2 = 0) ∧
  (50 ≤ c.probeSettle ∧ c.probeSettle ≤ 1000 ∧ c.probeSettle % 10 = 0 ∧ c.probeSettle ≤ c.probeHp / 2) ∧
  (5 ≤ c.shiftMin ∧ c.shiftMin ≤ 50) ∧ (2 ≤ c.locMin ∧ c.locMin ≤ 100) ∧ (20 ≤ c.gfTrip ∧ c.gfTrip ≤ 2000) ∧
  (20 ≤ c.balShift ∧ c.balShift ≤ 200)

/-- Up to now the supply has been at levels of a kind for 10 ms without interruption (R186); the course is newest first. -/
def HeldTenMs (p : Nat → Prop) (course : List SupplySpan) : Prop :=
  ∃ newer older, course = newer ++ older ∧ (∀ x ∈ newer, p x.millivolts) ∧ 10 ≤ (newer.map SupplySpan.held).sum

/-- The supply was below 7.5 V (R186). -/
def DropsToReset (course : List SupplySpan) : Prop := ∃ x ∈ course, x.millivolts < 7500

/-- The RESET pin is asserted, or the supply has not risen to 8.5 V since it was last below 7.5 V (R176, R186). -/
def ResetLasts (p : StartPins) : Prop :=
  p.resetAsserted = true ∨
  ∃ newer v older, p.supply :: p.before = newer ++ v :: older ∧ v < 7500 ∧ ∀ u ∈ newer, u < 8500

/-- The commands whose blocks run, or whose pins are read, before the hand-over (R176). -/
def runsBeforeHandOver : Instr → Bool
  | .reset => true
  | .readingStart .. => true
  | .handOver .. => true
  | .supplyLow .. => true
  | .supplyRun .. => true
  | .sourceReady .. => true
  | .contactFeedbackChange .. => true
  | .pushbuttonInputChange .. => true
  | .keyInputChange .. => true
  | .memoWriteDone .. => true
  | .memoBusyTimeout .. => true
  | _ => false

end Sys2Proof.Safety
end

