-- ==== Sys2Proof/Certificates/Slice0/Obligations.lean ====
section
/-! DEFINITION. The statements for the provers. Times are read after the command's wait: `s.elapse dt` is the state when the
command is taken, and `settle` brings BOX TRIP and the FAULT RELAY to their conditions at its end (log entry 22). -/

section Statements

open Sys2Proof Sys2Proof.Machine Sys2Proof.Safety

/-! ### The machine as a whole -/

/-- A step carries out the command at the front of the queue; on an empty queue the part idles (log entry 2). -/
def Obligations.StepRunsFrontCommand : Prop :=
  (∀ (c : Instr) (rest : List Instr) (s : State), s.pending = c :: rest → step s = exec c { s with pending := rest }) ∧
  (∀ s : State, s.pending = [] → step s = .next s)

/-- No command faults or is refused; none touches the queue of commands, and station time advances by exactly the wait
of the command, or restarts at 0 by RESET and by a supply that falls below 7.5 V in the course of a supply command (R176, R186). That
station time advances also while the part is held in reset is the model's choice (log entry 40), as is that the supply commands carry the
course of the supply pin (log entry 28). -/
def Obligations.CommandsCompleteInTheirTime : Prop :=
  ∀ (c : Instr) (s : State), ∃ t, exec c s = .next t ∧ t.pending = s.pending ∧
    (let restarts := c = .reset ∨
        (s.smu.phase ≠ .inReset ∧ ∃ u : SupplyWatch, (c = .supplyLow u ∨ c = .supplyRun u) ∧ DropsToReset u.course);
      (restarts → t.now = 0) ∧ (¬restarts → t.now = s.now.plus c.wait))

/-- Before the hand-over, a command of a block that is not yet started only lets time pass (R176, log entry 3); that it
passes also while the part is held in reset is the model's choice (log entry 40). -/
def Obligations.BlocksIdleBeforeHandOver : Prop :=
  ∀ (c : Instr) (s : State), s.started = false → runsBeforeHandOver c = false →
    exec c s = .next (s.elapse c.wait).settle

/-- Every step keeps the serial memory canonical and the Claim Log within 16 entries, one per source and kind. -/
def Obligations.StoresStaySound : Prop := ∀ s t : State, StoresSound s → step s = .next t → StoresSound t

/-- Every step keeps the transmit queue within 16 frames, in order, each under an entry number of its own, with at most one of the
single kinds. -/
def Obligations.QueueStaysSound : Prop := ∀ s t : State, QueueSound s.lnc → step s = .next t → QueueSound t.lnc

/-- After every command BOX TRIP and the FAULT RELAY stand at their conditions, from whatever state. -/
def Obligations.OutputsSettleAtEveryCommand : Prop := ∀ (c : Instr) (s t : State), exec c s = .next t → OutputsSettled t

/-- Every step keeps the Stop Set a set of addresses 0..31. -/
def Obligations.StopSetStaysSound : Prop := ∀ s t : State, StopSetSound s → step s = .next t → StopSetSound t

/-- Every step keeps the coil outputs in step with the engine, so that at most one coil is driven, and the probe output to the
injector of a known window. -/
def Obligations.OutputPinsStaySound : Prop :=
  ∀ s t : State, CoilMatchesEngine s → ProbeSound s → step s = .next t → CoilMatchesEngine t ∧ ProbeSound t

/-- Every step keeps each String Evidence Table entry in its ranges, when the command in front is one that can occur. -/
def Obligations.EvidenceStaysInRange : Prop :=
  ∀ (c : Instr) (s t : State), c.wellFormed = true → (∀ k : StringNo, EvidenceInRange s.eve[k]) → exec c s = .next t →
    ∀ k : StringNo, EvidenceInRange t.eve[k]

/-- The reset state meets every invariant. -/
def Obligations.ResetIsSound : Prop :=
  StoresSound State.reset ∧ QueueSound State.reset.lnc ∧ OutputsSettled State.reset ∧ StopSetSound State.reset ∧
  CoilMatchesEngine State.reset ∧ ProbeSound State.reset ∧ ∀ k : StringNo, EvidenceInRange State.reset.eve[k]


/-! ### Start-up, supply and memos (chapter 9) -/

/-- RESET: every block takes its reset state; the serial memory stays, but for the slot of a write in progress, which is left
bad; the source of a pulse that the reset cuts recharges. A supply below 7.5 V in the course a supply command carries has the same effect,
whatever the state (R145, R146, R176, R185, R186; that the course comes with these commands is log entry 28). That the input pins and the waiting commands
stay, and that the ready pin falls with a cut pulse, is the model's choice (log entries 4, 7 and 13); so are the values before READING:
supply LOW, ADDRESS 0, STRINGS 12, the default settings, receiver level 2 and the injector means 0 (log entry 8), the fields of the inactive
isolation records (log entry 38), the first entry number 0 (log entry 41), and that the slot of a write that waits for RUN keeps its
bytes (log entry 39). Which bytes a bad slot holds is free (log entry 6). -/
def Obligations.ResetLosesVolatileState : Prop :=
  ∀ s : State, (∀ u : SupplyWatch, s.smu.phase ≠ .inReset → DropsToReset u.course →
      exec (.supplyLow u) s = exec .reset s ∧ exec (.supplyRun u) s = exec .reset s) ∧
    ∃ t, exec .reset s = .next t ∧ t.pending = s.pending ∧ t.now = 0 ∧
    t.ssu = Ssu.atReset ∧ t.eve = State.reset.eve ∧ t.sel = Sel.atReset ∧ t.prb = Prb.atReset ∧ t.lnc = Lnc.atReset ∧
    t.pvw = Pvw.atReset ∧ t.rpt = Rpt.atReset ∧
    t.swc = { Swc.atReset with
      contact := s.swc.contact, ready := if s.swc.coil = none then s.swc.ready else false } ∧
    t.rsl = { Rsl.atReset with buttonIn := s.rsl.buttonIn, stopKey := { KeyState.atReset with input := s.rsl.stopKey.input },
                               lockKey := { KeyState.atReset with input := s.rsl.lockKey.input } } ∧
    { t.smu with mem := [] } = Smu.atReset ∧
    (∀ w, s.smu.writer = some w → w.busy = true → Memory.wf s.smu.mem = true →
      slotValue w.string (Memory.read t.smu.mem (slotAddress w.string)) (Memory.read t.smu.mem (slotAddress w.string + 1))
        (Memory.read t.smu.mem (slotAddress w.string + 2)) = none) ∧
    ∀ a, (∀ w, s.smu.writer = some w → w.busy = true → a < slotAddress w.string ∨ slotAddress w.string + 2 < a) →
      Memory.read t.smu.mem a = Memory.read s.smu.mem a

/-- READING_START: once RESET is released and the supply, if it was below 7.5 V, has risen to 8.5 V, the straps, the supply and the
record are read: the supply state is RUN at 11.0 V or above, else LOW; with no answer or no good record the
defaults of 9.3 are used under CONFIG_DEFAULT, else the clamped record; the LNC takes RX_FLOOR. While the reset lasts, and in any other
phase, only time passes (R176 to R179, R186; log entry 3, and log entry 28 for the levels the command carries). That station time takes the wait of the command, the part being held in reset, is the model's choice (log
entry 40). -/
def Obligations.ReadingTakesStrapsAndRecord : Prop :=
  ∀ (dt : Nat) (a : BitVec 5) (n : BitVec 4) (p : StartPins) (m : Bool) (s : State),
    let good := m && recordGood s.smu.mem
    let c := if good = true then clampedSettings s.smu.mem else Settings.atReset
    (s.smu.phase = .inReset → ¬ResetLasts p → exec (.readingStart dt a n p m) s = .next (State.settle { s.elapse dt with
      smu := { s.smu with
        phase := .reading, supply := if 11000 ≤ p.supply then .run else .low, address := a.toNat,
        strings := if n.toNat = 0 ∨ 12 < n.toNat then 12 else n.toNat,
        settings := c, configDefault := !good, configClamped := good && recordClamped s.smu.mem },
      lnc := { s.lnc with level := c.rxFloor } })) ∧
    (s.smu.phase ≠ .inReset ∨ ResetLasts p → exec (.readingStart dt a n p m) s = .next (s.elapse dt).settle)

/-- Whatever bytes the memory holds, the settings READING leaves lie in the ranges of 9.3, and the probe settings are
those a listener finds usable (R76, R178, R179). -/
def Obligations.ReadingLeavesUsableSettings : Prop :=
  ∀ (dt : Nat) (a : BitVec 5) (n : BitVec 4) (p : StartPins) (m : Bool) (s : State), s.smu.phase = .inReset → ¬ResetLasts p →
    ∃ t, exec (.readingStart dt a n p m) s = .next t ∧ t.smu.phase = .reading ∧
    SettingsInRange t.smu.settings ∧ 1 ≤ t.smu.strings ∧ t.smu.strings ≤ 12 ∧ t.smu.address ≤ 31 ∧
    paramsUsable t.smu.settings.probeHp t.smu.settings.probeNp t.smu.settings.probeSettle = true

/-- HAND_OVER: each fitted string, at its reset state before, takes the initial setting of the table of R181 from its
contact and its slot, with the isolation record of its cause when set OPEN under a known one, and its reclose timer started
when that cause is REVERSE or OVERCURRENT; the writes of none for a bad slot and for a STOP under a closed contact enter an empty
memo queue in string order, and under RUN the idle writer takes the first. A CLOSED string under a fault or SERVICE memo queues an OPEN
under that cause; the first of these is driven at once when source and supply allow. Unfitted strings stay DISABLED; the listen period,
the health period and the first interval begin, and so does the watching of the inputs: a released pushbutton and a closed key start
their 50 ms test (R140, R142, R144, R159, R160, R164, R168, R181, R182, R184). -/
def Obligations.HandOverSetsStrings : Prop :=
  ∀ (dt : Nat) (closed answers : List Bool) (s : State), s.smu.phase = .reading →
    (∀ k : StringNo, s.string k = StringRecord.atReset) → ∃ t, exec (.handOver dt closed answers) s = .next t ∧
    t.smu.phase = .listening ∧ t.smu.listenEndAt = some ((s.now.plus dt).plus 5000) ∧
    t.lnc = { s.lnc with periodEndAt := some ((s.now.plus dt).plus 1000) } ∧
    t.ssu = { s.ssu with intervalStart := some (s.now.plus dt) } ∧
    t.eve = s.eve ∧ t.sel = s.sel ∧ t.prb = s.prb ∧ t.pvw = s.pvw ∧ t.smu.mem = s.smu.mem ∧
    (let test := some ((s.now.plus dt).plus 50);
      t.rsl = { s.rsl with
        str := t.rsl.str, buttonAt := if s.rsl.buttonIn = true then none else test,
        stopKey := { s.rsl.stopKey with testAt := if s.rsl.stopKey.input = true then test else none },
        lockKey := { s.rsl.lockKey with testAt := if s.rsl.lockKey.input = true then test else none } }) ∧
    (let opens := (List.finRange 12).filter fun k => decide (k.val < s.smu.strings ∧ closed.getD k.val false = true ∧
        ∃ v ∈ s.readSlot k (answers.getD k.val false), v ≠ .none ∧ v ≠ .stop);
      s.swc.openQ = [] → s.swc.closeQ = [] → s.swc.engine = .idle →
        (s.swc.ready = false ∨ s.smu.supply = .low ∨ opens = [] → t.swc.openQ = opens ∧ t.swc.engine = .idle) ∧
        (∀ k rest, s.swc.ready = true → s.smu.supply = .run → opens = k :: rest → t.swc.openQ = rest ∧
          t.swc.engine = .pulsing k .toOpen ∧ t.swc.coil = some (k, .toOpen) ∧
          t.swc.pulseEndAt = some ((s.now.plus dt).plus s.smu.settings.pulseMs))) ∧
    (let writes := ((List.finRange 12).filter fun k => decide (k.val < s.smu.strings ∧
        (s.readSlot k (answers.getD k.val false) = none ∨
          (closed.getD k.val false = true ∧ s.readSlot k (answers.getD k.val false) = some .stop)))).map
        fun k => (k, MemoValue.none);
      s.smu.memoQueue = [] → s.smu.writer = none →
        (s.smu.supply = .low ∨ writes = [] → t.smu.memoQueue = writes ∧ t.smu.writer = none) ∧
        (∀ k v rest, s.smu.supply = .run → writes = (k, v) :: rest → t.smu.memoQueue = rest ∧
          t.smu.writer = some { string := k, value := v, failed := 0, busy := true, began := s.now.plus dt })) ∧
    ∀ k : StringNo,
      (s.smu.strings ≤ k.val → t.string k = StringRecord.atReset ∧ t.rsl.str[k] = s.rsl.str[k]) ∧
      (k.val < s.smu.strings →
        let slot := s.readSlot k (answers.getD k.val false)
        let isolated := fun c : IsoCause =>
          ({ active := true, cause := c, detail := HoldDetail.none, time := s.now.plus dt } : IsolationRecord)
        let opening := fun c : OpenCause => (t.string k).state = .opening ∧ ∃ q, (t.string k).request = some q ∧
          q.dir = .toOpen ∧ q.cause = some c ∧ q.detail = HoldDetail.none ∧ q.failed = 0
        t.swc.contact[k] = closed.getD k.val false ∧
        (t.string k).memo = (if closed.getD k.val false = true ∧ slot = some .stop then .none else slot.getD .none) ∧
        t.rsl.str[k].recloseAt = (if closed.getD k.val false = false ∧ (slot = some .reverse ∨ slot = some .overcurrent) ∧
            s.rsl.str[k].reclose < s.smu.settings.recloseMax
          then some ((s.now.plus dt).plus (s.smu.settings.recloseDelay * 1000)) else s.rsl.str[k].recloseAt) ∧
        if closed.getD k.val false then
          (t.string k).iso = StringRecord.atReset.iso ∧
          match slot with
          | some .arc => opening (.fault .arc) ∧
              (t.string k).holds = { HoldSet.empty with fault := some { cause := .arc, detail := HoldDetail.none } }
          | some .ground => opening (.fault .ground) ∧
              (t.string k).holds = { HoldSet.empty with fault := some { cause := .ground, detail := HoldDetail.none } }
          | some .reverse => opening (.fault .reverse) ∧
              (t.string k).holds = { HoldSet.empty with fault := some { cause := .reverse, detail := HoldDetail.none } }
          | some .overcurrent => opening (.fault .overcurrent) ∧
              (t.string k).holds = { HoldSet.empty with fault := some { cause := .overcurrent, detail := HoldDetail.none } }
          | some .service => opening .service ∧ (t.string k).holds = { HoldSet.empty with service := true }
          | some .stop => (t.string k).state = .closed ∧ (t.string k).holds = HoldSet.empty
          | some .none => (t.string k).state = .closed ∧ (t.string k).holds = HoldSet.empty
          | none => (t.string k).state = .closed ∧ (t.string k).holds = HoldSet.empty
        else
          (t.string k).state = .opened ∧
          match slot with
          | some .arc => (t.string k).holds = { HoldSet.empty with fault := some { cause := .arc, detail := HoldDetail.none } } ∧
              (t.string k).iso = isolated .arc
          | some .ground => (t.string k).holds = { HoldSet.empty with fault := some { cause := .ground, detail := HoldDetail.none } } ∧
              (t.string k).iso = isolated .ground
          | some .reverse => (t.string k).holds = { HoldSet.empty with fault := some { cause := .reverse, detail := HoldDetail.none } } ∧
              (t.string k).iso = isolated .reverse
          | some .overcurrent =>
              (t.string k).holds = { HoldSet.empty with fault := some { cause := .overcurrent, detail := HoldDetail.none } } ∧
              (t.string k).iso = isolated .overcurrent
          | some .service => (t.string k).holds = { HoldSet.empty with service := true } ∧ (t.string k).iso = isolated .service
          | some .stop => (t.string k).holds = { HoldSet.empty with stop := some .remembered } ∧
              (t.string k).iso = StringRecord.atReset.iso
          | some .none => (t.string k).holds = { HoldSet.empty with fault := some { cause := .unknown, detail := HoldDetail.none } } ∧
              (t.string k).iso = StringRecord.atReset.iso
          | none => (t.string k).holds = { HoldSet.empty with fault := some { cause := .unknown, detail := HoldDetail.none } } ∧
              (t.string k).iso = StringRecord.atReset.iso)

/-- LISTEN_END at its time: the line leaves LISTEN by the Peer Table, and the PRB, the RPT and the SMU start their timers
(R113, R128, R183). -/
def Obligations.ListenEndStartsOperation : Prop :=
  ∀ (dt : Nat) (s : State), s.smu.phase = .listening →
    (expired (s.now.plus dt) s.smu.listenEndAt = true → exec (.listenEnd dt) s = .next (State.settle { s.elapse dt with
      smu := { s.smu with phase := .running, listenEndAt := none, rememberedAt := some ((s.now.plus dt).plus 20000) },
      lnc := if s.lnc.line = .listen then
          { s.lnc with line := if s.pvw.peers.toList.any (fun e => e.presence == .present) then .up else .down, cleanRun := 0 }
        else s.lnc,
      prb := if s.smu.address = 0 then { s.prb with balRef := s.ssu.ground.balance }
        else { s.prb with
          balRef := s.ssu.ground.balance, alarmArmed := true, alarmCount := 0, staggerAt := none, duePending := false, retryAt := none,
          dueAt := some ((s.now.plus dt).plus (s.smu.settings.probePeriod * 60000 + s.smu.address * 10000)) },
      rpt := if s.smu.address = 0 then s.rpt
        else { s.rpt with statusAt := some ((s.now.plus dt).plus (s.smu.address * s.smu.settings.statusPeriod * 1000 / 32)) } })) ∧
    (expired (s.now.plus dt) s.smu.listenEndAt = false → exec (.listenEnd dt) s = .next (s.elapse dt).settle)

/-- REMEMBERED_STOP_EXPIRY at its time releases every remembered STOP of a fitted string and no other hold; a STOP tied to
the Stop Set stays (R172). -/
def Obligations.RememberedStopsAreReleased : Prop :=
  ∀ (dt : Nat) (s : State), s.started = true → expired (s.now.plus dt) s.smu.rememberedAt = true →
    ∃ t, exec (.rememberedStopExpiry dt) s = .next t ∧ t.smu.rememberedAt = none ∧
    t.ssu = s.ssu ∧ t.eve = s.eve ∧ t.sel = s.sel ∧ t.prb = s.prb ∧ t.lnc = s.lnc ∧ t.pvw = s.pvw ∧ t.rsl = s.rsl ∧
    t.smu.mem = s.smu.mem ∧
    ∀ k : StringNo, (t.string k).iso = (s.string k).iso ∧
      (t.string k).holds = (if k.val < s.smu.strings ∧ (s.string k).holds.stop = some .remembered
        then { (s.string k).holds with stop := none } else (s.string k).holds) ∧
      (t.string k).state = (if k.val < s.smu.strings ∧ (s.string k).holds.stop = some .remembered ∧ (s.string k).state = .opened ∧
        ({ (s.string k).holds with stop := none } : HoldSet).isEmpty = true then .closing else (s.string k).state)

/-- SUPPLY_LOW: when the supply has been below 10.5 V for 10 ms without interruption, RUN becomes LOW; with less, or in LOW, or while the
part is in reset, only time passes. At the change a station with no part in a window of its own changes nothing else, a PENDING one
withdraws its PROBE-OPEN, and an injector that drives the array ends its injection with status ABORTED (R62, R68, R186). That a
due trigger whose PROBE-OPEN is withdrawn is left not pending, with no retry started, is the model's reading (log entry 16), and that the
command carries the course of the supply pin its choice (log entry 28). -/
def Obligations.SupplyLowEndsInjection : Prop :=
  ∀ (u : SupplyWatch) (s : State),
    let dt := u.dt
    let below := HeldTenMs (fun v => v < 10500) u.course
    (s.smu.phase = .inReset ∨ (¬DropsToReset u.course ∧ (s.smu.supply = .low ∨ ¬below)) →
      exec (.supplyLow u) s = .next (s.elapse dt).settle) ∧
    (s.smu.phase ≠ .inReset → s.smu.supply = .run → ¬DropsToReset u.course → below →
    ((s.prb.role = .none ∨ s.prb.role = .listening) → exec (.supplyLow u) s =
      .next (State.settle { s.elapse dt with smu := { s.smu with supply := .low } })) ∧
    (∀ f, s.prb.role = .pending → s.queuedOf .probeOpen = some f → s.lnc.sending ≠ some f.entry → exec (.supplyLow u) s =
      .next (State.settle { s.elapse dt with
        smu := { s.smu with supply := .low },
        prb := { s.prb with role := .none, byDue := false },
        lnc := { s.lnc with queue := s.lnc.queue.filter fun g => g.entry != f.entry } })) ∧
    (∀ w, s.prb.role = .injecting → s.prb.window = some w → w.phase ≠ some .closing → s.listenOnly = false →
      s.lnc.queue.length < 16 → ∃ t, exec (.supplyLow u) s = .next t ∧ t.smu = { s.smu with supply := .low } ∧
      t.prb = { s.prb with output := .released,
                           window := some { w with status := some .aborted, riso := 65535, phase := some .closing } } ∧
      t.ssu = s.ssu ∧ t.eve = s.eve ∧ t.sel = s.sel ∧ t.pvw = s.pvw ∧ t.rsl = s.rsl ∧ t.swc.str = s.swc.str ∧
      ∃ f ∈ t.lnc.queue, f.kind = .probeClose ∧ f.rank = 0 ∧ f.entry = s.lnc.nextEntry ∧
        f.payload = [BitVec.ofNat 8 w.tag.sequence, 3, BitVec.ofNat 8 w.halvesInjected, 255, 255]))

/-- SUPPLY_RUN: when the supply has been at or above 11.0 V for 10 ms without interruption, LOW becomes RUN; with less, or in RUN, or while
the part is in reset, only time passes. At the change the engine takes the head of the Drive Queue, OPEN requests first, when the source is
ready, and an idle memo writer takes the first pending write; a retry that waited for RUN begins again (R144, R184 to R187). That this retry
goes on with its own value, also beside a newer pending write of its string, is the model's choice (log entry 20), as is that the command
carries the course of the supply pin (log entry 28). -/
def Obligations.SupplyRunServesQueues : Prop :=
  ∀ (u : SupplyWatch) (s : State),
    let dt := u.dt
    let above := HeldTenMs (fun v => 11000 ≤ v) u.course
    (s.smu.phase = .inReset ∨ (¬DropsToReset u.course ∧ (s.smu.supply = .run ∨ ¬above)) →
      exec (.supplyRun u) s = .next (s.elapse dt).settle) ∧
    (s.smu.phase ≠ .inReset → s.smu.supply = .low → ¬DropsToReset u.course → above → ∃ t, exec (.supplyRun u) s = .next t ∧
    t.smu.supply = .run ∧ t.ssu = s.ssu ∧ t.eve = s.eve ∧ t.sel = s.sel ∧ t.prb = s.prb ∧ t.lnc = s.lnc ∧ t.pvw = s.pvw ∧
    t.rsl = s.rsl ∧ t.smu.mem = s.smu.mem ∧
    (s.started = true → s.swc.engine = .idle → s.swc.ready = true →
      (∀ k q, s.swc.openQ = k :: q → t.swc.engine = .pulsing k .toOpen ∧ t.swc.coil = some (k, .toOpen) ∧ t.swc.openQ = q ∧
        t.swc.pulseEndAt = some ((s.now.plus dt).plus s.smu.settings.pulseMs)) ∧
      (∀ k q, s.swc.openQ = [] → s.swc.closeQ = k :: q → t.swc.engine = .pulsing k .toClose ∧
        t.swc.coil = some (k, .toClose) ∧ t.swc.closeQ = q)) ∧
    ((s.started = false ∨ s.swc.engine ≠ .idle ∨ s.swc.ready = false ∨ (s.swc.openQ = [] ∧ s.swc.closeQ = [])) →
      t.swc.engine = s.swc.engine ∧ t.swc.coil = s.swc.coil ∧ t.swc.str = s.swc.str) ∧
    (∀ k v q, s.smu.writer = none → s.smu.memoQueue = (k, v) :: q → t.smu.memoQueue = q ∧
      t.smu.writer = some { string := k, value := v, failed := 0, busy := true, began := s.now.plus dt }) ∧
    (∀ w, s.smu.writer = some w → t.smu.memoQueue = s.smu.memoQueue ∧
      t.smu.writer = some (if w.busy = true then w else { w with busy := true, began := s.now.plus dt })))

/-- MEMO_WRITE_DONE ends a write whose slot reads back as written, and the slot then restores the value at the next start;
a slot that reads otherwise is a failed attempt: under RUN and with nothing pending it is retried up to three times, then the
write is dropped with MEMO_FAULT (R185). -/
def Obligations.MemoWriteIsVerified : Prop :=
  ∀ (dt : Nat) (v h l : Byte) (s : State) (w : MemoWrite), s.smu.phase ≠ .inReset → s.smu.writer = some w → w.busy = true →
    s.smu.supply = .run → s.smu.memoQueue = [] → Memory.wf s.smu.mem = true →
    ∃ t, exec (.memoWriteDone dt v h l) s = .next t ∧
      t.ssu = s.ssu ∧ t.eve = s.eve ∧ t.sel = s.sel ∧ t.prb = s.prb ∧ t.lnc = s.lnc ∧ t.pvw = s.pvw ∧ t.rsl = s.rsl ∧
      t.swc.str = s.swc.str ∧ t.smu.memoQueue = [] ∧
      (∀ a, a < slotAddress w.string ∨ slotAddress w.string + 2 < a → Memory.read t.smu.mem a = Memory.read s.smu.mem a) ∧
      Memory.read t.smu.mem (slotAddress w.string) = v ∧ Memory.read t.smu.mem (slotAddress w.string + 1) = h ∧
      Memory.read t.smu.mem (slotAddress w.string + 2) = l ∧
      ((v, h, l) = slotBytes w.string w.value →
        t.smu.writer = none ∧ t.smu.memoFault = s.smu.memoFault ∧ t.readSlot w.string true = some w.value) ∧
      ((v, h, l) ≠ slotBytes w.string w.value → w.failed < 3 →
        t.smu.writer = some { w with failed := w.failed + 1, began := s.now.plus dt } ∧ t.smu.memoFault = s.smu.memoFault) ∧
      ((v, h, l) ≠ slotBytes w.string w.value → 3 ≤ w.failed → t.smu.writer = none ∧ t.smu.memoFault = true)

/-- MEMO_BUSY_TIMEOUT 10 ms after a write began is a failed attempt: retried at once under RUN, after RUN otherwise, dropped with
MEMO_FAULT at the fourth, and superseded by a pending write of the same string; the bytes outside the slot stay, and what the slot
holds is free (R185, log entry 6). -/
def Obligations.MemoTimeoutFailsAttempt : Prop :=
  ∀ (dt : Nat) (s : State) (w : MemoWrite), s.smu.phase ≠ .inReset → s.smu.writer = some w → w.busy = true →
    reached (s.now.plus dt) (w.began.plus 10) = true →
    ∃ t, exec (.memoBusyTimeout dt) s = .next t ∧
      t.ssu = s.ssu ∧ t.eve = s.eve ∧ t.sel = s.sel ∧ t.prb = s.prb ∧ t.lnc = s.lnc ∧ t.pvw = s.pvw ∧ t.rsl = s.rsl ∧
      t.swc.str = s.swc.str ∧
      (∀ a, a < slotAddress w.string ∨ slotAddress w.string + 2 < a → Memory.read t.smu.mem a = Memory.read s.smu.mem a) ∧
      (s.smu.memoQueue = [] → w.failed < 3 → t.smu.memoFault = s.smu.memoFault ∧
        t.smu.writer = some (if s.smu.supply = .run then { w with failed := w.failed + 1, began := s.now.plus dt }
          else { w with failed := w.failed + 1, busy := false })) ∧
      (s.smu.memoQueue = [] → 3 ≤ w.failed → t.smu.writer = none ∧ t.smu.memoFault = true) ∧
      (∀ v q, s.smu.memoQueue = (w.string, v) :: q → s.smu.supply = .run → t.smu.memoFault = s.smu.memoFault ∧
        t.smu.memoQueue = q ∧
        t.smu.writer = some { string := w.string, value := v, failed := 0, busy := true, began := s.now.plus dt })

/-- A slot written with a value and its check reads back as that value, for every string and value (R180, R190). -/
def Obligations.MemoSlotRoundTrip : Prop :=
  ∀ (k : StringNo) (v : MemoValue) (m : List Host.Cell), Memory.wf m = true →
    let m' := Memory.writeSlot m k (slotBytes k v).1 (slotBytes k v).2.1 (slotBytes k v).2.2
    slotValue k (Memory.read m' (slotAddress k)) (Memory.read m' (slotAddress k + 1)) (Memory.read m' (slotAddress k + 2)) = some v ∧
    ∀ a, a < slotAddress k ∨ slotAddress k + 2 < a → Memory.read m' a = Memory.read m a


/-! ### Sensing and arc evidence (chapter 1) -/

/-- The interval record of 40 samples holds the sums of the clamped samples divided by 40 and truncated, lies in the ranges of R2
whatever the raw samples, and is marked saturated exactly when a current or energy sample was clamped; a clamped residual marks
nothing. The ground record holds the voltage means and the balance, floor(1000·Vpg/(Vpg + Vng)), and 500 when both are 0 (R2, R3, R5). -/
def Obligations.RecordLiesInRange : Prop :=
  (∀ x : StringSamples, x.wellFormed = true →
    (intervalRecord x).current = (x.current.map fun i => max (-2000) (min 2000 i)).sum.tdiv 40 ∧
    (intervalRecord x).energy = (x.energy.map fun e => min 4095 e).sum / 40 ∧
    (intervalRecord x).residual = (x.residual.map fun i => max (-2047) (min 2047 i)).sum.tdiv 40 ∧
    -2000 ≤ (intervalRecord x).current ∧ (intervalRecord x).current ≤ 2000 ∧ (intervalRecord x).energy ≤ 4095 ∧
    -2047 ≤ (intervalRecord x).residual ∧ (intervalRecord x).residual ≤ 2047 ∧
    ((intervalRecord x).saturated = true ↔ (∃ i ∈ x.current, i < -2000 ∨ 2000 < i) ∨ ∃ e ∈ x.energy, 4095 < e)) ∧
  ∀ p n : List Nat, p.length = 40 → n.length = 40 →
    let vpg := (p.map fun v => min 1500 v).sum / 40
    let vng := (n.map fun v => min 1500 v).sum / 40
    groundRecord p n = { vpg := vpg, vng := vng, balance := if vpg = 0 ∧ vng = 0 then 500 else 1000 * vpg / (vpg + vng) } ∧
    vpg ≤ 1500 ∧ vng ≤ 1500 ∧ (groundRecord p n).balance ≤ 1000

/-- Three consecutive saturated records set SENSOR_FAULT, and exactly 100 consecutive unsaturated ones clear it (R4). -/
def Obligations.SensorFaultSetsAndClears : Prop :=
  (∀ (c : SenseString) (rs : List IntervalRecord), rs.length = 3 → (∀ r ∈ rs, r.saturated = true) →
    (rs.foldl senseUpdate c).sensorFault = true) ∧
  (∀ (c : SenseString) (r : IntervalRecord) (rs : List IntervalRecord), c.sensorFault = true → r.saturated = true →
    rs.length ≤ 100 → (∀ x ∈ rs, x.saturated = false) →
    (rs.foldl senseUpdate (senseUpdate c r)).sensorFault = decide (rs.length < 100)) ∧
  (∀ (c : SenseString) (r : IntervalRecord), c.sensorFault = false → c.satRun < 2 → (senseUpdate c r).sensorFault = false)

/-- INTERVAL_COMPLETION at the end of an interval: the SSU forms the set, the EVE takes it with its trips and its onset, the PRB
with its balance alarm, flip tracker and residual sampling, and the SWC tests every fitted string in string order for a mismatch. Every
fitted string's record and SENSOR_FAULT counts, the ground record and every fitted string's evidence entry are those of the
samples, and the next interval begins; unfitted strings keep theirs; before that time only time passes (R1, R4 to R6, R9, R155; log
entry 3). That the EVE acts before the PRB and the PRB before the SWC, the set input reading the string states and the ARC incident as
they stood when the set was taken, is the model's reading (log entry 14); that the probe voltage sense is clamped and averaged as the
ground voltages are, and the injector current over its range, is the model's presumption (log entry 19). -/
def Obligations.IntervalFormsRecordsAndEvidence : Prop :=
  ∀ (dt : Nat) (x : IntervalSamples) (s : State) (b : Time), s.started = true → s.ssu.intervalStart = some b →
    let sensed := fun k : StringNo => senseUpdate s.ssu.str[k] (intervalRecord (samplesOf x k))
    let input : StringNo → SetInput := fun k =>
      { record := intervalRecord (samplesOf x k), sensorFault := (sensed k).sensorFault,
        closed := (s.string k).state == .closed, arcString := s.sel.arc.map (·.string) == some k }
    let observed := fun k : StringNo => s.eve[k].observe (input k) s.smu.settings.iMinArc
    (reached (s.now.plus dt) (b.plus 10) = true →
      ∃ t, exec (.intervalCompletion dt x) s = .next t ∧
      t = State.settle (((List.finRange 12).filter fun k => decide (k.val < s.smu.strings)).foldl State.mismatchTest
        (((s.elapse dt).formInterval x).eveInterval.probeInterval)) ∧
      t.ssu.probeV = (x.sense.map fun v => min 1500 v).sum / 40 ∧
      t.ssu.probeI = (x.injector.map fun i => max (-4095) (min 4095 i)).sum.tdiv 40 ∧
      t.ssu.intervalStart = some (s.now.plus dt) ∧ t.ssu.ground = groundRecord x.vpg x.vng ∧ t.pvw = s.pvw ∧
      t.smu.mem = s.smu.mem ∧
      ∀ k : StringNo,
        (s.smu.strings ≤ k.val → t.ssu.str[k] = s.ssu.str[k] ∧ t.eve[k] = s.eve[k]) ∧
        (k.val < s.smu.strings →
          t.ssu.str[k] = sensed k ∧
          t.eve[k] = (observed k).conclude (input k) s.eve[k].learnPending
            (boxMedian ((s.fittedStrings.filter fun j => (observed j).eligible).map fun j => (observed j).score)) s.smu.settings)) ∧
    (reached (s.now.plus dt) (b.plus 10) = false →
      exec (.intervalCompletion dt x) s = .next (s.elapse dt).settle)

/-- A learn load takes 16·E as baseline and starts 100 intervals of learning; otherwise a CLOSED string's learning count
falls by one, and the score is 10 in learning, else min(250, floor(160·E/max(B, 128))). A string is eligible exactly when
CLOSED, sound, out of learning and carrying I_MIN_ARC (R10 to R13). -/
def Obligations.ObservationFollowsLearningAndScore : Prop :=
  ∀ (e : Evidence) (i : SetInput) (m : Nat),
    (e.learnPending = true → e.observe i m = { e with
      base := 16 * i.record.energy, learning := 100, learnPending := false, score := 10, evid := 0, eligible := false }) ∧
    (e.learnPending = false →
      (e.observe i m).learning = (if i.closed = true then e.learning - 1 else e.learning) ∧
      (e.observe i m).base = e.base ∧ (e.observe i m).q = e.q ∧ (e.observe i m).peak = e.peak ∧
      (e.observe i m).qr = e.qr ∧ (e.observe i m).qo = e.qo ∧
      (e.observe i m).score = (if (e.observe i m).learning = 0 then min 250 (160 * i.record.energy / max e.base 128) else 10) ∧
      ((e.observe i m).eligible = true ↔ i.closed = true ∧ i.sensorFault = false ∧ (e.observe i m).learning = 0 ∧
        (m : Int) ≤ i.record.current))

/-- The box median is taken over the scores of the eligible fitted strings: none when there are none, 10 for one, and for
two or more the score that stands at position floor((n − 1)/2) in ascending order, equal scores kept apart: at most that many
scores lie below it, and more than that many do not lie above it (R14). -/
def Obligations.BoxMedianIsLowerMedian : Prop :=
  boxMedian [] = none ∧ (∀ a, boxMedian [a] = some 10) ∧
  (∀ xs : List Nat, 2 ≤ xs.length → ∃ m ∈ xs, boxMedian xs = some m ∧
    (xs.filter fun a => decide (a < m)).length ≤ (xs.length - 1) / 2 ∧
    (xs.length - 1) / 2 < (xs.filter fun a => decide (a ≤ m)).length) ∧
  ∀ s : State, s.eligibleScores =
    ((List.finRange 12).filter fun k => decide (k.val < s.smu.strings) && s.eve[k].eligible).map fun k => s.eve[k].score

/-- The evidence of an eligible string is A = S − M when S is above M and 0 otherwise, and 0 without a median or for a string
that is not eligible. It lies in 0..250 and is what the arc counter and the run peak take (R15). -/
def Obligations.EvidenceIsScoreAboveMedian : Prop :=
  ∀ (e : Evidence) (i : SetInput) (loaded : Bool) (median : Option Nat) (c : Settings),
    let t := e.conclude i loaded median c
    (∀ m, median = some m → e.eligible = true → (m < e.score → t.evid = e.score - m) ∧ (e.score ≤ m → t.evid = 0)) ∧
    (median = none → t.evid = 0) ∧ (e.eligible = false → t.evid = 0) ∧ (e.score ≤ 250 → t.evid ≤ 250) ∧
    (c.arcOnset ≤ t.evid → t.q = min 255 (e.q + 1)) ∧ (t.evid < c.arcOnset → t.q = e.q - 1) ∧
    (t.q ≠ 0 → t.peak = if e.q = 0 then t.evid else max e.peak t.evid)

/-- The rest of a set for one string: the baseline step or freeze of R16, the reverse and overcurrent counters of R17, and the
end of a run of R18. What the observation gave stays. -/
def Obligations.BaselineAndCountersFollowRecord : Prop :=
  ∀ (e : Evidence) (i : SetInput) (loaded : Bool) (median : Option Nat) (c : Settings),
    let t := e.conclude i loaded median c
    (t.base = if loaded = true ∨ i.closed = false ∨ i.sensorFault = true ∨ i.record.current < c.iMinArc ∨ c.arcOnset ≤ t.evid ∨
        i.arcString = true then e.base
      else (clampInt 0 65520 ((e.base : Int) + (16 * (i.record.energy : Int) - (e.base : Int)).tdiv 64)).toNat) ∧
    (e.base ≤ 65520 → t.base ≤ 65520) ∧
    (t.qr = if i.closed = true ∧ i.record.current ≤ -(c.revLim : Int) then min 255 (e.qr + 1) else e.qr - 1) ∧
    (t.qo = if i.closed = true ∧ (c.ocLim : Int) ≤ i.record.current then min 255 (e.qo + 1) else e.qo - 1) ∧
    (t.q = 0 → t.peak = 0) ∧
    t.learning = e.learning ∧ t.score = e.score ∧ t.eligible = e.eligible ∧ t.learnPending = e.learnPending

/-- A string trips in the set in which its reverse counter, or else its overcurrent counter, goes from one below its
qualification to it, and in no set in which neither rises. A trip adds its fault hold to a CLOSED fitted string, which becomes
OPENING; strings without a trip stay as they are. An OPEN string becomes STUCK-CLOSED at its third interval running of 0.2 A
or more, and an interval below that starts the count again (R21, R140, R155). -/
def Obligations.TripsOpenAndMismatchSticks : Prop :=
  (∀ (e e' : Evidence) (c : Settings), e.qr + 1 = c.revQual → e'.qr = c.revQual → tripOf e e' c = some .reverse) ∧
  (∀ (e e' : Evidence) (c : Settings), e.qo + 1 = c.ocQual → e'.qo = c.ocQual → e'.qr ≤ e.qr →
    tripOf e e' c = some .overcurrent) ∧
  (∀ (e e' : Evidence) (c : Settings), e'.qr ≤ e.qr → e'.qo ≤ e.qo → tripOf e e' c = none) ∧
  (∀ (s : State) (e : PerString Evidence) (k : StringNo), k.val < s.smu.strings →
    (∀ c, tripOf e[k] s.eve[k] s.smu.settings = some c → (s.string k).state = .closed → (s.string k).holds.fault = none →
      ((s.handTrips e).string k).state = .opening ∧
      ((s.handTrips e).string k).holds = { (s.string k).holds with fault := some { cause := c, detail := HoldDetail.none } }) ∧
    (tripOf e[k] s.eve[k] s.smu.settings = none →
      ((s.handTrips e).string k).state = (s.string k).state ∧ ((s.handTrips e).string k).holds = (s.string k).holds)) ∧
  (∀ (s : State) (k : StringNo), (s.string k).state = .opened → 20 ≤ s.ssu.str[k].record.current.natAbs →
    (s.string k).mismatch = 2 → ((s.mismatchTest k).string k).state = .stuckClosed ∧
      (s.mismatchTest k).rsl.str[k].recloseAt = none ∧ ((s.mismatchTest k).string k).holds = (s.string k).holds) ∧
  (∀ (s : State) (k : StringNo), (s.string k).state = .opened → 20 ≤ s.ssu.str[k].record.current.natAbs →
    (s.string k).mismatch < 2 → s.mismatchTest k = s.setString k fun r => { r with mismatch := r.mismatch + 1 }) ∧
  (∀ (s : State) (k : StringNo), (s.string k).state = .opened → s.ssu.str[k].record.current.natAbs < 20 →
    s.mismatchTest k = s.setString k fun r => { r with mismatch := 0 })

/-! ### Incidents (chapter 2) -/

/-- A claim outranks another by the higher rank, or at equal ranks by the lower source; a Claim Log entry outranks an own incident so by
the own address, and at a listen-only station by a higher rank alone. The order is strict and total; the strongest of some entries is
one of them, of the highest rank and among equal ranks of the lowest source, and none of them outranks it (R29, R32). -/
def Obligations.StrongestClaimIsUnbeaten : Prop :=
  (∀ r a r' a' : Nat, outranks r a r' a' = true ↔ r' < r ∨ (r = r' ∧ a < a')) ∧
  (∀ (s : State) (e : ClaimEntry) (rank : Nat),
    (s.entryOutranks e rank = true ↔ rank < e.rank ∨ (e.rank = rank ∧ e.source < s.smu.address)) ∧
    (s.smu.address = 0 → (s.entryOutranks e rank = true ↔ rank < e.rank))) ∧
  (∀ r a : Nat, outranks r a r a = false) ∧
  (∀ r a r' a' r'' a'' : Nat, outranks r a r' a' = true → outranks r' a' r'' a'' = true → outranks r a r'' a'' = true) ∧
  (∀ r a r' a' : Nat, (r ≠ r' ∨ a ≠ a') → (outranks r a r' a' = true ↔ outranks r' a' r a = false)) ∧
  ∀ es : List ClaimEntry, es ≠ [] → ∃ b ∈ es, strongest es = some b ∧
    ∀ e ∈ es, outranks e.rank e.source b.rank b.source = false ∧ (e.rank < b.rank ∨ (e.rank = b.rank ∧ b.source ≤ e.source))

/-- An arc onset. The candidates of a set are the eligible fitted strings whose q has reached ARC_QUAL and that did not trip in
it; the winner is the one of highest run peak, the lowest number among equals; a set has an onset exactly when the SEL held no ARC
incident and a candidate exists. An onset at a station that may send, with no ARC-CLAIM queued and room in the queue: with no relevant,
recent and outranking entry in the log the incident of round 1 is CLAIMING and its ARC-CLAIM is queued; in a round that is not
forced, with some, it is YIELDED to the strongest of them and nothing is queued. A claim that finds the queue full of frames that
may not be evicted is DROPPED, and the incident is CLAIMING all the same. A listen-only station claims without a
frame. A PENDING station withdraws its PROBE-OPEN, unless an attempt of it is in progress, and an injector that has not closed ends
with status ABORTED (R19, R20, R31 to R33, R42, R62, R68, R105; that the ARC-CLAIM is queued before that withdrawal,
and before the injector's PROBE-CLOSE, is log entry 34, that
the withdrawn due trigger is left not pending is log entry 16). -/
def Obligations.ArcOnsetClaimsOrYields : Prop :=
  (∀ (s : State) (e : PerString Evidence) (k : StringNo), k ∈ s.candidates e ↔ k.val < s.smu.strings ∧ s.eve[k].eligible = true ∧
    s.smu.settings.arcQual ≤ s.eve[k].q ∧ tripOf e[k] s.eve[k] s.smu.settings = none) ∧
  (∀ (s : State) (e : PerString Evidence),
    (s.winner (s.candidates e) = none ↔ ∀ k, k ∉ s.candidates e) ∧
    ∀ k, s.winner (s.candidates e) = some k → k ∈ s.candidates e ∧
      ∀ j ∈ s.candidates e, s.eve[j].peak ≤ s.eve[k].peak ∧ (j < k → s.eve[j].peak < s.eve[k].peak)) ∧
  (∀ s : State,
    let t := s.evidenceUpdate
    (s.sel.arc ≠ none ∨ (∀ k, k ∉ t.candidates s.eve) → s.eveInterval = t.handTrips s.eve) ∧
    (∀ k, s.sel.arc = none → t.winner (t.candidates s.eve) = some k → s.eveInterval = (t.handTrips s.eve).arcOnset k)) ∧
  (∀ (s : State) (k : StringNo),
    (s.prb.role = .none ∨ s.prb.role = .listening → s.arcOnset k = s.openArc k s.eve[k].peak) ∧
    (∀ f, s.prb.role = .pending → s.lnc.queue.length < 16 → s.queuedOf .probeOpen = some f → s.lnc.sending ≠ some f.entry →
      (s.arcOnset k).prb = { s.prb with role := .none, byDue := false } ∧ ∀ g ∈ (s.arcOnset k).lnc.queue, g.entry ≠ f.entry) ∧
    (∀ f, s.prb.role = .pending → s.lnc.queue.length < 16 → s.queuedOf .probeOpen = some f → s.lnc.sending = some f.entry →
      (s.arcOnset k).prb = s.prb ∧ { f with withdrawAsked := true } ∈ (s.arcOnset k).lnc.queue) ∧
    (∀ w, s.prb.role = .injecting → s.prb.window = some w →
      (w.phase = some .closing → s.arcOnset k = s.openArc k s.eve[k].peak) ∧
      (w.phase ≠ some .closing → s.smu.address ≠ 0 → s.lnc.queue.length < 15 →
        (s.arcOnset k).prb = { s.prb with
          output := .released, window := some { w with status := some .aborted, riso := 65535, phase := some .closing } } ∧
        ∃ g ∈ (s.arcOnset k).lnc.queue, g.kind = .probeClose ∧ g.rank = 0 ∧
          g.payload = [BitVec.ofNat 8 w.tag.sequence, 3, BitVec.ofNat 8 w.halvesInjected, 255, 255]))) ∧
  ∀ (s : State) (k : StringNo) (p : Nat),
    let rank := if s.smu.settings.arcRounds = 1 then 255 else p
    let i : Incident :=
      { kind := .arc, string := k, rank := rank, round := 1, onset := s.now, decision := s.now.plus s.smu.settings.selWin,
        tag := none, response := none, riso := none, state := .claiming, claim := .queued, beatenBy := none }
    let beats := fun e : ClaimEntry => (e.kind = .arcClaim ∨ (e.kind = .isolated ∧ e.cause = some .arc)) ∧
      s.now.since e.arrival ≤ s.smu.settings.selWin ∧ (rank < e.rank ∨ (e.rank = rank ∧ e.source < s.smu.address))
    (s.smu.settings.arcRounds ≠ 1 → (∃ e ∈ s.sel.claimLog, beats e) → ∃ b ∈ s.sel.claimLog, beats b ∧
      (∀ e ∈ s.sel.claimLog, beats e → outranks e.rank e.source b.rank b.source = false) ∧
      s.openArc k p = { s with sel := { s.sel with
        arc := some { i with state := .yielded, claim := .none, beatenBy := some { source := b.source, rank := b.rank } } } }) ∧
    ((s.smu.settings.arcRounds = 1 ∨ ∀ e ∈ s.sel.claimLog, ¬beats e) → s.smu.address = 0 →
      s.openArc k p = { s with sel := { s.sel with arc := some { i with claim := .none } } }) ∧
    ((s.smu.settings.arcRounds = 1 ∨ ∀ e ∈ s.sel.claimLog, ¬beats e) → s.smu.address ≠ 0 →
      (s.queuedOf .arcClaim = none → s.lnc.queue.length < 16 → s.openArc k p = { s with
        sel := { s.sel with arc := some i },
        lnc := { s.lnc with
          queue := insertFrame
            { kind := .arcClaim, rank := rank, payload := [BitVec.ofNat 8 (k.val + 1), 1], failed := 0, entry := s.lnc.nextEntry,
              withdrawAsked := false, flagNote := false } s.lnc.queue,
          nextEntry := s.lnc.nextEntry + 1 } }) ∧
      (16 ≤ s.lnc.queue.length → (∀ f ∈ s.lnc.queue, f.kind ≠ .status ∧ f.kind ≠ .answer) →
        s.openArc k p = { s with sel := { s.sel with arc := some { i with claim := .dropped } } }))

/-- CLAIM_EXPIRY removes exactly the entries of the source and kind that are 10 s old, and RECENT_DECISION_EXPIRY the recent
arc decision 10 s after its time, and not before (R28, R48). -/
def Obligations.ClaimMemoryLapses : Prop :=
  ∀ (dt : Nat) (s : State), s.started = true →
    (∀ (p : PeerNo) (k : ClaimKind), exec (.claimExpiry dt p k) s = .next (State.settle { s.elapse dt with
      sel := { s.sel with
        claimLog := s.sel.claimLog.filter fun e =>
          decide (¬(e.source = p.val + 1 ∧ e.kind = k ∧ reached (s.now.plus dt) (e.arrival.plus 10000) = true)) } })) ∧
    (∀ (r : Nat) (d : Time), s.sel.recent = some (r, d) →
      exec (.recentDecisionExpiry dt) s = .next (State.settle { s.elapse dt with
        sel := { s.sel with recent := if reached (s.now.plus dt) (d.plus 10000) = true then none else some (r, d) } }))

/-- DECISION_POINT: at its decision time a CLAIMING arc incident becomes DECIDED, whatever the line state, with the ARC hold of its rank
and round asked for its string, which takes it by its state, a CLOSED one with an OPEN queued under it, and a claim still queued
is withdrawn. When the request finds the string OPEN, STUCK or CLOSING with a waiting CLOSE, no opening is to come and the incident
closes in this event; else it stays DECIDED. A YIELDED incident, or one not due, is left as it is (R35, R37 to R39, R44, R48, R140; that a
hold of the very cause held changes nothing in an OPEN or STUCK string is log entry 17). -/
def Obligations.DecisionPointAddsArcHold : Prop :=
  ∀ (dt : Nat) (s : State) (i : Incident), s.started = true → s.sel.arc = some i →
    let granted := i.claim = .queued ∧ ∃ g, s.queuedOf .arcClaim = some g ∧ s.lnc.sending ≠ some g.entry
    (i.state = .claiming → reached (s.now.plus dt) i.decision = true → ∃ t, exec (.decisionPoint dt) s = .next t ∧
      FaultHoldTaken s t i.string { cause := .arc, detail := { rank := i.rank, round := i.round, tag := none } } ∧
      t.sel = { s.sel with arc := t.sel.arc, recent := some (i.rank, i.decision) } ∧
      (NoOpeningComes (s.string i.string) → t.sel.arc = none) ∧
      (¬NoOpeningComes (s.string i.string) → ∃ c, t.sel.arc = some { i with state := .decided, claim := c } ∧
        (granted → c = .withdrawn) ∧ (¬granted → c = i.claim)) ∧
      t.lnc = (if i.claim = .queued then afterWithdrawal s.lnc .arcClaim else s.lnc) ∧
      t.ssu = s.ssu ∧ t.eve = s.eve ∧ t.prb = s.prb ∧ t.pvw = s.pvw ∧ t.smu.mem = s.smu.mem) ∧
    (i.state ≠ .claiming ∨ reached (s.now.plus dt) i.decision = false → exec (.decisionPoint dt) s = .next (s.elapse dt).settle)

/-- GROUND_DECISION: at its decision time a CLAIMING ground incident isolates below GF_TRIP under ISOLATE: it becomes DECIDED, with the
GROUND hold of its rank and window tag asked for its string, and closes in this event when the request finds the string OPEN, STUCK or
CLOSING with a waiting CLOSE. Else it marks its string SUSPECT and closes; a YIELDED one closes and clears the mark; a LOCATE still queued
is withdrawn in each case; a DECIDED incident, or one not due, is left as it is (R35, R44, R51, R52, R54, R140; that a hold of the very
cause held changes nothing in an OPEN or STUCK string is log entry 17). -/
def Obligations.GroundDecisionIsolatesOrMarks : Prop :=
  ∀ (dt : Nat) (s : State) (i : Incident) (r : Nat), s.started = true → s.sel.ground = some i → i.riso = some r →
    let due := reached (s.now.plus dt) i.decision = true
    let run := exec (.groundDecision dt) s
    let granted := i.claim = .queued ∧ ∃ g, s.queuedOf .locate = some g ∧ s.lnc.sending ≠ some g.entry
    let l := if i.claim = .queued then afterWithdrawal s.lnc .locate else s.lnc
    let marked := fun b : Bool => s.sel.suspect.set i.string.val b
    (due → i.state = .claiming → r < s.smu.settings.gfTrip → s.smu.settings.gfAction = .isolate → ∃ t, run = .next t ∧
      FaultHoldTaken s t i.string { cause := .ground, detail := { rank := i.rank, round := 0, tag := i.tag } } ∧
      t.sel = { s.sel with ground := t.sel.ground, suspect := marked false } ∧
      (NoOpeningComes (s.string i.string) → t.sel.ground = none) ∧
      (¬NoOpeningComes (s.string i.string) → ∃ c, t.sel.ground = some { i with state := .decided, claim := c } ∧
        (granted → c = .withdrawn) ∧ (¬granted → c = i.claim)) ∧
      t.lnc = l ∧ t.ssu = s.ssu ∧ t.eve = s.eve ∧ t.prb = s.prb ∧ t.pvw = s.pvw ∧ t.smu.mem = s.smu.mem) ∧
    (due → i.state = .claiming → s.smu.settings.gfTrip ≤ r ∨ s.smu.settings.gfAction = .report → run = .next (State.settle { s.elapse dt with
      lnc := l, sel := { s.sel with ground := none, suspect := marked true } })) ∧
    (due → i.state = .yielded → run = .next (State.settle { s.elapse dt with
      lnc := l, sel := { s.sel with ground := none, suspect := marked false } })) ∧
    (¬due ∨ i.state = .decided → run = .next (s.elapse dt).settle)

/-- YIELD_HOLD_EXPIRY. Before onset + SEL_WIN + YIELD_HOLD, or in another state, nothing happens. At that time a YIELDED incident
below ARC_QUAL, or in its last round, closes. Otherwise round r + 1 opens with the run peak as rank, or 255 when it is the last: with
some entry in the log that is relevant (an ISOLATED of the earlier winner is not), within SEL_WIN and outranking, a round that is not
forced is YIELDED to the strongest of them; with none, and in a forced round, it is CLAIMING, and its ARC-CLAIM is queued, by an
eviction when the queue is full of frames that may be evicted, else DROPPED; a listen-only station sends none. A claim
still QUEUED from the round before is withdrawn first, unless its attempt is in progress (R30 to R33, R35, R40 to R43, R105, R110; that
withdrawal is the model's choice, log entry 44). -/
def Obligations.YieldHoldEndsInRoundOrClosing : Prop :=
  ∀ (dt : Nat) (s : State) (i : Incident), s.started = true → s.sel.arc = some i → i.kind = .arc →
    let now := s.now.plus dt
    let run := exec (.yieldHoldExpiry dt) s
    let due := reached now (i.onset.plus (s.smu.settings.selWin + s.smu.settings.yieldHold)) = true
    let s' := (s.elapse dt).withdrawClaim .arc
    let rank := if i.round + 1 = s.smu.settings.arcRounds then 255 else s.eve[i.string].peak
    let next : Incident := { i with
      round := i.round + 1, rank := rank, onset := now, decision := now.plus s.smu.settings.selWin, state := .claiming, claim := .none }
    let beats := fun e : ClaimEntry =>
      (e.kind = .arcClaim ∨ (e.kind = .isolated ∧ e.cause = some .arc ∧
        ¬(1 < i.round + 1 ∧ ∃ b, i.beatenBy = some b ∧ b.source = e.source))) ∧
      now.since e.arrival ≤ s.smu.settings.selWin ∧ (rank < e.rank ∨ (e.rank = rank ∧ e.source < s.smu.address))
    let evictable := fun f : QueuedFrame => (f.kind = .status ∨ f.kind = .answer) ∧ s.lnc.sending ≠ some f.entry
    let closes := s.eve[i.string].q < s.smu.settings.arcQual ∨ s.smu.settings.arcRounds ≤ i.round
    let sent : QueuedFrame :=
      { kind := .arcClaim, rank := rank, payload := [BitVec.ofNat 8 (i.string.val + 1), BitVec.ofNat 8 (i.round + 1)], failed := 0,
        entry := s.lnc.nextEntry, withdrawAsked := false, flagNote := false }
    (i.claim ≠ .queued ∨ s.queuedOf .arcClaim = none → s' = s.elapse dt) ∧
    (∀ f, i.claim = .queued → s.queuedOf .arcClaim = some f →
      (s.lnc.sending ≠ some f.entry → s' = { s.elapse dt with
        sel := { s.sel with arc := some { i with claim := .withdrawn } },
        lnc := { s.lnc with queue := s.lnc.queue.filter fun g => g.entry != f.entry } }) ∧
      (s.lnc.sending = some f.entry → s' = { s.elapse dt with
        lnc := { s.lnc with queue := s.lnc.queue.map fun g => if g.entry = f.entry then { g with withdrawAsked := true } else g } })) ∧
    (i.state ≠ .yielded ∨ ¬due → run = .next (s.elapse dt).settle) ∧
    (i.state = .yielded → due → closes → run = .next (State.settle (s'.setArc none))) ∧
    (i.state = .yielded → due → ¬closes → i.round + 1 ≠ s.smu.settings.arcRounds → (∃ e ∈ s.sel.claimLog, beats e) →
      ∃ b ∈ s.sel.claimLog, beats b ∧ (∀ e ∈ s.sel.claimLog, beats e → outranks e.rank e.source b.rank b.source = false) ∧
      run = .next (State.settle (s'.setArc (some { next with
        state := .yielded, beatenBy := some { source := b.source, rank := b.rank } })))) ∧
    (i.state = .yielded → due → ¬closes → i.round + 1 = s.smu.settings.arcRounds ∨ (∀ e ∈ s.sel.claimLog, ¬beats e) →
      (s.smu.address = 0 → run = .next (State.settle (s'.setArc (some next)))) ∧
      (s.smu.address ≠ 0 → s'.queuedOf .arcClaim = none → s'.lnc.queue.length < 16 →
        run = .next (State.settle { s'.setArc (some { next with claim := .queued }) with
          lnc := { s'.lnc with queue := insertFrame sent s'.lnc.queue, nextEntry := s.lnc.nextEntry + 1 } })) ∧
      (s.smu.address ≠ 0 → s'.queuedOf .arcClaim = none → 16 ≤ s'.lnc.queue.length → (∃ f ∈ s'.lnc.queue, evictable f) →
        ∃ old ∈ s'.lnc.queue, evictable old ∧ (∀ f ∈ s'.lnc.queue, evictable f → old.entry ≤ f.entry) ∧
        run = .next (State.settle { s'.setArc (some { next with claim := .queued }) with
          lnc := { s'.lnc with
            queue := insertFrame sent (s'.lnc.queue.filter fun g => g.entry != old.entry), nextEntry := s.lnc.nextEntry + 1 } })) ∧
      (s.smu.address ≠ 0 → s'.queuedOf .arcClaim ≠ none ∨ (16 ≤ s'.lnc.queue.length ∧ ∀ f ∈ s'.lnc.queue, ¬evictable f) →
        run = .next (State.settle (s'.setArc (some { next with claim := .dropped })))))

/-! ### The ground probe (chapters 3 and 4) -/

/-- PROBE_DUE_EXPIRY, DUE_RETRY and STAGGER_EXPIRY at their times: under the conditions of R58, with no PROBE-OPEN queued and
room in the queue, the station becomes PENDING and its PROBE-OPEN of the stored settings is queued; otherwise a due trigger
stays pending for a further second, and a balance trigger is dropped. With the probe fault latch set no trigger is
evaluated. The balance alarm: at a ground record in the role NONE an armed alarm counts a balance BAL_SHIFT or more away from the
reference, and any other starts the count again; at 100 it disarms and starts the stagger timer; in another role the
count is 0. The last 100 balances are kept (R58 to R60, R65, R73). -/
def Obligations.ProbeTriggersQueueProbeOpen : Prop :=
  (∀ s : State,
    let away := (s.smu.settings.balShift : Int) ≤ |(s.ssu.ground.balance : Int) - s.prb.balRef|
    (s.prb.role ≠ .none → s.balanceCount = { s with prb := { s.prb with alarmCount := 0 } }) ∧
    (s.prb.role = .none → s.prb.alarmArmed = false → s.balanceCount = s) ∧
    (s.prb.role = .none → s.prb.alarmArmed = true →
      (¬away → s.balanceCount = { s with prb := { s.prb with alarmCount := 0 } }) ∧
      (away → s.prb.alarmCount < 99 → s.balanceCount = { s with prb := { s.prb with alarmCount := s.prb.alarmCount + 1 } }) ∧
      (away → 99 ≤ s.prb.alarmCount → s.balanceCount = { s with prb := { s.prb with
        alarmArmed := false, alarmCount := 0, staggerAt := some (s.now.plus (s.smu.address * 2000)) } })) ∧
    (s.prb.role = .none ∨ s.prb.role = .pending → s.probeInterval =
      State.balanceCount { s with prb := { s.prb with balances := (s.ssu.ground.balance :: s.prb.balances).take 100 } })) ∧
  ∀ (dt : Nat) (s : State), s.started = true →
    let allowed := s.prb.role = .none ∧ (s.lnc.line = .up ∨ s.lnc.line = .degraded) ∧ s.smu.phase = .running ∧ s.sel.arc = none ∧
      s.smu.supply = .run ∧ (∀ e, s.prb.lastEnd = some e → 30000 ≤ (s.now.plus dt).since e) ∧ s.smu.address ≠ 0 ∧
      s.pvw.stopSet = [] ∧ s.rsl.lockKey.accepted = false
    let f : QueuedFrame :=
      { kind := .probeOpen, rank := 0, failed := 0, entry := s.lnc.nextEntry, withdrawAsked := false, flagNote := false,
        payload := [BitVec.ofNat 8 s.prb.seq, BitVec.ofNat 8 (s.smu.settings.probeHp / 100), BitVec.ofNat 8 s.smu.settings.probeNp,
                    BitVec.ofNat 8 (s.smu.settings.probeSettle / 10)] }
    let queued : Lnc := { s.lnc with queue := insertFrame f s.lnc.queue, nextEntry := s.lnc.nextEntry + 1 }
    (expired (s.now.plus dt) s.prb.dueAt = true →
      (s.prb.fault = false → allowed → s.queuedOf .probeOpen = none → s.lnc.queue.length < 16 →
        exec (.probeDueExpiry dt) s = .next (State.settle { s.elapse dt with
          lnc := queued, prb := { s.prb with role := .pending, byDue := true, alarmCount := 0, dueAt := none, duePending := false, retryAt := none } })) ∧
      (s.prb.fault = false → ¬allowed → exec (.probeDueExpiry dt) s = .next (State.settle { s.elapse dt with
          prb := { s.prb with dueAt := none, duePending := true, retryAt := some ((s.now.plus dt).plus 1000) } })) ∧
      (s.prb.fault = true → exec (.probeDueExpiry dt) s = .next (State.settle { s.elapse dt with
          prb := { s.prb with dueAt := none, duePending := false, retryAt := none } }))) ∧
    (s.prb.duePending = true → expired (s.now.plus dt) s.prb.retryAt = true →
      (s.prb.fault = false → allowed → s.queuedOf .probeOpen = none → s.lnc.queue.length < 16 →
        exec (.dueRetry dt) s = .next (State.settle { s.elapse dt with
          lnc := queued, prb := { s.prb with role := .pending, byDue := true, alarmCount := 0, duePending := false, retryAt := none } })) ∧
      (s.prb.fault = false → ¬allowed → exec (.dueRetry dt) s = .next (State.settle { s.elapse dt with
          prb := { s.prb with retryAt := some ((s.now.plus dt).plus 1000) } })) ∧
      (s.prb.fault = true → exec (.dueRetry dt) s = .next (State.settle { s.elapse dt with
          prb := { s.prb with duePending := false, retryAt := none } }))) ∧
    (expired (s.now.plus dt) s.prb.staggerAt = true →
      (s.prb.fault = false → allowed → s.queuedOf .probeOpen = none → s.lnc.queue.length < 16 →
        exec (.staggerExpiry dt) s = .next (State.settle { s.elapse dt with
          lnc := queued, prb := { s.prb with role := .pending, byDue := false, alarmCount := 0, staggerAt := none } })) ∧
      (s.prb.fault = true ∨ ¬allowed → exec (.staggerExpiry dt) s = .next (State.settle { s.elapse dt with
          prb := { s.prb with staggerAt := none } })))

/-- REFERENCE_HALF_END at an injector in its reference phase: at 200 ms the UP reference sample is kept and the output
turns down; at 400 ms R_ref is computed: 450..550 ends the reference, and any other value ends the window with status
FAULT, R_iso 65535 and a PROBE-CLOSE in the queue (R65). -/
def Obligations.ReferenceHalvesCheckInjector : Prop :=
  ∀ (dt : Nat) (s : State) (w : Window), s.started = true → s.prb.role = .injecting → s.prb.window = some w →
    w.phase = some .reference →
    (w.refUp = none → reached (s.now.plus dt) (w.start.plus 200) = true →
      exec (.referenceHalfEnd dt) s = .next (State.settle { s.elapse dt with
        prb := { s.prb with window := some { w with refUp := some (s.ssu.probeV, s.ssu.probeI) }, output := .referenceDown } })) ∧
    (∀ v i, w.refUp = some (v, i) → reached (s.now.plus dt) (w.start.plus 400) = true →
      let d : Int := i - s.ssu.probeI
      let r : Nat := if d ≤ 0 then 65535 else min 65535 (1000 * ((v : Int) - s.ssu.probeV).natAbs / d.toNat)
      let w' : Window := { w with refDown := some (s.ssu.probeV, s.ssu.probeI), rRef := r }
      (450 ≤ r → r ≤ 550 → exec (.referenceHalfEnd dt) s = .next (State.settle { s.elapse dt with
        prb := { s.prb with window := some { w' with phase := some .transfer }, output := .notDriven } })) ∧
      (r < 450 ∨ 550 < r → s.smu.address ≠ 0 → s.lnc.queue.length < 16 →
        exec (.referenceHalfEnd dt) s = .next (State.settle { s.elapse dt with
          prb := { s.prb with
            window := some { w' with status := some .fault, riso := 65535, phase := some .closing }, output := .released },
          lnc := { s.lnc with
            queue := insertFrame
              { kind := .probeClose, rank := 0, failed := 0, entry := s.lnc.nextEntry, withdrawAsked := false, flagNote := false,
                payload := [BitVec.ofNat 8 w.tag.sequence, 2, BitVec.ofNat 8 w.halvesInjected, 255, 255] } s.lnc.queue,
            nextEntry := s.lnc.nextEntry + 1 } })))

/-- INJECTION_START at 500 ms drives half 1 up. INJECTION_HALF_END at the end of half k keeps the pair of the half and
begins half k + 1 of the other polarity; at the last half the probe is released, R_iso is computed and a PROBE-CLOSE of
status OK with it is queued (R64, R66, R82). -/
def Obligations.InjectionRunsItsHalves : Prop :=
  ∀ (dt : Nat) (s : State) (w : Window), s.started = true → s.prb.role = .injecting → s.prb.window = some w →
    (w.phase = some .transfer → reached (s.now.plus dt) (w.start.plus 500) = true →
      exec (.injectionStart dt) s = .next (State.settle { s.elapse dt with
        prb := { s.prb with
          window := some { w with phase := some .injection, halfCount := 1, halves := w.halves ++ [newHalf (w.start.plus 500) true] },
          output := .up } })) ∧
    (w.phase = some .injection → reached (s.now.plus dt) (w.start.plus (500 + (w.halvesInjected + 1) * w.hp)) = true →
      let k := w.halvesInjected + 1
      let samples := w.samples ++ [(s.ssu.ground.vpg, s.ssu.probeI)]
      let rows := decideLast w.halves (some w.hp) true
      (k < w.np → exec (.injectionHalfEnd dt) s = .next (State.settle { s.elapse dt with
        prb := { s.prb with
          window := some { w with
            samples := samples, halvesInjected := k, halfCount := k + 1,
            halves := rows ++ [newHalf (w.start.plus (500 + k * w.hp)) (decide (k % 2 = 0))] },
          output := if k % 2 = 0 then .up else .down } })) ∧
      (w.np ≤ k → s.smu.address ≠ 0 → s.lnc.queue.length < 16 → ∃ t, exec (.injectionHalfEnd dt) s = .next t ∧
        let r := insulation samples w.rRef
        t.prb = { s.prb with
          window := some { w with
            samples := samples, halvesInjected := k, halves := rows, status := some .ok, riso := r, phase := some .closing },
          output := .released } ∧
        t.lnc = { s.lnc with
          queue := insertFrame
            { kind := .probeClose, rank := 0, failed := 0, entry := s.lnc.nextEntry, withdrawAsked := false, flagNote := false,
              payload := [BitVec.ofNat 8 w.tag.sequence, 1, BitVec.ofNat 8 k, BitVec.ofNat 8 (r / 256), BitVec.ofNat 8 r] }
            s.lnc.queue,
          nextEntry := s.lnc.nextEntry + 1 } ∧
        t.smu = s.smu ∧ t.ssu = s.ssu ∧ t.eve = s.eve ∧ t.sel = s.sel ∧ t.pvw = s.pvw ∧ t.rsl = s.rsl ∧ t.swc.str = s.swc.str))

/-- The flip tracker takes no record before 400 ms; it follows the rest level until a mean lies SHIFT_MIN above its low or below its
high, or ends when none has by 500 + HP/2; after a flip it follows the peak or trough, and SHIFT_MIN back from it is the next
flip, of the other polarity, below NP. A flip decides the half before it by its length, valid in 3/4·HP..5/4·HP, and begins a
row. An interval set adds the residual of each fitted string without SENSOR_FAULT to the last half when it lies in the sample
span. HALF_EXPIRY 5·HP/4 after the start of a listener's half that is not its last ends the tracking with that half invalid.
W_MAX_EXPIRY ends a listener's window without result: a window end seen at that time, with the due timer left as it was
(R72, R78 to R80, R83, R90). -/
def Obligations.ListenerTimeouts : Prop :=
  (∀ (w : Window) (now : Time) (v shift : Nat),
    (now.since w.start < 400 ∨ w.tracker = .ended → w.track now v shift = w) ∧
    (400 ≤ now.since w.start →
      (w.tracker = .waiting → w.track now v shift = { w with tracker := .first, low := v, high := v }) ∧
      (w.tracker = .first →
        (500 + w.hp / 2 < now.since w.start → w.track now v shift = { w with tracker := .ended }) ∧
        (now.since w.start ≤ 500 + w.hp / 2 →
          (w.low + shift ≤ v → w.track now v shift = w.flip now true v) ∧
          (v < w.low + shift → v + shift ≤ w.high → w.track now v shift = w.flip now false v) ∧
          (v < w.low + shift → w.high < v + shift → w.track now v shift = { w with low := min w.low v, high := max w.high v }))) ∧
      (w.tracker = .upHalf →
        (w.extreme < v + shift → w.track now v shift = { w with extreme := max w.extreme v }) ∧
        (v + shift ≤ w.extreme → w.halfCount < w.np → w.track now v shift = w.flip now false v)) ∧
      (w.tracker = .downHalf →
        (v < w.extreme + shift → w.track now v shift = { w with extreme := min w.extreme v }) ∧
        (w.extreme + shift ≤ v → w.halfCount < w.np → w.track now v shift = w.flip now true v)) ∧
      (w.tracker = .upHalf ∨ w.tracker = .downHalf → w.np ≤ w.halfCount →
        (w.track now v shift).halfCount = w.halfCount ∧ (w.track now v shift).halves = w.halves ∧
        (w.track now v shift).tracker = w.tracker))) ∧
  (∀ (w : Window) (now : Time) (up : Bool) (v : Nat),
    let begun := { w with halfCount := w.halfCount + 1, extreme := v, tracker := if up = true then Tracker.upHalf else Tracker.downHalf }
    (w.halves = [] → w.flip now up v = { begun with halves := [newHalf now up] }) ∧
    ∀ (hs : List Half) (h : Half), w.halves = hs ++ [h] → w.flip now up v = { begun with
      halves := hs ++ [{ h with length := some (now.since h.start),
                                valid := some (decide (3 * w.hp ≤ 4 * now.since h.start ∧ 4 * now.since h.start ≤ 5 * w.hp)) },
                       newHalf now up] }) ∧
  (∀ (s : State) (w : Window), s.prb.window = some w →
    (s.prb.role = .listening →
      s.probeInterval.prb.window = some (s.sampleWindow (w.track s.now s.ssu.ground.vpg s.smu.settings.shiftMin))) ∧
    (s.prb.role = .injecting → s.probeInterval.prb.window = some (s.sampleWindow w)) ∧
    (w.halves = [] → s.sampleWindow w = w) ∧
    ∀ (hs : List Half) (h : Half), w.halves = hs ++ [h] →
      (s.now.since h.start < w.settle + 10 ∨ w.hp < s.now.since h.start + 20 → s.sampleWindow w = w) ∧
      (w.settle + 10 ≤ s.now.since h.start → s.now.since h.start + 20 ≤ w.hp →
        ∃ acc, s.sampleWindow w = { w with halves := hs ++ [{ h with acc := acc }] } ∧
        ∀ k : StringNo, acc[k] =
          if k.val < s.smu.strings ∧ s.ssu.str[k].sensorFault = false then
            { sum := h.acc[k].sum + s.ssu.str[k].record.residual, count := h.acc[k].count + 1 }
          else h.acc[k])) ∧
  ∀ (dt : Nat) (s : State) (w : Window), s.started = true → s.prb.role = .listening → s.prb.window = some w →
    (∀ (hs : List Half) (h : Half), w.halves = hs ++ [h] → (w.tracker = .upHalf ∨ w.tracker = .downHalf) → w.halfCount < w.np →
      reached (s.now.plus dt) (h.start.plus (5 * w.hp / 4)) = true →
      exec (.halfExpiry dt) s = .next (State.settle { s.elapse dt with
        prb := { s.prb with
          window := some { w with tracker := .ended, halves := hs ++ [{ h with length := none, valid := some false }] } } })) ∧
    (expired (s.now.plus dt) w.wMaxAt = true → exec (.wMaxExpiry dt) s = .next (State.settle { s.elapse dt with
        prb := if s.smu.address = 0 then
            { s.prb with role := .none, window := none, output := .released, lastEnd := some (s.now.plus dt) }
          else
            { s.prb with role := .none, window := none, output := .released, lastEnd := some (s.now.plus dt),
                         alarmArmed := true, staggerAt := none, alarmCount := 0 } }))

/-- R_raw is the change of voltage over the change of current in kΩ, 65535 when the current does not rise; R_iso scales
it by 500 / R_ref, stays 65535 at the range end, and equals R_raw at a reference of exactly 500. The changes are those from the truncated
means over the used DOWN halves 2, 4, .., NP to those over the used UP halves 3, 5, .., NP − 1; half 1 is not used (R67). -/
def Obligations.InsulationScalesByReference : Prop :=
  (∀ (u d : Int × Int), rawResistance u d ≤ 65535 ∧ (u.2 ≤ d.2 → rawResistance u d = 65535) ∧
    (d.2 < u.2 → (rawResistance u d : Int) ≤ 1000 * |u.1 - d.1| / (u.2 - d.2)) ∧
    (d.2 < u.2 → 1000 * |u.1 - d.1| / (u.2 - d.2) ≤ 65535 → (rawResistance u d : Int) = 1000 * |u.1 - d.1| / (u.2 - d.2))) ∧
  (∀ (xs : List (Nat × Int)) (r : Nat),
    let raw := rawResistance (pairMean (usedSamples xs 1)) (pairMean (usedSamples xs 0))
    insulation xs r ≤ 65535 ∧ (raw = 65535 → insulation xs r = 65535) ∧ insulation xs 500 = raw ∧
    (raw < 65535 → 450 ≤ r → r ≤ 550 → insulation xs r = min 65535 (raw * 500 / r))) ∧
  (∀ (x : Nat × Int) (xs : List (Nat × Int)), insulation (x :: xs) = insulation ((0, 0) :: xs)) ∧
  (∀ (xs : List (Nat × Int)) (np r : Nat), xs.length = np → np % 2 = 0 → 4 ≤ np → 450 ≤ r → r ≤ 550 →
    let half := fun k : Nat => xs.getD (k - 1) (0, 0)
    let ups := (List.range (np / 2 - 1)).map fun j => half (2 * j + 3)
    let downs := (List.range (np / 2)).map fun j => half (2 * j + 2)
    let mean := fun ys : List Int => ys.sum.tdiv ys.length
    let dv := mean (ups.map fun p => (p.1 : Int)) - mean (downs.map fun p => (p.1 : Int))
    let di := mean (ups.map fun p => p.2) - mean (downs.map fun p => p.2)
    let raw := if di ≤ 0 then 65535 else min 65535 (1000 * |dv| / di).toNat
    usedSamples xs 1 = ups ∧ usedSamples xs 0 = downs ∧
    insulation xs r = if raw = 65535 then 65535 else min 65535 (raw * 500 / r))

/-- The response of a string is the mean over its used halves, those after the first that are valid and have a count for it, of their
half values, each the sum by the count, truncated, and negated in a DOWN half; truncated and clamped to 0..2047, and none with fewer
than two used halves. The locate rank of a response is min(255, floor(Q/2)). A window has a result when at least one fitted string has a
response; the best string is then the string of highest L, the lowest number among equals, handed over with its L and Q. The claim
of a ground incident carries the incident's rank. The window report of an OK, undisturbed window with a result clears the
SUSPECT marks of the other strings, and that of a best string below LOC_MIN; from LOC_MIN on it opens a GROUND incident of rank L,
YIELDED to the strongest outranking LOCATE of its window, else CLAIMING with its LOCATE of rank L queued; while a GROUND incident is held it
changes nothing, and during a stop or lockout it opens none (R46, R50, R51, R54, R84 to R86; the marks in that last case are log entry 30). -/
def Obligations.BestStringHasHighestRank : Prop :=
  (∀ q, locateRank q = min 255 (q / 2)) ∧
  (∀ (halves : List Half) (k : StringNo),
    let value := fun h : Half => (h.acc[k].sum).tdiv h.acc[k].count
    let used := (halves.drop 1).filter fun h => decide (h.valid = some true ∧ h.acc[k].count ≠ 0)
    let terms := used.map fun h => if h.up = true then value h else -value h
    (terms.length < 2 → responseOf halves k = none) ∧
    (2 ≤ terms.length → responseOf halves k = some (max 0 (min 2047 (terms.sum.tdiv terms.length))).toNat)) ∧
  (∀ i : Incident, i.kind = .ground → (claimFrame i).rank = i.rank) ∧
  (∀ (s : State) (halves : List Half),
    ((∃ k : StringNo, k.val < s.smu.strings ∧ responseOf halves k ≠ none) ↔ s.bestString halves ≠ none) ∧
    ∀ (k : StringNo) (l q : Nat), s.bestString halves = some (k, l, q) →
      k.val < s.smu.strings ∧ responseOf halves k = some q ∧ l = min 255 (q / 2) ∧
      ∀ (j : StringNo) (p : Nat), j.val < s.smu.strings → responseOf halves j = some p →
        min 255 (p / 2) ≤ l ∧ (j < k → min 255 (p / 2) < l)) ∧
  (∀ (s : State) (r : WindowReport), r.status ≠ some .ok ∨ r.disturbed = true ∨ r.result = none → s.windowReport r = s) ∧
  ∀ (s : State) (r : WindowReport) (k : StringNo) (l q : Nat), r.status = some .ok → r.disturbed = false → r.result = some (k, l, q) →
    let clear : PerString Bool := Vector.replicate 12 false
    let marked := { s.sel with suspect := clear.set k.val s.sel.suspect[k] }
    let i : Incident :=
      { kind := .ground, string := k, rank := l, round := 0, onset := s.now, decision := s.now.plus 200, tag := some r.tag,
        response := some q, riso := some r.riso, state := .claiming, claim := .none, beatenBy := none }
    let beats := fun e : ClaimEntry => e.kind = .locate ∧ e.tag = some r.tag ∧ (l < e.rank ∨ (e.rank = l ∧ e.source < s.smu.address))
    (l < s.smu.settings.locMin → s.windowReport r = { s with sel := { s.sel with suspect := clear } }) ∧
    (s.smu.settings.locMin ≤ l → s.sel.ground ≠ none → s.windowReport r = s) ∧
    (s.smu.settings.locMin ≤ l → s.sel.ground = none → s.pvw.stopSet ≠ [] ∨ s.rsl.lockKey.accepted = true →
      s.windowReport r = { s with sel := marked }) ∧
    (s.smu.settings.locMin ≤ l → s.sel.ground = none → s.pvw.stopSet = [] → s.rsl.lockKey.accepted = false →
      ((∃ e ∈ s.sel.claimLog, beats e) → ∃ b ∈ s.sel.claimLog, beats b ∧
        (∀ e ∈ s.sel.claimLog, beats e → outranks e.rank e.source b.rank b.source = false) ∧
        s.windowReport r = { s with
          sel := { marked with
            ground := some { i with state := .yielded, beatenBy := some { source := b.source, rank := b.rank } } } }) ∧
      ((∀ e ∈ s.sel.claimLog, ¬beats e) →
        (s.smu.address = 0 → s.windowReport r = { s with sel := { marked with ground := some i } }) ∧
        (s.smu.address ≠ 0 → s.queuedOf .locate = none → s.lnc.queue.length < 16 → s.windowReport r = { s with
          sel := { marked with ground := some { i with claim := .queued } },
          lnc := { s.lnc with
            queue := insertFrame
              { kind := .locate, rank := l, failed := 0, entry := s.lnc.nextEntry, withdrawAsked := false, flagNote := false,
                payload := [BitVec.ofNat 8 r.tag.injector, BitVec.ofNat 8 r.tag.sequence, BitVec.ofNat 8 (k.val + 1),
                            BitVec.ofNat 8 (q / 256), BitVec.ofNat 8 q] } s.lnc.queue,
            nextEntry := s.lnc.nextEntry + 1 } }) ∧
        (s.smu.address ≠ 0 → 16 ≤ s.lnc.queue.length → (∀ f ∈ s.lnc.queue, f.kind ≠ .status ∧ f.kind ≠ .answer) →
          s.windowReport r = { s with sel := { marked with ground := some { i with claim := .dropped } } })))

/-! ### The peer line (chapters 5, 6 and 10) -/

/-- CHARACTER_TAKEN: in SYNC nothing is taken; a dominant stop bit counts an error and goes to SYNC; a character with the
mark set starts a frame; in FRAME an unmarked character is appended, a fourth one that announces more than 16 is an error,
and the last check character makes the frame complete. CHARACTER_GAP_EXPIRY inside a frame counts an error and goes to READY.
A suspended count does not move (R99, R100, R111). -/
def Obligations.CharactersAssembleFrames : Prop :=
  ∀ (dt : Nat) (c : Byte) (mark stop : Level) (s : State), s.started = true → s.lnc.breakEndAt = none → s.lnc.line ≠ .stuck →
    let errors := if s.lnc.suspended = true then s.lnc.errors else min 255 (s.lnc.errors + 1)
    let run := exec (.characterTaken dt c mark stop) s
    let after := fun l : Lnc => (Host.Outcome.next (State.settle { s.elapse dt with lnc := l }) : Host.Outcome State Fault Refusal)
    let xs := s.lnc.rxChars ++ [c]
    (s.lnc.rx = .sync → run = after s.lnc) ∧
    (s.lnc.rx ≠ .sync → stop = .dominant → run = after { s.lnc with errors := errors, rx := .sync, rxChars := [] }) ∧
    (s.lnc.rx ≠ .sync → stop = .recessive → mark = .recessive → run = after { s.lnc with rx := .frame, rxChars := [c] }) ∧
    (s.lnc.rx = .ready → stop = .recessive → mark = .dominant → run = after s.lnc) ∧
    (s.lnc.rx = .frame → stop = .recessive → mark = .dominant →
      (xs.length = 4 → 16 < c.toNat → run = after { s.lnc with errors := errors, rx := .sync, rxChars := [] }) ∧
      (4 ≤ xs.length → xs.length = (xs.getD 3 0).toNat + 6 →
        run = after { s.lnc with rx := .ready, rxChars := [], rxDone := some xs }) ∧
      (xs.length < 4 ∨ (xs.length = 4 ∧ c.toNat ≤ 16) ∨ (4 < xs.length ∧ xs.length ≠ (xs.getD 3 0).toNat + 6) →
        run = after { s.lnc with rxChars := xs })) ∧
    (s.lnc.rx = .frame → s.lnc.sending = none →
      exec (.characterGapExpiry dt) s = after { s.lnc with errors := errors, rx := .ready, rxChars := [] }) ∧
    (s.lnc.rx ≠ .frame → exec (.characterGapExpiry dt) s = after s.lnc)

/-- A frame of any kind, rank, source and payload sent character by character reads back as it was, with its kind code that of the
table of 10.2, the code of that kind alone. Its characters are code, 255 − rank, source, length and payload, then the register of R188 over their bits,
high then low, and with any other check pair it is a check error. It is sent as 11 levels a character, back to back: a dominant start bit, the data bits most significant first, the mark bit, recessive in
the first character only, and a recessive stop bit. A code that it carries for an ISOLATED cause or a PROBE-CLOSE status is that of 10.3
(10.1 to 10.3, R95 to R97, R101, R188). -/
def Obligations.FramesReadBackAsSent : Prop :=
  ∀ (k : Kind) (rank source : Nat) (payload : List Byte), rank ≤ 255 → source ≤ 255 → payload.length ≤ 16 →
    let xs := frameChars k rank source payload
    let shift := fun (r : Nat) (b : Bool) =>
      if decide (32768 ≤ r) = b then 2 * r % 65536 else Nat.xor (2 * r % 65536) 0x1021
    let bits := (xs.take (payload.length + 4)).flatMap fun c => (List.range 8).map fun i => c.getLsbD (7 - i)
    let check := bits.foldl shift 65535
    k.code = (match k with
      | .arrayStop => 0x02
      | .arrayResume => 0x04
      | .arcClaim => 0x10
      | .isolated => 0x14
      | .locate => 0x18
      | .probeOpen => 0x20
      | .probeClose => 0x22
      | .service => 0x30
      | .answer => 0x34
      | .status => 0x40) ∧
    xs = [BitVec.ofNat 8 k.code, BitVec.ofNat 8 (255 - rank), BitVec.ofNat 8 source, BitVec.ofNat 8 payload.length] ++ payload ++
      [BitVec.ofNat 8 (check / 256), BitVec.ofNat 8 check] ∧
    xs.length = payload.length + 6 ∧ (xs.getD 3 0).toNat = payload.length ∧
    parseFrame xs = some { code := k.code, rank := rank, source := source, payload := payload } ∧
    (∀ j : Kind, Kind.ofCode k.code = some j ↔ j = k) ∧
    (∀ (n : Nat) (c : IsoCause), IsoCause.ofCode n = some c ↔ n = match c with
      | .arc => 1
      | .ground => 2
      | .reverse => 3
      | .overcurrent => 4
      | .service => 5) ∧
    (∀ (n : Nat) (w : WindowStatus), WindowStatus.ofCode n = some w ↔ n = match w with
      | .ok => 1
      | .fault => 2
      | .aborted => 3
      | .disturbed => 4) ∧
    (∀ h l : Byte, parseFrame (xs.take (payload.length + 4) ++ [h, l]) ≠ none →
      xs.take (payload.length + 4) ++ [h, l] = xs) ∧
    (frameLevels xs).length = 11 * (payload.length + 6) ∧
    ∀ i, i < payload.length + 6 →
      (frameLevels xs)[11 * i]? = some .dominant ∧
      (∀ b, b < 8 → (frameLevels xs)[11 * i + 1 + b]? =
        some (if (xs.getD i 0).getLsbD (7 - b) = true then .recessive else .dominant)) ∧
      (frameLevels xs)[11 * i + 9]? = some (if i = 0 then .recessive else .dominant) ∧
      (frameLevels xs)[11 * i + 10]? = some .recessive

/-- FRAME_COMPLETION: the echo of the own attempt is passed over; a check error is counted; a source 0 or above 31 is
discarded; the own address is an address conflict; any other good frame is heard, makes DOWN UP, and reaches the owner of its
kind only when its kind is known and its form passes the table of R189: the lengths, the ISOLATED cause and the injector of a GROUND
one, the injector and Q of a LOCATE, the status of a PROBE-CLOSE, the address, mask, operation and QUERY string of a SERVICE, and the
line state and entries of a STATUS. An ANSWER has no owner and changes nothing more (R101, R102, R122, R189; that a frame taken whole
before the own break is judged during its drive too, with an own echo as an address conflict, is the model's choice, log entry 46). -/
def Obligations.FrameCompletionSortsFrames : Prop :=
  (∀ (s : State) (f : Received), s.deliver .answer f = s) ∧
  ∀ (dt : Nat) (s : State) (xs : List Byte), s.started = true → s.lnc.rxDone = some xs →
    (s.lnc.sending ≠ none → exec (.frameCompletion dt) s =
      .next (State.settle { s.elapse dt with lnc := { s.lnc with rxDone := none } })) ∧
    (s.lnc.sending = none → parseFrame xs = none → exec (.frameCompletion dt) s =
      .next (State.settle { s.elapse dt with lnc := { s.lnc with
        rxDone := none, errors := if s.lnc.suspended = true then s.lnc.errors else min 255 (s.lnc.errors + 1) } })) ∧
    (∀ f, s.lnc.sending = none → parseFrame xs = some f →
      (f.source = 0 ∨ 31 < f.source → exec (.frameCompletion dt) s =
        .next (State.settle { s.elapse dt with lnc := { s.lnc with rxDone := none } })) ∧
      (f.source ≠ 0 → f.source ≤ 31 → f.source = s.smu.address → exec (.frameCompletion dt) s =
        .next (State.settle { s.elapse dt with lnc := { s.lnc with rxDone := none, conflict := true } })) ∧
      (∀ p : PeerNo, f.source = p.val + 1 → f.source ≠ s.smu.address →
        let u : State := { s.elapse dt with
          pvw := { s.pvw with peers := s.pvw.peers.set p.val { presence := .present, lastHeard := some (s.now.plus dt) } },
          lnc := { s.lnc with
            rxDone := none, lastGood := some (s.now.plus dt), line := if s.lnc.line = .down then .up else s.lnc.line,
            cleanRun := if s.lnc.line = .down then 0 else s.lnc.cleanRun } }
        (Kind.ofCode f.code = none → exec (.frameCompletion dt) s = .next u.settle) ∧
        (∀ k, Kind.ofCode f.code = some k → FormFails k f.payload ∨ k = .answer → exec (.frameCompletion dt) s = .next u.settle) ∧
        (∀ k, Kind.ofCode f.code = some k → ¬FormFails k f.payload →
          exec (.frameCompletion dt) s = .next (u.deliver k f).settle)))

/-- A delivered ARRAY-STOP puts its source into the Stop Set, gives every fitted string a STOP hold by its state: a CLOSED one opens, an
OPENING one goes on, a waiting CLOSE is taken back, a CLOSE held by the engine goes on, an OPEN or STUCK one keeps its state. It closes
all incidents and ends the station's part in a window: a listener abandons it, a PENDING station withdraws its PROBE-OPEN, an injector
ends it as ABORTED; an ARRAY-RESUME, or a STATUS with the stop-key flag clear, takes the source out, and when the set becomes empty
the STOP tied to it is released on every fitted string, and an OPEN string held by nothing else closes; from a source that is not in the
set neither changes anything (R46, R62, R68, R91, R124 to R127, R140, R171; that a withdrawn due trigger is left not pending is log entry 16). -/
def Obligations.StopFramesMoveTheStopSet : Prop :=
  ∀ (s : State) (f : Received),
    (let t := s.deliver .arrayStop f;
      f.source ∈ t.pvw.stopSet ∧ (∀ a, a ≠ f.source → (a ∈ t.pvw.stopSet ↔ a ∈ s.pvw.stopSet)) ∧
      t.sel.arc = none ∧ t.sel.ground = none ∧ t.ssu = s.ssu ∧ t.eve = s.eve ∧ t.smu.mem = s.smu.mem ∧
      (QueueSound s.lnc → ProbePartEnds s t) ∧ HoldTakenByAll s t (fun h => { h with stop := some .tied }) .stop) ∧
    (∀ kind, (kind = .arrayResume ∨ (kind = .status ∧ (f.payload.getD 1 0).getLsbD 7 = false)) → let t := s.deliver kind f
      (f.source ∉ s.pvw.stopSet → t = s) ∧
      (f.source ∈ s.pvw.stopSet → t.pvw.stopSet = s.pvw.stopSet.filter (fun b => b != f.source) ∧ t.sel = s.sel ∧
        t.prb = s.prb ∧ t.lnc = s.lnc ∧ t.ssu = s.ssu ∧ t.eve = s.eve ∧ t.smu.mem = s.smu.mem ∧
        ((∃ a ∈ s.pvw.stopSet, a ≠ f.source) → t.swc = s.swc) ∧
        ((∀ a ∈ s.pvw.stopSet, a = f.source) → ∀ k : StringNo, k.val < s.smu.strings →
          (t.string k).holds = { (s.string k).holds with
            stop := if (s.string k).holds.stop = some .tied then none else (s.string k).holds.stop } ∧
          (t.string k).state = if (s.string k).state = .opened ∧ (s.string k).holds.stop = some .tied ∧
              (t.string k).holds.isEmpty = true then .closing else (s.string k).state))) ∧
    ((f.payload.getD 1 0).getLsbD 7 = true → s.deliver .status f = s)

/-- A delivered ARC-CLAIM, ISOLATED or LOCATE is entered in the Claim Log at its arrival: in the place of the entry of its source and
kind, else behind the others, an entry of earliest arrival leaving a log of 16 first. An ARC-CLAIM, or an ISOLATED of cause ARC (but
for the earlier winner's in a later round), is then compared with the ARC incident, a LOCATE of its window with the GROUND incident: a
CLAIMING incident that it outranks becomes YIELDED, unless forced, and its queued claim is withdrawn, or asked for while an attempt is in
progress; a YIELDED ARC incident takes it as beaten-by when it outranks the one recorded; else the incident stays, as a DECIDED one
does. An ISOLATED of cause ARC that does not outrank the recent decision, or of rank 255 in a forced round, sets the concurrent isolation
flag, also for the STATUS frames built before; no other delivery of these moves the flag (R26 to R30, R35 to R37, R42, R43, R48, R49). -/
def Obligations.ClaimFramesAreLoggedAndCompared : Prop :=
  ∀ (s : State) (f : Received) (kind : Kind) (e : ClaimEntry),
    let cause := IsoCause.ofCode (f.payload.getD 1 0).toNat
    let tag : Tag := { injector := (f.payload.getD 0 0).toNat, sequence := (f.payload.getD 1 0).toNat }
    (kind = .arcClaim ∧ e = { kind := .arcClaim, source := f.source, rank := f.rank, cause := none, tag := none, arrival := s.now }) ∨
    (kind = .isolated ∧ e = { kind := .isolated, source := f.source, rank := f.rank, cause := cause, tag := none, arrival := s.now }) ∨
    (kind = .locate ∧ e = { kind := .locate, source := f.source, rank := f.rank, cause := none, tag := some tag, arrival := s.now }) →
    let t := s.deliver kind f
    let log := s.sel.claimLog
    let isSame := fun x : ClaimEntry => x.source = e.source ∧ x.kind = e.kind
    let beats := fun rank source : Nat => rank < f.rank ∨ (f.rank = rank ∧ f.source < source)
    let concurrent := kind = .isolated ∧ cause = some .arc ∧
      ((∃ r d, s.sel.recent = some (r, d) ∧ ¬beats r s.smu.address) ∨
        ∃ i, s.sel.arc = some i ∧ i.kind = .arc ∧ i.round = s.smu.settings.arcRounds ∧ f.rank = 255)
    let quiet := kind ≠ .isolated ∨ (s.prb.role ≠ .injecting ∧ ¬concurrent)
    let kept := fun (i : Incident) (u : Option Incident) => u = some i ∧ (quiet → t.lnc = s.lnc)
    let yields := fun (i : Incident) (claim : Kind) (u : Option Incident) =>
      let y : Incident := { i with state := .yielded, beatenBy := some { source := f.source, rank := f.rank } }
      (i.claim ≠ .queued ∨ s.queuedOf claim = none → kept y u) ∧
      ∀ g, i.claim = .queued → s.queuedOf claim = some g →
        (s.lnc.sending ≠ some g.entry → u = some { y with claim := .withdrawn } ∧
          (quiet → t.lnc = { s.lnc with queue := s.lnc.queue.filter fun h => h.entry != g.entry })) ∧
        (s.lnc.sending = some g.entry → u = some y ∧ (quiet → t.lnc = { s.lnc with
          queue := s.lnc.queue.map fun h => if h.entry = g.entry then { h with withdrawAsked := true } else h }))
    ((∃ x ∈ log, isSame x) →
      t.sel.claimLog = log.map fun x => if x.source = e.source ∧ x.kind = e.kind then e else x) ∧
    ((∀ x ∈ log, ¬isSame x) → log.length < 16 → t.sel.claimLog = log ++ [e]) ∧
    ((∀ x ∈ log, ¬isSame x) → 16 ≤ log.length → ∃ old ∈ log, (∀ x ∈ log, s.now.since x.arrival ≤ s.now.since old.arrival) ∧
      t.sel.claimLog = (log.filter fun x => decide (¬(x.source = old.source ∧ x.kind = old.kind))) ++ [e]) ∧
    (concurrent → t.sel.concurrent = true ∧ ∀ g ∈ t.lnc.queue, g.flagNote = false) ∧
    (¬concurrent → t.sel.concurrent = s.sel.concurrent) ∧
    t.sel.recent = s.sel.recent ∧ t.sel.suspect = s.sel.suspect ∧ t.swc = s.swc ∧ t.smu = s.smu ∧ t.eve = s.eve ∧ t.pvw = s.pvw ∧
    (kind ≠ .isolated → t.prb = s.prb) ∧
    (kind = .locate → t.sel.arc = s.sel.arc ∧
      (s.sel.ground = none → t.sel.ground = none ∧ t.lnc = s.lnc) ∧
      ∀ i, s.sel.ground = some i → i.kind = .ground →
        (i.state = .claiming → i.tag = some tag → beats i.rank s.smu.address → yields i .locate t.sel.ground) ∧
        (i.state ≠ .claiming ∨ i.tag ≠ some tag ∨ ¬beats i.rank s.smu.address → kept i t.sel.ground)) ∧
    (kind ≠ .locate → t.sel.ground = s.sel.ground ∧
      (s.sel.arc = none → t.sel.arc = none ∧ (quiet → t.lnc = s.lnc)) ∧
      ∀ i, s.sel.arc = some i → i.kind = .arc →
        let relevant := kind = .arcClaim ∨
          (cause = some .arc ∧ ¬(1 < i.round ∧ ∃ b, i.beatenBy = some b ∧ b.source = f.source))
        (¬relevant ∨ i.state = .decided → kept i t.sel.arc) ∧
        (relevant → i.state = .claiming →
          (beats i.rank s.smu.address → i.round ≠ s.smu.settings.arcRounds → yields i .arcClaim t.sel.arc) ∧
          (¬beats i.rank s.smu.address ∨ i.round = s.smu.settings.arcRounds → kept i t.sel.arc)) ∧
        (∀ b, relevant → i.state = .yielded → i.beatenBy = some b →
          (beats b.rank b.source → kept { i with beatenBy := some { source := f.source, rank := f.rank } } t.sel.arc) ∧
          (¬beats b.rank b.source → kept i t.sel.arc)))

/-- PROBE-OPEN. At role NONE it makes the station a listener of its window, with the parameters clamped and marked unusable when
outside the limits, unless the array is stopped or locked out; at PENDING the station first withdraws its own; at LISTENING it
changes nothing; an injector not yet closing ends with status DISTURBED, its window lost when the queue takes no frame. A delivered
ISOLATED marks a listener's window and one that its injector has closed as disturbed, and ends an injection as DISTURBED. PROBE-CLOSE is a window end seen in every role: PROBE_GAP
and the due timer run anew, and an OK one gives the last R_iso. At a listener it also ends the window: one of another tag
without status and result, one of its tag with a report of that status, with a result when it was OK, usable, undisturbed and of NP
halves, half NP being decided by it; such a window with R_iso of at least GF_TRIP replaces the balance reference by its capture, every other
keeps it, but for one left open: an OK and undisturbed one of such an R_iso that is unusable or has other halves, where R73 and R92 differ
(R50, R55, R60, R62, R63, R68 to R70, R72, R73, R75, R76, R81, R87 to R89, R92; that a withdrawn due trigger is left not pending is log
entry 16, that the reference after that last one is free is log entry 29, that at an ISOLATED the SEL acts before the PRB, so that a
claim it withdraws frees its place for the PROBE-CLOSE, is log entry 45). -/
def Obligations.ProbeFramesOpenAndEndWindows : Prop :=
  ∀ (s : State) (f : Received),
    let opened := s.deliver .probeOpen f
    let ended := s.deliver .probeClose f
    let entered := fun w : Window =>
      let hp := (f.payload.getD 1 0).toNat * 100
      let np := (f.payload.getD 2 0).toNat
      let settle := (f.payload.getD 3 0).toNat * 10
      w.tag = { injector := f.source, sequence := (f.payload.getD 0 0).toNat } ∧ w.start = s.now ∧
        w.hp = max 200 (min 2000 hp) ∧ w.np = max 4 (min 16 np) / 2 * 2 ∧ w.settle = min (max 50 (min 1000 settle)) (w.hp / 2) ∧
        50 ≤ w.settle ∧ w.disturbed = false ∧ w.tracker = .waiting ∧ w.halfCount = 0 ∧ w.halves = [] ∧
        w.capture = (if s.prb.balances = [] then 500 else s.prb.balances.sum / s.prb.balances.length) ∧
        w.wMaxAt = some (s.now.plus (500 + w.np * w.hp + 1000)) ∧
        (w.usable = true ↔ 200 ≤ hp ∧ hp ≤ 2000 ∧ 4 ≤ np ∧ np ≤ 16 ∧ np % 2 = 0 ∧ 50 ≤ settle ∧ settle ≤ 1000 ∧ settle ≤ hp / 2) ∧
        (w.usable = true → w.hp = hp ∧ w.np = np ∧ w.settle = settle)
    (s.prb.role = .none →
      (s.pvw.stopSet = [] → s.rsl.lockKey.accepted = false → ∃ w, entered w ∧
        opened = { s with prb := { s.prb with role := .listening, window := some w, alarmCount := 0 } }) ∧
      (s.pvw.stopSet ≠ [] ∨ s.rsl.lockKey.accepted = true → opened = s)) ∧
    (∀ g, s.prb.role = .pending → s.queuedOf .probeOpen = some g → s.lnc.sending ≠ some g.entry → ∃ w, entered w ∧
      opened = { s with
        prb := { s.prb with role := .listening, window := some w, byDue := false, alarmCount := 0 },
        lnc := { s.lnc with queue := s.lnc.queue.filter fun h => h.entry != g.entry } }) ∧
    (s.prb.role = .listening → opened = s) ∧
    (∀ w, s.prb.role = .injecting → s.prb.window = some w →
      (w.phase = some .closing → opened = s) ∧
      (w.phase ≠ some .closing → s.smu.address ≠ 0 → s.lnc.queue.length < 16 → opened = { s with
        prb := { s.prb with
          output := .released,
          window := some { w with disturbed := true, status := some .disturbed, riso := 65535, phase := some .closing } },
        lnc := { s.lnc with
          queue := insertFrame
            { kind := .probeClose, rank := 0, failed := 0, entry := s.lnc.nextEntry, withdrawAsked := false, flagNote := false,
              payload := [BitVec.ofNat 8 w.tag.sequence, 4, BitVec.ofNat 8 w.halvesInjected, 255, 255] } s.lnc.queue,
          nextEntry := s.lnc.nextEntry + 1 } }) ∧
      (w.phase ≠ some .closing → s.smu.address ≠ 0 → 16 ≤ s.lnc.queue.length →
        (∀ g ∈ s.lnc.queue, g.kind ≠ .status ∧ g.kind ≠ .answer) → opened = { s with
          prb := { s.prb with role := .none, window := none, output := .released, lastEnd := some s.now,
                              alarmArmed := true, staggerAt := none, alarmCount := 0 } })) ∧
    (let disturbed := s.deliver .isolated f;
      (s.prb.role = .none ∨ s.prb.role = .pending → disturbed.prb = s.prb) ∧
      (∀ w, s.prb.role = .listening → s.prb.window = some w →
        disturbed.prb = { s.prb with window := some { w with disturbed := true } }) ∧
      ∀ w, s.prb.role = .injecting → s.prb.window = some w →
        (w.phase = some .closing → w.status ≠ none → disturbed.prb = { s.prb with window := some { w with disturbed := true } }) ∧
        (w.phase ≠ some .closing → s.smu.address ≠ 0 → s.lnc.queue.length < 16 →
          disturbed.prb = { s.prb with
            output := .released,
            window := some { w with disturbed := true, status := some .disturbed, riso := 65535, phase := some .closing } } ∧
          ∃ g ∈ disturbed.lnc.queue, g.kind = .probeClose ∧ g.rank = 0 ∧ g.entry = s.lnc.nextEntry ∧
            g.payload = [BitVec.ofNat 8 w.tag.sequence, 4, BitVec.ofNat 8 w.halvesInjected, 255, 255])) ∧
    (∀ st, WindowStatus.ofCode (f.payload.getD 1 0).toNat = some st →
      let riso := 256 * (f.payload.getD 3 0).toNat + (f.payload.getD 4 0).toNat
      let heard : Prb := { s.prb with lastEnd := some s.now, lastRiso := if st = .ok then riso else s.prb.lastRiso }
      let seen : Prb := if s.smu.address = 0 then heard else { heard with
        alarmArmed := true, staggerAt := none, alarmCount := 0, duePending := false, retryAt := none,
        dueAt := some (s.now.plus (s.smu.settings.probePeriod * 60000 + s.smu.address * 10000)) }
      let gone : Prb := { seen with role := .none, window := none, output := .released }
      (s.prb.role ≠ .listening → ended = { s with prb := seen }) ∧
      (∀ w, s.prb.role = .listening → s.prb.window = some w →
        (w.tag ≠ { injector := f.source, sequence := (f.payload.getD 0 0).toNat } → ended = { s with prb := gone }) ∧
        (w.tag = { injector := f.source, sequence := (f.payload.getD 0 0).toNat } →
          let last := decide (st = .ok ∧ w.halfCount = w.np ∧ (w.tracker = .upHalf ∨ w.tracker = .downHalf))
          let rows := match w.halves.getLast? with
            | none => []
            | some h => if h.valid = none then w.halves.dropLast ++ [{ h with length := none, valid := some last }] else w.halves
          let good := st = .ok ∧ w.usable = true ∧ w.disturbed = false ∧ (f.payload.getD 2 0).toNat = w.np
          ended = { s.windowReport { tag := w.tag, status := some st, disturbed := w.disturbed, riso := riso,
                                     result := if good then s.bestString rows else none } with
            prb := { gone with balRef := if good ∧ s.smu.settings.gfTrip ≤ riso then w.capture
                else if st = .ok ∧ w.disturbed = false ∧ s.smu.settings.gfTrip ≤ riso ∧
                  Config.takesCapture w.usable ((f.payload.getD 2 0).toNat == w.np) = true then w.capture
                else s.prb.balRef } })))

/-- IDLE_GAP lets the receiver leave SYNC and begins an attempt of the first frame in queue order, whose characters and check
under the own address it then puts on the line; in the listen period only
a stop frame is offered, and in STUCK or during the own break nothing happens. LINE_FREED ends STUCK, in DOWN or in LISTEN,
with the receiver READY (R96 to R99, R106, R116, R188; log entries 11 and 31). -/
def Obligations.IdleLineBeginsAttempts : Prop :=
  ∀ (dt : Nat) (s : State), s.started = true → s.lnc.sending = none →
    (s.lnc.breakEndAt = none → s.lnc.line ≠ .stuck →
      (∀ f q, s.lnc.queue = f :: q → s.smu.phase = .running ∨ f.kind = .arrayStop ∨ f.kind = .arrayResume →
        exec (.idleGap dt) s = .next (State.settle { s.elapse dt with
          lnc := { s.lnc with
            sending := some f.entry, tx := frameLevels (frameChars f.kind f.rank s.smu.address f.payload), rx := .frame, rxChars := [],
            ownRun := false, dominantRun := 0 } })) ∧
      ((s.lnc.queue = [] ∨ ∃ f q, s.lnc.queue = f :: q ∧ s.smu.phase = .listening ∧ f.kind ≠ .arrayStop ∧ f.kind ≠ .arrayResume) →
        exec (.idleGap dt) s = .next (State.settle { s.elapse dt with
          lnc := { s.lnc with rx := if s.lnc.rx = .sync then .ready else s.lnc.rx, ownRun := false, dominantRun := 0 } }))) ∧
    (s.lnc.breakEndAt ≠ none ∨ s.lnc.line = .stuck → exec (.idleGap dt) s = .next (s.elapse dt).settle) ∧
    (s.lnc.line = .stuck →
      let l : Lnc := { s.lnc with
        line := if s.smu.phase = .listening then .listen else .down, rx := .ready, rxChars := [], dominantRun := 0, ownRun := false }
      (s.lnc.queue = [] → exec (.lineFreed dt) s = .next (State.settle { s.elapse dt with lnc := l })) ∧
      (∀ f q, s.lnc.queue = f :: q → s.smu.phase = .running →
        exec (.lineFreed dt) s = .next (State.settle { s.elapse dt with lnc := { l with
          sending := some f.entry, tx := frameLevels (frameChars f.kind f.rank s.smu.address f.payload), rx := .frame } }))) ∧
    (s.lnc.line ≠ .stuck → exec (.lineFreed dt) s = .next (s.elapse dt).settle)

/-- How attempts end, by the bits read back: a first difference that is a recessive bit read dominant within the data bits of characters
1 to 3 is a loss, any other a bit error, none completes; a command that the bits do not bear out lets time pass only. An end leaves no
level of the station on the line. ARBITRATION_LOSS leaves the frame queued and uncounted. BIT_ERROR counts an error and a failed
attempt, and at the third drops the frame; one that a break causes counts no failed attempt. TRANSMIT_COMPLETED takes the frame from
the queue: the incident of an ARC-CLAIM or LOCATE becomes SENT, a STATUS into which the concurrent isolation flag was taken clears it,
a PROBE-OPEN makes the station the injector in its reference phase, and a PROBE-CLOSE ends the injector's window, with the window
report, the window end seen, the probe fault latch and the balance reference. A dropped claim is DROPPED, a dropped PROBE-OPEN gives
role NONE, its due trigger pending again, and a dropped PROBE-CLOSE loses the window. A withdrawal asked meanwhile is made at the end
of an attempt lost or failed for the first or second time: the claim of the incident is WITHDRAWN, a PENDING station has role NONE, an
injector's window is lost; a PROBE-OPEN that completes all the same ends its window at once as ABORTED, or as lost in STUCK. A pending
STATUS replaces the STATUS whose attempt was lost or failed, and enters as a new frame after one that completed or was dropped (R34,
R35, R49, R62, R64, R70 to R73, R96, R105, R107 to R110, R120; that a command brings the bits read back is log entry 31, that it tells
whether a break causes the error is log entry 9, that a lost PROBE-CLOSE sets no latch is log entry 15, the trigger after a lost or
withdrawn PROBE-OPEN is log entry 16, a withdrawal at a loss that a break causes is log entry 42, that the line state at the
completion tells an abort by STUCK is log entry 43). -/
def Obligations.AttemptsEndAsReported : Prop :=
  ∀ (dt : Nat) (read : List Level) (s : State), s.started = true →
  let lost := LosesArbitration s.lnc.tx read
  let failed := ReadsBitError s.lnc.tx read
  let sent := ReadAsSent s.lnc.tx read
  let loss := exec (.arbitrationLoss { dt := dt, read := read }) s
  let error := fun byBreak => exec (.bitError { dt := dt, read := read } byBreak) s
  let completed := exec (.transmitCompleted { dt := dt, read := read }) s
  (¬lost ∨ s.sendingFrame = none → loss = .next (s.elapse dt).settle) ∧
  (¬failed ∨ s.sendingFrame = none → ∀ byBreak, error byBreak = .next (s.elapse dt).settle) ∧
  (¬sent ∨ s.sendingFrame = none → completed = .next (s.elapse dt).settle) ∧
  (∀ f p : QueuedFrame, s.sendingFrame = some f → s.lnc.pendingStatus = some p → f.kind = .status → f.withdrawAsked = false →
    let errors := if s.lnc.suspended = true then s.lnc.errors else min 255 (s.lnc.errors + 1)
    let left := s.lnc.queue.filter fun g => g.entry != f.entry
    let l : Lnc := { s.lnc with
      sending := none, tx := [], pendingStatus := none, queue := insertFrame { p with entry := s.lnc.nextEntry } left,
      nextEntry := s.lnc.nextEntry + 1 }
    (lost → loss = .next (State.settle { s.elapse dt with lnc := l })) ∧
    (failed → f.failed < 2 ∨ left.length < 16 → error false =
      .next (State.settle { s.elapse dt with lnc := { l with errors := errors, rx := .sync, rxChars := [] } })) ∧
    (failed → error true = .next (State.settle { s.elapse dt with
      lnc := { s.lnc with errors := errors, sending := none, tx := [], rx := .sync, rxChars := [] } })) ∧
    (sent → left.length < 16 → completed = .next (State.settle { s.elapse dt with
      lnc := { l with rx := .ready, rxChars := [], rxDone := none },
      sel := { s.sel with concurrent := if f.flagNote = true then false else s.sel.concurrent } }))) ∧
  ∀ f : QueuedFrame, s.sendingFrame = some f → s.lnc.pendingStatus = none →
    let now := s.now.plus dt
    let errors := if s.lnc.suspended = true then s.lnc.errors else min 255 (s.lnc.errors + 1)
    let left := s.lnc.queue.filter fun g => g.entry != f.entry
    let ended : Prb := { s.prb with role := .none, window := none, output := .released, lastEnd := some now }
    let windowLost : Prb := if s.smu.address = 0 then ended else { ended with alarmArmed := true, staggerAt := none, alarmCount := 0 }
    (f.withdrawAsked = false →
      (lost → loss = .next (State.settle { s.elapse dt with lnc := { s.lnc with sending := none, tx := [] } })) ∧
      (failed → f.failed < 2 → error false = .next (State.settle { s.elapse dt with
        lnc := { s.lnc with
          errors := errors, sending := none, tx := [], rx := .sync, rxChars := [],
          queue := s.lnc.queue.map fun g => if g.entry = f.entry then { g with failed := g.failed + 1 } else g } }))) ∧
    (let withdrawn := fun (run : Host.Outcome State Fault Refusal) (l : Lnc) =>
        (∀ i, f.kind = .arcClaim → s.sel.arc = some i → run = .next (State.settle { s.elapse dt with
          lnc := l, sel := { s.sel with arc := some { i with claim := if i.claim = .queued then .withdrawn else i.claim } } })) ∧
        (∀ i, f.kind = .locate → s.sel.ground = some i → run = .next (State.settle { s.elapse dt with
          lnc := l, sel := { s.sel with ground := some { i with claim := if i.claim = .queued then .withdrawn else i.claim } } })) ∧
        (f.kind = .probeOpen → s.prb.role = .pending → run = .next (State.settle { s.elapse dt with
          lnc := l, prb := { s.prb with role := .none, byDue := false } })) ∧
        (f.kind = .probeClose → s.prb.role = .injecting → s.prb.window ≠ none → run = .next (State.settle { s.elapse dt with
          lnc := l, prb := windowLost })) ∧
        ((f.kind = .arcClaim ∧ s.sel.arc = none) ∨ (f.kind = .locate ∧ s.sel.ground = none) ∨
          (f.kind = .probeOpen ∧ s.prb.role ≠ .pending) ∨ (f.kind = .probeClose ∧ s.prb.role ≠ .injecting) →
            run = .next (State.settle { s.elapse dt with lnc := l }));
      let l : Lnc := { s.lnc with sending := none, tx := [], queue := left };
      f.withdrawAsked = true → (lost → withdrawn loss l) ∧
        (failed → f.failed < 2 → withdrawn (error false) { l with errors := errors, rx := .sync, rxChars := [] })) ∧
    (failed → error true = .next (State.settle { s.elapse dt with
      lnc := { s.lnc with errors := errors, sending := none, tx := [], rx := .sync, rxChars := [] } })) ∧
    (failed → 2 ≤ f.failed →
      let dropped := error false
      let l : Lnc := { s.lnc with errors := errors, sending := none, tx := [], rx := .sync, rxChars := [], queue := left }
      (f.kind = .arrayStop ∨ f.kind = .arrayResume ∨ f.kind = .isolated ∨ f.kind = .answer ∨ f.kind = .status →
        dropped = .next (State.settle { s.elapse dt with lnc := l })) ∧
      (∀ i, f.kind = .arcClaim → s.sel.arc = some i → i.claim = .queued →
        dropped = .next (State.settle { s.elapse dt with lnc := l, sel := { s.sel with arc := some { i with claim := .dropped } } })) ∧
      (∀ i, f.kind = .locate → s.sel.ground = some i → i.claim = .queued →
        dropped = .next (State.settle { s.elapse dt with lnc := l, sel := { s.sel with ground := some { i with claim := .dropped } } })) ∧
      (f.kind = .probeOpen → s.prb.role = .pending → dropped = .next (State.settle { s.elapse dt with
        lnc := l,
        prb := if s.prb.byDue = true then
            { s.prb with role := .none, byDue := false, duePending := true, retryAt := some (now.plus 1000) }
          else { s.prb with role := .none } })) ∧
      (f.kind = .probeClose → s.prb.role = .injecting → s.prb.window ≠ none →
        dropped = .next (State.settle { s.elapse dt with lnc := l, prb := windowLost }))) ∧
    (let l : Lnc := { s.lnc with sending := none, tx := [], rx := .ready, rxChars := [], rxDone := none, queue := left };
      sent →
      (f.kind = .arrayStop ∨ f.kind = .arrayResume ∨ f.kind = .isolated ∨ f.kind = .answer →
        completed = .next (State.settle { s.elapse dt with lnc := l })) ∧
      (f.kind = .status → completed = .next (State.settle { s.elapse dt with
        lnc := l, sel := { s.sel with concurrent := if f.flagNote = true then false else s.sel.concurrent } })) ∧
      (∀ i, f.kind = .arcClaim → s.sel.arc = some i → i.claim = .queued →
        completed = .next (State.settle { s.elapse dt with lnc := l, sel := { s.sel with arc := some { i with claim := .sent } } })) ∧
      (∀ i, f.kind = .locate → s.sel.ground = some i → i.claim = .queued →
        completed = .next (State.settle { s.elapse dt with lnc := l, sel := { s.sel with ground := some { i with claim := .sent } } })) ∧
      (let begun := fun w : Window => w.phase = some .reference ∧ w.start = now ∧
          w.tag = { injector := s.smu.address, sequence := (f.payload.getD 0 0).toNat } ∧ w.hp = (f.payload.getD 1 0).toNat * 100 ∧
          w.np = (f.payload.getD 2 0).toNat ∧ w.settle = (f.payload.getD 3 0).toNat * 10 ∧ w.refUp = none ∧ w.samples = [] ∧
          w.halvesInjected = 0 ∧ w.halves = [] ∧ w.status = none ∧ w.disturbed = false ∧
          w.capture = (if s.prb.balances = [] then 500 else s.prb.balances.sum / s.prb.balances.length);
        let opened : Prb := { s.prb with role := .injecting, seq := (s.prb.seq + 1) % 256, byDue := false, alarmCount := 0 };
        f.kind = .probeOpen →
          (f.withdrawAsked = false → ∃ w, begun w ∧ completed = .next (State.settle { s.elapse dt with
            lnc := l, prb := { opened with window := some w, output := .referenceUp } })) ∧
          (f.withdrawAsked = true → s.smu.address ≠ 0 →
            (s.lnc.line ≠ .stuck → left.length < 16 → ∃ w, begun w ∧ completed = .next (State.settle { s.elapse dt with
              lnc := { l with
                queue := insertFrame
                  { kind := .probeClose, rank := 0, failed := 0, entry := s.lnc.nextEntry, withdrawAsked := false, flagNote := false,
                    payload := [BitVec.ofNat 8 w.tag.sequence, 3, 0, 255, 255] } left,
                nextEntry := s.lnc.nextEntry + 1 },
              prb := { opened with
                output := .released, window := some { w with status := some .aborted, riso := 65535, phase := some .closing } } })) ∧
            (s.lnc.line = .stuck → completed = .next (State.settle { s.elapse dt with
              lnc := l, prb := { windowLost with seq := (s.prb.seq + 1) % 256, byDue := false } })))) ∧
      (∀ w, f.kind = .probeClose → s.prb.role = .injecting → s.prb.window = some w →
        let good := w.status = some .ok ∧ w.disturbed = false
        completed = .next (State.settle {
          State.windowReport { s.elapse dt with lnc := l }
            { tag := w.tag, status := w.status, disturbed := w.disturbed, riso := w.riso,
              result := if good then s.bestString w.halves else none } with
          prb := { windowLost with
            dueAt := if s.smu.address = 0 then s.prb.dueAt
              else some (now.plus (s.smu.settings.probePeriod * 60000 + s.smu.address * 10000)),
            duePending := if s.smu.address = 0 then s.prb.duePending else false,
            retryAt := if s.smu.address = 0 then s.prb.retryAt else none,
            lastRiso := if w.status = some .ok then w.riso else s.prb.lastRiso,
            fault := if w.status = some .fault then true else s.prb.fault,
            balRef := if good ∧ s.smu.settings.gfTrip ≤ w.riso then w.capture else s.prb.balRef } })))

/-- HEALTH_PERIOD_END: a period of ERR_LIM errors or more is bad. Outside STUCK a bad period steps the level, from 7 to
RX_FLOOR, and suspends the count for the next period. It makes UP DEGRADED, and in DEGRADED ten clean periods, with a bad one
starting the run again, make it UP. The count starts again at 0 for the period that follows at once (R111, R112, R115). -/
def Obligations.HealthPeriodsStepTheLevel : Prop :=
  ∀ (dt : Nat) (s : State) (due : Time), s.started = true → s.lnc.periodEndAt = some due → reached (s.now.plus dt) due = true →
    let bad := s.smu.settings.errLim ≤ s.lnc.errors
    let clean := s.lnc.errors = 0 ∧ s.lnc.suspended = false
    let l : Lnc := { s.lnc with errors := 0, periodEndAt := some (due.plus 1000), suspended := decide (bad ∧ s.lnc.line ≠ .stuck)
                                level := if bad ∧ s.lnc.line ≠ .stuck
                                  then (if s.lnc.level < 7 then s.lnc.level + 1 else s.smu.settings.rxFloor) else s.lnc.level }
    let after := fun l : Lnc => (Host.Outcome.next (State.settle { s.elapse dt with lnc := l }) : Host.Outcome State Fault Refusal)
    (s.lnc.line = .up → bad → exec (.healthPeriodEnd dt) s = after { l with line := .degraded, cleanRun := 0 }) ∧
    (s.lnc.line = .degraded → bad → exec (.healthPeriodEnd dt) s = after { l with cleanRun := 0 }) ∧
    (s.lnc.line = .degraded → ¬bad → clean → 9 ≤ s.lnc.cleanRun →
      exec (.healthPeriodEnd dt) s = after { l with line := .up, cleanRun := 0 }) ∧
    (s.lnc.line = .degraded → ¬bad → clean → s.lnc.cleanRun < 9 →
      exec (.healthPeriodEnd dt) s = after { l with cleanRun := s.lnc.cleanRun + 1 }) ∧
    (s.lnc.line = .degraded → ¬bad → ¬clean → exec (.healthPeriodEnd dt) s = after l) ∧
    (s.lnc.line = .up → ¬bad → exec (.healthPeriodEnd dt) s = after l) ∧
    (s.lnc.line = .listen ∨ s.lnc.line = .down ∨ s.lnc.line = .stuck → exec (.healthPeriodEnd dt) s = after l)

/-- SILENCE_EXPIRY makes a line in UP or DEGRADED DOWN SILENCE_LIM after the last good frame, and PEER_SILENCE_EXPIRY a
PRESENT peer SILENT, its last heard time kept. STUCK_LINE puts the dominant-run timer at the run since its first dominant bit: below
1500 ms nothing else happens, from 1500 ms on, in whichever line state, it makes the line STUCK with the receiver in SYNC, withdraws a PENDING
station's PROBE-OPEN, and loses the window of an injector, whose queued PROBE-CLOSE it withdraws; a frame with an attempt in progress
stays, to be withdrawn at its end (R62, R70, R110, R114, R116, R123; that the command brings the run is log entry 25,
that a withdrawn due trigger is left not pending is log entry 16). -/
def Obligations.SilentAndStuckLines : Prop :=
  ∀ (dt run : Nat) (s : State), s.started = true →
    let stuck := exec (.stuckLine { dt := dt, run := run }) s
    (∀ g, s.lnc.lastGood = some g →
      ((s.lnc.line = .up ∨ s.lnc.line = .degraded) → reached (s.now.plus dt) (g.plus (s.smu.settings.silenceLim * 1000)) = true →
        exec (.silenceExpiry dt) s = .next (State.settle { s.elapse dt with lnc := { s.lnc with line := .down, cleanRun := 0 } })) ∧
      ((s.lnc.line ≠ .up ∧ s.lnc.line ≠ .degraded) ∨ reached (s.now.plus dt) (g.plus (s.smu.settings.silenceLim * 1000)) = false →
        exec (.silenceExpiry dt) s = .next (s.elapse dt).settle)) ∧
    (∀ (p : PeerNo) (h : Time), s.pvw.peers[p] = { presence := .present, lastHeard := some h } →
      exec (.peerSilenceExpiry dt p) s =
        if reached (s.now.plus dt) (h.plus (s.smu.settings.silenceLim * 1000)) = true then
          .next (State.settle { s.elapse dt with
            pvw := { s.pvw with peers := s.pvw.peers.set p.val { presence := .silent, lastHeard := some h } } })
        else .next (s.elapse dt).settle) ∧
    (run < 1500 → stuck = .next (State.settle { s.elapse dt with lnc := { s.lnc with dominantRun := run } })) ∧
    (let l : Lnc := { s.lnc with line := .stuck, cleanRun := 0, dominantRun := run, rx := .sync, rxChars := [] };
      1500 ≤ run →
      (s.prb.role = .none ∨ s.prb.role = .listening →
        stuck = .next (State.settle { s.elapse dt with lnc := l })) ∧
      let without := fun e : Nat => s.lnc.queue.filter fun g => g.entry != e;
      let asked := fun e : Nat => s.lnc.queue.map fun g => if g.entry = e then { g with withdrawAsked := true } else g;
      let lost : Prb := if s.smu.address = 0 then
          { s.prb with role := .none, window := none, output := .released, lastEnd := some (s.now.plus dt) }
        else
          { s.prb with role := .none, window := none, output := .released, lastEnd := some (s.now.plus dt),
                       alarmArmed := true, staggerAt := none, alarmCount := 0 };
      (∀ g, s.prb.role = .pending → s.queuedOf .probeOpen = some g →
        (s.lnc.sending ≠ some g.entry → stuck = .next (State.settle { s.elapse dt with
          lnc := { l with queue := without g.entry }, prb := { s.prb with role := .none, byDue := false } })) ∧
        (s.lnc.sending = some g.entry → stuck = .next (State.settle { s.elapse dt with
          lnc := { l with queue := asked g.entry } }))) ∧
      ∀ w, s.prb.role = .injecting → s.prb.window = some w →
        (w.phase ≠ some .closing → stuck = .next (State.settle { s.elapse dt with lnc := l, prb := lost })) ∧
        (∀ g, w.phase = some .closing → s.queuedOf .probeClose = some g →
          (s.lnc.sending ≠ some g.entry → stuck = .next (State.settle { s.elapse dt with
            lnc := { l with queue := without g.entry }, prb := lost })) ∧
          (s.lnc.sending = some g.entry → stuck = .next (State.settle { s.elapse dt with
            lnc := { l with queue := asked g.entry }, prb := { s.prb with output := .released } }))))

/-- BREAK_RECOGNISED flushes the queue to its ARRAY-STOP, ARRAY-RESUME and ISOLATED frames and puts the receiver in SYNC; a
queued claim removed is reported DROPPED, a PROBE-OPEN removed gives role NONE with its due trigger pending again, a PROBE-CLOSE removed
loses the injector's window, and an attempt in progress ends; a run of the own break is only noted as over, and one shorter than
200 ms or of 1500 ms or more is no break, whose end flushes nothing. BREAK_DRIVE_END releases the
line, flushes the same way and enters an ARRAY-STOP of the station at the head of the queue unless one is there (R34, R62, R70, R118 to
R120; that the trigger is evaluated again 1 s later is log entry 16). -/
def Obligations.BreaksFlushTheQueue : Prop :=
  ∀ (dt run : Nat) (s : State), s.started = true →
    let kept := s.lnc.queue.filter fun f => decide (f.kind = .arrayStop ∨ f.kind = .arrayResume ∨ f.kind = .isolated)
    (s.lnc.breakEndAt = none → s.lnc.ownRun = false → 200 ≤ run → run < 1500 → ∃ t, exec (.breakRecognised dt run) s = .next t ∧
      t.lnc = { s.lnc with queue := kept, pendingStatus := none, sending := none, tx := [], rx := .sync, rxChars := [], dominantRun := 0 } ∧
      t.smu = s.smu ∧ t.ssu = s.ssu ∧ t.eve = s.eve ∧ t.pvw = s.pvw ∧ t.rsl = s.rsl ∧ t.swc.str = s.swc.str ∧
      FlushReported s t (s.now.plus dt)) ∧
    (s.lnc.breakEndAt = none → s.lnc.ownRun = true → exec (.breakRecognised dt run) s =
      .next (State.settle { s.elapse dt with lnc := { s.lnc with ownRun := false, dominantRun := 0 } })) ∧
    (s.lnc.breakEndAt = none → s.lnc.ownRun = false → run < 200 ∨ 1500 ≤ run → exec (.breakRecognised dt run) s =
      .next (State.settle { s.elapse dt with lnc := { s.lnc with dominantRun := 0 } })) ∧
    (expired (s.now.plus dt) s.lnc.breakEndAt = true → s.smu.address ≠ 0 → kept.length < 16 → ∃ t,
      exec (.breakDriveEnd dt) s = .next t ∧ t.lnc.breakEndAt = none ∧ t.lnc.sending = none ∧ t.lnc.tx = [] ∧ t.lnc.pendingStatus = none ∧
      (∀ g ∈ kept, g ∈ t.lnc.queue) ∧ (∃ f ∈ t.lnc.queue, f.kind = .arrayStop) ∧
      ((∃ f ∈ kept, f.kind = .arrayStop) → t.lnc.queue = kept) ∧
      ((∀ f ∈ kept, f.kind ≠ .arrayStop) → t.lnc.queue =
        { kind := .arrayStop, rank := 0, payload := [], failed := 0, entry := s.lnc.nextEntry, withdrawAsked := false,
          flagNote := false } :: kept) ∧
      FlushReported s t (s.now.plus dt) ∧ t.smu = s.smu ∧ t.ssu = s.ssu ∧ t.eve = s.eve ∧ t.pvw = s.pvw ∧ t.rsl = s.rsl ∧ t.swc.str = s.swc.str)

/-- STATUS_POINT at its time sets the next point and hands over a STATUS built from the state: line state (0 LISTEN, 1 UP, 2
DEGRADED, 3 DOWN, 4 STUCK) and level, the
flags, the last R_iso and the exception entries in string order, at most 11, each with the code of the string's state, an OPEN one's by
its leading hold. A queued STATUS is replaced; one with an attempt in progress keeps its place and the new one becomes pending. In a
full queue it evicts the oldest ANSWER with no attempt in progress, or is refused (R105, R128 to R130; that bits 7 and 3 of character 1
are 0 is log entry 37). -/
def Obligations.StatusPointsQueueStatus : Prop :=
  ∀ (dt : Nat) (s : State) (due : Time), s.started = true → s.rpt.statusAt = some due → reached (s.now.plus dt) due = true →
    s.smu.address ≠ 0 →
    let lineCode := match s.lnc.line with
      | .listen => 0
      | .up => 1
      | .degraded => 2
      | .down => 3
      | .stuck => 4
    let payload := [BitVec.ofNat 8 (16 * lineCode + s.lnc.level), s.statusFlags1,
        s.statusFlags2 (decide (11 < s.exceptions.length)), BitVec.ofNat 8 (s.prb.lastRiso / 256), BitVec.ofNat 8 s.prb.lastRiso]
      ++ s.exceptions.take 11
    let f : QueuedFrame := { kind := .status, rank := 0, payload := payload, failed := 0, entry := 0, withdrawAsked := false,
                             flagNote := s.sel.concurrent }
    let rpt' : Rpt := { s.rpt with statusAt := some (due.plus (s.smu.settings.statusPeriod * 1000)) }
    (s.queuedOf .status = none → s.lnc.queue.length < 16 → exec (.statusPoint dt) s = .next (State.settle { s.elapse dt with
      rpt := rpt', lnc := { s.lnc with
        queue := insertFrame { f with entry := s.lnc.nextEntry } s.lnc.queue, nextEntry := s.lnc.nextEntry + 1 } })) ∧
    (∀ g, s.queuedOf .status = some g → s.lnc.sending ≠ some g.entry → exec (.statusPoint dt) s = .next (State.settle { s.elapse dt with
      rpt := rpt', lnc := { s.lnc with
        queue := insertFrame { f with entry := s.lnc.nextEntry } (s.lnc.queue.filter fun h => h.entry != g.entry),
        nextEntry := s.lnc.nextEntry + 1 } })) ∧
    (∀ g, s.queuedOf .status = some g → s.lnc.sending = some g.entry → exec (.statusPoint dt) s = .next (State.settle { s.elapse dt with
      rpt := rpt', lnc := { s.lnc with pendingStatus := some f } })) ∧
    (s.queuedOf .status = none → 16 ≤ s.lnc.queue.length →
      let evictable := fun g : QueuedFrame => g.kind = .answer ∧ s.lnc.sending ≠ some g.entry
      ((∃ g ∈ s.lnc.queue, evictable g) →
        ∃ old ∈ s.lnc.queue, evictable old ∧ (∀ g ∈ s.lnc.queue, evictable g → old.entry ≤ g.entry) ∧
        exec (.statusPoint dt) s = .next (State.settle { s.elapse dt with rpt := rpt', lnc := { s.lnc with
          queue := insertFrame { f with entry := s.lnc.nextEntry } (s.lnc.queue.filter fun g => g.entry != old.entry),
          nextEntry := s.lnc.nextEntry + 1 } })) ∧
      ((∀ g ∈ s.lnc.queue, ¬evictable g) → exec (.statusPoint dt) s = .next (State.settle { s.elapse dt with rpt := rpt' }))) ∧
    (s.statusFlags1.getLsbD 7 = s.rsl.stopKey.accepted ∧ s.statusFlags1.getLsbD 6 = s.rsl.lockKey.accepted ∧
      s.statusFlags1.getLsbD 5 = s.swc.boxTrip ∧ s.statusFlags1.getLsbD 4 = (s.smu.supply == .low) ∧
      s.statusFlags1.getLsbD 3 = s.smu.configDefault ∧ s.statusFlags1.getLsbD 2 = s.smu.configClamped ∧
      s.statusFlags1.getLsbD 1 = s.lnc.conflict ∧ s.statusFlags1.getLsbD 0 = s.smu.memoFault) ∧
    (∀ b, (s.statusFlags2 b).getLsbD 7 = b ∧ (s.statusFlags2 b).getLsbD 6 = s.sel.concurrent ∧
      (s.statusFlags2 b).getLsbD 5 = !s.pvw.stopSet.isEmpty ∧ ∀ i, i < 5 → (s.statusFlags2 b).getLsbD i = false) ∧
    (∀ k : StringNo,
      let r := s.string k
      (r.state = .stuckClosed → s.exceptionOf k = some 11) ∧ (r.state = .stuckOpen → s.exceptionOf k = some 12) ∧
      (r.state = .opened →
        (∀ g, r.holds.fault = some g → s.exceptionOf k = some (match g.cause with
          | .arc => 1
          | .ground => 2
          | .reverse => 3
          | .overcurrent => 4
          | .unknown => 8)) ∧
        (r.holds.fault = none →
          (r.holds.stop ≠ none → s.exceptionOf k = some 6) ∧
          (r.holds.stop = none → r.holds.lockout = true → s.exceptionOf k = some 7) ∧
          (r.holds.stop = none → r.holds.lockout = false → s.exceptionOf k = some (if r.holds.service = true then 5 else 8)))) ∧
      (r.state = .opening → s.exceptionOf k = some 9) ∧ (r.state = .closing → s.exceptionOf k = some 10) ∧
      (r.state = .closed → s.exceptionOf k =
        if s.sel.suspect[k] = true then some 13 else if s.ssu.str[k].sensorFault = true then some 14 else none) ∧
      (r.state = .disabled → s.exceptionOf k = none)) ∧
    s.exceptions = ((List.finRange 12).filterMap fun k : StringNo =>
      if k.val < s.smu.strings then (s.exceptionOf k).map fun c => BitVec.ofNat 8 (16 * (k.val + 1) + c) else none) ∧
    (∀ x, x ∈ s.exceptions ↔ ∃ (k : StringNo) (c : Nat), k.val < s.smu.strings ∧ s.exceptionOf k = some c ∧
      x = BitVec.ofNat 8 (16 * (k.val + 1) + c)) ∧ s.exceptions.length ≤ 12

/-- A SERVICE that does not match the station changes nothing. RESTORE gives each string of the set the first result that applies and
releases the fault and SERVICE holds of a string with DONE or HELD-OTHER alone; an OPEN string left without a hold closes. OPEN
gives its results and adds a SERVICE hold to a string with DONE, which opens a CLOSED one. PROBE-NOW is refused in the order of
the table of R61, else the station becomes PENDING with its PROBE-OPEN queued. QUERY changes nothing but the queue, and its ANSWER carries the string report of 10.4, or NOT-FITTED. Under mask 31 an ANSWER
of those results enters a queue with room, and under another mask none does (R61, R131 to R135, R163). -/
def Obligations.ServiceActsOnMatchingStation : Prop :=
  ∀ (s : State) (f : Received) (d m op h l : Byte), f.payload = [d, m, op, h, l] →
    let inSet := fun k : StringNo => (256 * h.toNat + l.toNat).testBit k.val
    let set := (List.finRange 12).filter inSet
    let t := s.deliver .service f
    let stuck := fun k : StringNo => (s.string k).state = .stuckClosed ∨ (s.string k).state = .stuckOpen
    let answered := fun (n : Nat) (results : List Byte) => s.smu.address ≠ 0 → s.lnc.queue.length + n < 16 →
      ∃ a ∈ t.lnc.queue, a.kind = .answer ∧ a.rank = 0 ∧ a.entry = s.lnc.nextEntry + n ∧
        a.payload = [BitVec.ofNat 8 f.source, op] ++ results
    (Nat.land s.smu.address m.toNat ≠ Nat.land d.toNat m.toNat → t = s) ∧
    (Nat.land s.smu.address m.toNat = Nat.land d.toNat m.toNat →
      (m ≠ 31 → op = 1 ∨ op = 2 ∨ op = 4 → t.lnc = s.lnc) ∧
      (op = 1 →
        let result := fun k : StringNo =>
          let x := (s.string k).holds
          if s.smu.strings ≤ k.val then 6 else if stuck k then 5
          else if x.fault.any (fun g => g.cause == .arc || g.cause == .unknown) then 3
          else if x.stop ≠ none ∨ x.lockout = true then 4 else if x.fault ≠ none ∨ x.service = true then 1 else 2
        (m = 31 → answered 0 (set.map fun k => BitVec.ofNat 8 (16 * (k.val + 1) + result k))) ∧
        ∀ k : StringNo,
          let x := (s.string k).holds
          (inSet k = true → result k = 1 ∨ result k = 4 →
            (t.string k).holds = { x with fault := none, service := false, later := if x.fault = none then x.later else none } ∧
            (x.fault ≠ none → t.rsl.str[k].recloseAt = none) ∧
            (t.string k).state = (if result k = 1 ∧ (s.string k).state = .opened then .closing else (s.string k).state)) ∧
          (inSet k = false ∨ (result k ≠ 1 ∧ result k ≠ 4) →
            (t.string k).state = (s.string k).state ∧ (t.string k).holds = x)) ∧
      (op = 2 →
        let result := fun k : StringNo =>
          if s.smu.strings ≤ k.val then 6 else if stuck k then 5 else if (s.string k).holds.service = true then 2 else 1
        (m = 31 → answered 0 (set.map fun k => BitVec.ofNat 8 (16 * (k.val + 1) + result k))) ∧
        ∀ k : StringNo,
          (inSet k = true → result k = 1 → (s.string k).state ≠ .disabled →
            (t.string k).holds = { (s.string k).holds with service := true } ∧
            ((s.string k).state = .closed → (t.string k).state = .opening) ∧
            ((s.string k).state = .opened → (t.string k).state = .opened) ∧
            ((s.string k).state = .opening → (t.string k).state = .opening)) ∧
          (inSet k = false ∨ result k ≠ 1 → (t.string k).state = (s.string k).state ∧ (t.string k).holds = (s.string k).holds)) ∧
      (op = 3 →
        let deaf := s.smu.address = 0 ∨ (s.lnc.line ≠ .up ∧ s.lnc.line ≠ .degraded)
        let busy := s.prb.role ≠ .none ∨ (∃ e, s.prb.lastEnd = some e ∧ s.now.since e < 30000) ∨ s.smu.supply = .low ∨
          s.pvw.stopSet ≠ [] ∨ s.rsl.lockKey.accepted = true
        let refused := fun c : Nat => t = { s with lnc := t.lnc } ∧ (m ≠ 31 → t = s) ∧ (m = 31 → answered 0 [BitVec.ofNat 8 c])
        (s.smu.phase = .listening → refused 10) ∧
        (s.smu.phase = .running →
          (deaf → refused 9) ∧ (¬deaf → s.sel.arc ≠ none → refused 11) ∧ (¬deaf → s.sel.arc = none → busy → refused 8) ∧
          (¬deaf → s.sel.arc = none → ¬busy → s.queuedOf .probeOpen = none → s.lnc.queue.length < 16 →
            t = { s with prb := { s.prb with role := .pending, byDue := false, alarmCount := 0 }, lnc := t.lnc } ∧
            (m ≠ 31 ∨ s.lnc.queue.length < 15 → ∃ o ∈ t.lnc.queue, o.kind = .probeOpen ∧ o.entry = s.lnc.nextEntry ∧ o.payload =
              [BitVec.ofNat 8 s.prb.seq, BitVec.ofNat 8 (s.smu.settings.probeHp / 100), BitVec.ofNat 8 s.smu.settings.probeNp,
               BitVec.ofNat 8 (s.smu.settings.probeSettle / 10)]) ∧
            (m = 31 → answered 1 [7])))) ∧
      (op = 4 → t = { s with lnc := t.lnc }) ∧
      (∀ k : StringNo, op = 4 → m = 31 → l.toNat = k.val + 1 →
        let r := s.string k
        let e := s.eve[k]
        let i : Nat := (s.ssu.str[k].record.current % 65536).toNat
        let age := min 65535 (s.now.since r.iso.time / 1000)
        let cause := fun c : Option FaultCause => match c with
          | none => 0
          | some .arc => 1
          | some .ground => 2
          | some .reverse => 3
          | some .overcurrent => 4
          | some .unknown => 5
        let isolation := match r.iso.cause with
          | .arc => 1
          | .ground => 2
          | .reverse => 3
          | .overcurrent => 4
          | .service => 5
        let state := match r.state with
          | .disabled => 0
          | .closed => 1
          | .opening => 2
          | .opened => 3
          | .closing => 4
          | .stuckClosed => 5
          | .stuckOpen => 6
        let bit := fun (b : Bool) (n : Nat) => if b = true then n else 0
        (s.smu.strings ≤ k.val → answered 0 [BitVec.ofNat 8 (16 * (k.val + 1) + 6)]) ∧
        (k.val < s.smu.strings → answered 0 [BitVec.ofNat 8 (16 * (k.val + 1) + 1),
          BitVec.ofNat 8 (state + 8 * cause r.holds.later + bit s.sel.suspect[k] 64 + bit s.ssu.str[k].sensorFault 128),
          BitVec.ofNat 8 (cause (r.holds.fault.map FaultHold.cause) + bit (decide (r.holds.stop ≠ none)) 8 +
            bit (decide (r.holds.stop = some .remembered)) 16 + bit r.holds.lockout 32 + bit r.holds.service 64 +
            bit s.swc.driveSupply 128),
          BitVec.ofNat 8 (i / 256), BitVec.ofNat 8 i, BitVec.ofNat 8 e.score, BitVec.ofNat 8 e.evid,
          BitVec.ofNat 8 (e.base / 16 / 256), BitVec.ofNat 8 (e.base / 16), BitVec.ofNat 8 e.q,
          BitVec.ofNat 8 (bit r.iso.active (isolation + 8 * r.iso.detail.round)),
          BitVec.ofNat 8 (bit r.iso.active r.iso.detail.rank),
          BitVec.ofNat 8 (bit r.iso.active (age / 256)), BitVec.ofNat 8 (bit r.iso.active age)])))

/-! ### String switching (chapter 7) -/

/-- A request to add a hold, by the string's state: a CLOSED string takes it and its OPEN is queued under it, behind the
others of its class while the engine is busy; an OPENING string and one whose CLOSE the engine holds take it; a waiting CLOSE is
taken back and the string is OPEN; an OPEN or STUCK string takes it but for a fault, whose cause is kept as the later fault
cause; a DISABLED string refuses it. The first fault cause stays. A string then OPEN or STUCK has the memo value its holds want, and when
that is another than before its write is asked of the SMU, where it waits or begins; any other string asks none. Other strings keep state
and holds (R139, R140, R153, R184). That a fault of the
very cause an OPEN or STUCK string is held under changes nothing is the model's reading (log entry 17), that a memo retry waiting for RUN
goes on beside a newer value of its string its choice (log entry 20). -/
def Obligations.HoldsFollowStringState : Prop :=
  (∀ (h : HoldSet) (f : FaultHold),
    (h.fault = none → h.add (.fault f) = { h with fault := some f }) ∧
    (∀ g, h.fault = some g → g.cause = f.cause → h.add (.fault f) = h ∧ h.addIsolated (.fault f) = h) ∧
    (∀ g, h.fault = some g → g.cause ≠ f.cause →
      h.add (.fault f) = { h with later := some f.cause } ∧ h.addIsolated (.fault f) = { h with later := some f.cause }) ∧
    (h.fault = none → h.addIsolated (.fault f) = { h with later := some f.cause })) ∧
  (∀ h : HoldSet, h.add .stop = { h with stop := some .tied } ∧ h.add .lockout = { h with lockout := true } ∧
    h.add .service = { h with service := true } ∧ h.addIsolated .stop = h.add .stop ∧ h.addIsolated .lockout = h.add .lockout ∧
    h.addIsolated .service = h.add .service) ∧
  ∀ (s : State) (k : StringNo) (h : HoldRequest),
    let t := s.addHold k h
    let r := s.string k
    (∀ j, j ≠ k → (t.string j).state = (s.string j).state ∧ (t.string j).holds = (s.string j).holds) ∧
    (r.state = .closed → (t.string k).state = .opening ∧ (t.string k).holds = r.holds.add h ∧ t.rsl.str[k].closedAt = none ∧
      (s.swc.engine ≠ .idle → t.swc.openQ = s.swc.openQ ++ [k] ∧ t.swc.engine = s.swc.engine ∧
        (t.string k).request = some { dir := .toOpen, cause := some h.cause, detail := h.detail, failed := 0, held := false }) ∧
      (s.started = true → s.swc.engine = .idle → s.swc.ready = true → s.smu.supply = .run → s.swc.openQ = [] →
        t.swc.openQ = [] ∧ t.swc.engine = .pulsing k .toOpen ∧ t.swc.coil = some (k, .toOpen) ∧
        (t.string k).request = some { dir := .toOpen, cause := some h.cause, detail := h.detail, failed := 0, held := true })) ∧
    (r.state = .opening → t.string k = { r with holds := r.holds.add h }) ∧
    (∀ q, r.state = .closing → r.request = some q → q.held = true → t.string k = { r with holds := r.holds.add h }) ∧
    (∀ q, r.state = .closing → r.request = some q → q.held = false →
      (t.string k).state = .opened ∧ (t.string k).holds = r.holds.add h ∧ (t.string k).request = none ∧ k ∉ t.swc.closeQ ∧
      MemoInStep s t s.now k (t.string k).holds) ∧
    (r.state = .opened ∨ r.state = .stuckClosed ∨ r.state = .stuckOpen →
      (t.string k).state = r.state ∧ (t.string k).holds = r.holds.addIsolated h ∧ MemoInStep s t s.now k (t.string k).holds) ∧
    (r.state = .closed ∨ r.state = .opening ∨ (r.state = .closing ∧ ¬CloseWaits r) → t.smu = s.smu ∧ (t.string k).memo = r.memo) ∧
    (r.state = .disabled → t = s)

/-- SOURCE_READY clears DRIVE_SUPPLY and lets an idle engine under RUN drive the first OPEN request, or the first CLOSE when no OPEN
waits. RECHARGE_EXPIRY sets DRIVE_SUPPLY. At PULSE_END the coil is released and the source recharges: with a current read, the attempt is
confirmed at once when the feedback shows the requested position already, as by a change of the feedback at that time, else
the engine waits for it; with none, and at COIL_OVER at once, the attempt has failed: a first failure puts the request at the front of
its class, a second failure of an OPEN makes the string STUCK-CLOSED, of a CLOSE STUCK-OPEN, its incidents closed, and a CLOSE that fails under a
hold leaves the string OPEN, its DECIDED incidents closed; a string that becomes STUCK or OPEN so keeps its memo in step with its holds
(R44, R45, R143 to R148, R153, R154, R184; that the ready pin falls with the pulse is log
entry 13, a waiting memo retry beside a newer value log entry 20). -/
def Obligations.PulsesDriveAndFail : Prop :=
  ∀ (dt : Nat) (s : State),
    (s.started = false ∨ s.swc.engine ≠ .idle ∨ s.smu.supply = .low ∨ (s.swc.openQ = [] ∧ s.swc.closeQ = []) →
      exec (.sourceReady dt) s = .next (State.settle { s.elapse dt with
        swc := { s.swc with ready := true, driveSupply := false, rechargeAt := none } })) ∧
    (∀ k q, s.started = true → s.swc.engine = .idle → s.smu.supply = .run → s.swc.openQ = k :: q →
      ∃ t, exec (.sourceReady dt) s = .next t ∧ t.swc.ready = true ∧ t.swc.driveSupply = false ∧ t.swc.engine = .pulsing k .toOpen ∧
        t.swc.coil = some (k, .toOpen) ∧ t.swc.openQ = q ∧ t.swc.pulseEndAt = some ((s.now.plus dt).plus s.smu.settings.pulseMs) ∧
        (t.string k).state = (s.string k).state ∧ (t.string k).holds = (s.string k).holds ∧
        (∀ j, j ≠ k → t.string j = s.string j)) ∧
    (∀ k q, s.started = true → s.swc.engine = .idle → s.smu.supply = .run → s.swc.openQ = [] → s.swc.closeQ = k :: q →
      ∃ t, exec (.sourceReady dt) s = .next t ∧ t.swc.ready = true ∧ t.swc.driveSupply = false ∧ t.swc.engine = .pulsing k .toClose ∧
        t.swc.coil = some (k, .toClose) ∧ t.swc.closeQ = q ∧ t.swc.pulseEndAt = some ((s.now.plus dt).plus s.smu.settings.pulseMs) ∧
        (t.string k).state = (s.string k).state ∧ (t.string k).holds = (s.string k).holds ∧
        (∀ j, j ≠ k → t.string j = s.string j)) ∧
    (s.started = true → s.swc.ready = false → expired (s.now.plus dt) s.swc.rechargeAt = true →
      exec (.rechargeExpiry dt) s = .next (State.settle { s.elapse dt with
        swc := { s.swc with driveSupply := true, rechargeAt := none } })) ∧
    (∀ (k : StringNo) (d : Direction), s.started = true → s.swc.engine = .pulsing k d →
      let pulsed : Swc := { s.swc with
        coil := none, pulseEndAt := none, ready := false, rechargeAt := some ((s.now.plus dt).plus 2000) }
      (∀ r, expired (s.now.plus dt) s.swc.pulseEndAt = true → r ≠ .none → s.swc.contact[k] = (d == .toOpen) →
        exec (.pulseEnd dt r) s = .next (State.settle { s.elapse dt with swc := { pulsed with
          engine := .confirming k d, confirmAt := some ((s.now.plus dt).plus s.smu.settings.confirmMs) } })) ∧
      (∀ r, expired (s.now.plus dt) s.swc.pulseEndAt = true → r ≠ .none → s.swc.contact[k] = (d == .toClose) →
        exec (.pulseEnd dt r) s = exec (.contactFeedbackChange 0 k (d == .toClose))
          { s.elapse dt with swc := { pulsed with engine := .confirming k d } } ∧
        ∃ t, exec (.pulseEnd dt r) s = .next t ∧ t.swc.engine = .idle ∧ t.swc.coil = none ∧ t.swc.ready = false ∧
          t.swc.rechargeAt = some ((s.now.plus dt).plus 2000) ∧ (t.string k).holds = (s.string k).holds ∧
          (d = .toOpen → (s.string k).request ≠ none → (s.string k).holds.isEmpty = false →
            (t.string k).state = .opened ∧ (t.string k).request = none) ∧
          (d = .toClose → (s.string k).request ≠ none → (s.string k).holds.isEmpty = true →
            (t.string k).state = .closed ∧ (t.string k).request = none)) ∧
      (∀ c, (c = Instr.coilOver dt ∨ (c = .pulseEnd dt .none ∧ expired (s.now.plus dt) s.swc.pulseEndAt = true)) →
        ∀ q, d = .toOpen → (s.string k).request = some q →
        (q.failed = 0 → exec c s = .next (State.settle { s.elapse dt with swc := { pulsed with
          engine := .idle, confirmAt := none, openQ := k :: s.swc.openQ,
          str := s.swc.str.set k.val { s.string k with request := some { q with failed := 1, held := false } } } })) ∧
        (q.failed ≠ 0 → ∃ t, exec c s = .next t ∧ t.swc.engine = .idle ∧ t.swc.coil = none ∧ t.swc.ready = false ∧
          t.swc.openQ = s.swc.openQ ∧ t.swc.closeQ = s.swc.closeQ ∧ (t.string k).state = .stuckClosed ∧
          (t.string k).holds = (s.string k).holds ∧ (t.string k).request = none ∧ (∀ j, j ≠ k → t.string j = s.string j) ∧
          MemoInStep s t (s.now.plus dt) k (s.string k).holds ∧
          (∀ i, s.sel.arc = some i → i.string = k → t.sel.arc = none) ∧
          (∀ i, s.sel.arc = some i → i.string ≠ k → t.sel = { s.sel with arc := some i, ground := t.sel.ground }) ∧
          (k.val < s.smu.strings → ((s.string k).holds.fault.isSome = true ∨ (s.string k).holds.stop.isSome = true) →
            t.swc.boxTrip = true))) ∧
      (∀ c, (c = Instr.coilOver dt ∨ (c = .pulseEnd dt .none ∧ expired (s.now.plus dt) s.swc.pulseEndAt = true)) →
        ∀ q, d = .toClose → (s.string k).request = some q →
        ((s.string k).holds.isEmpty = true → q.failed = 0 → exec c s = .next (State.settle { s.elapse dt with swc := { pulsed with
          engine := .idle, confirmAt := none, closeQ := k :: s.swc.closeQ,
          str := s.swc.str.set k.val { s.string k with request := some { q with failed := 1, held := false } } } })) ∧
        ((s.string k).holds.isEmpty = false ∨ q.failed ≠ 0 → ∃ t, exec c s = .next t ∧ t.swc.engine = .idle ∧ t.swc.coil = none ∧
          t.swc.ready = false ∧ t.swc.openQ = s.swc.openQ ∧ t.swc.closeQ = s.swc.closeQ ∧ (t.string k).holds = (s.string k).holds ∧
          (t.string k).request = none ∧ (t.string k).iso = (s.string k).iso ∧
          MemoInStep s t (s.now.plus dt) k (s.string k).holds ∧
          (∀ j, j ≠ k → t.string j = s.string j) ∧
          (let closes := fun i : Incident => i.string = k ∧ ((s.string k).holds.isEmpty = true ∨ i.state = .decided);
            (t.string k).state = (if (s.string k).holds.isEmpty = true then .stuckOpen else .opened) ∧
            (∀ i, s.sel.arc = some i → (closes i → t.sel.arc = none) ∧ (¬closes i → t.sel.arc = some i)) ∧
            (∀ i, s.sel.ground = some i → (closes i → t.sel.ground = none) ∧ (¬closes i → t.sel.ground = some i))))))

/-- CONTACT_FEEDBACK_CHANGE to the requested position confirms the attempt; any other change only moves the input. An OPEN for ARC,
GROUND, REVERSE, OVERCURRENT or SERVICE gives the isolation record of that cause at that time, with the rank, round and window tag
of the string's hold of the cause, and queues its ISOLATED; one for STOP, LOCKOUT or an unknown cause leaves the record. The
string's incidents close, a listener's window is disturbed, an injection ends as DISTURBED, the reclose timer starts, and a string whose holds were released
meanwhile becomes CLOSING. A string that becomes OPEN or STUCK has the memo value its holds want, and when that is another than before its
write is asked of the SMU. A CLOSE gives CLOSED, a new learn load, an inactive record, the memo value none, whose write is asked, and a
closed timer; under
a hold the string then opens again under its leading hold. At CONFIRM_EXPIRY the attempt has failed: a first failed request is
tried again, a second failed OPEN makes the string STUCK-CLOSED, a second failed CLOSE STUCK-OPEN, and under a hold a CLOSE leaves it
OPEN (R44, R45, R68, R69, R87, R147, R148, R150 to R154, R164, R167, R184; the details when the hold is gone are log entry 18, that a GROUND
record without a tag sends 0, 0 is log entry 36, that a CLOSE confirmed without a hold leaves a DECIDED incident is log entry 32, a
waiting memo retry beside a newer value log entry 20). -/
def Obligations.ContactsConfirmAttempts : Prop :=
  ∀ (dt : Nat) (s : State) (k : StringNo), s.started = true →
    let r := s.string k
    let now := s.now.plus dt
    (∀ c, (∀ d, s.swc.engine = .confirming k d → c ≠ (d == .toClose)) → exec (.contactFeedbackChange dt k c) s =
      .next (State.settle { s.elapse dt with swc := { s.swc with contact := s.swc.contact.set k.val c } })) ∧
    (∀ q c, s.swc.engine = .confirming k .toOpen → r.request = some q → q.cause = some c → s.prb.role ≠ .injecting →
      QueueSound s.lnc → ∃ t, exec (.contactFeedbackChange dt k false) s = .next t ∧ t.swc.contact[k] = false ∧
        (let x : HoldDetail := match r.holds.fault with
            | some g => if c = .fault g.cause then g.detail else q.detail
            | none => q.detail
          let record := fun (i : IsoCause) (code : Nat) (y : HoldDetail) => (t.string k).iso = { active := true, cause := i, detail := y, time := now } ∧
            (s.smu.address ≠ 0 → s.lnc.queue.length < 16 → ∃ g ∈ t.lnc.queue, g.kind = .isolated ∧ g.entry = s.lnc.nextEntry ∧
              g.rank = y.rank ∧ g.payload = [BitVec.ofNat 8 (k.val + 1), BitVec.ofNat 8 code, BitVec.ofNat 8 y.round,
                BitVec.ofNat 8 ((y.tag.map Tag.injector).getD 0), BitVec.ofNat 8 ((y.tag.map Tag.sequence).getD 0)])
          (c = .fault .arc → record .arc 1 { rank := x.rank, round := x.round, tag := none }) ∧
          (c = .fault .ground → record .ground 2 { rank := x.rank, round := 0, tag := x.tag }) ∧
          (c = .fault .reverse → record .reverse 3 HoldDetail.none) ∧ (c = .fault .overcurrent → record .overcurrent 4 HoldDetail.none) ∧
          (c = .service → record .service 5 HoldDetail.none) ∧
          (c = .stop ∨ c = .lockout ∨ c = .fault .unknown → (t.string k).iso = r.iso ∧
            (s.sel.arc = none → s.sel.ground = none → t.lnc = s.lnc))) ∧
        (t.string k).holds = r.holds ∧ (t.string k).mismatch = 0 ∧ MemoInStep s t now k r.holds ∧
        (r.holds.isEmpty = false → (t.string k).state = .opened ∧ (t.string k).request = none) ∧
        (r.holds.isEmpty = true → (t.string k).state = .closing ∧
          ∃ p, (t.string k).request = some p ∧ p.dir = .toClose ∧ p.failed = 0) ∧
        (∀ i, s.sel.arc = some i → t.sel.arc = if i.string = k then none else some i) ∧
        (∀ i, s.sel.ground = some i → t.sel.ground = if i.string = k then none else some i) ∧
        (∀ w, s.prb.role = .listening → s.prb.window = some w → t.prb = { s.prb with window := some { w with disturbed := true } }) ∧
        (s.prb.role ≠ .listening → t.prb = s.prb) ∧
        (∀ g, r.holds.fault = some g → g.cause = .reverse ∨ g.cause = .overcurrent →
          s.rsl.str[k].reclose < s.smu.settings.recloseMax →
          t.rsl.str[k].recloseAt = some (now.plus (s.smu.settings.recloseDelay * 1000)))) ∧
    (∀ q w, s.swc.engine = .confirming k .toOpen → r.request = some q → s.prb.role = .injecting → s.prb.window = some w →
      ∃ t, exec (.contactFeedbackChange dt k false) s = .next t ∧
        (w.phase = some .closing → w.status ≠ none → t.prb = { s.prb with window := some { w with disturbed := true } }) ∧
        (w.phase ≠ some .closing → s.smu.address ≠ 0 → s.lnc.queue.length < 15 →
          t.prb = { s.prb with
            output := .released,
            window := some { w with disturbed := true, status := some .disturbed, riso := 65535, phase := some .closing } } ∧
          ∃ g ∈ t.lnc.queue, g.kind = .probeClose ∧ g.rank = 0 ∧
            g.payload = [BitVec.ofNat 8 w.tag.sequence, 4, BitVec.ofNat 8 w.halvesInjected, 255, 255])) ∧
    (s.swc.engine = .confirming k .toClose → r.request ≠ none → ∃ t, exec (.contactFeedbackChange dt k true) s = .next t ∧
      t.swc.contact[k] = true ∧ (t.string k).holds = r.holds ∧ (t.string k).iso = { r.iso with active := false } ∧
      (t.string k).memo = .none ∧ MemoAsked s t now k .none ∧ (t.string k).mismatch = 0 ∧ t.eve[k].learnPending = true ∧
      t.lnc = s.lnc ∧ t.sel = s.sel ∧ t.prb = s.prb ∧
      (r.holds.isEmpty = true → (t.string k).state = .closed ∧ (t.string k).request = none ∧
        t.rsl.str[k].closedAt = some (now.plus 1800000) ∧ (s.swc.openQ = [] → s.swc.closeQ = [] → t.swc.engine = .idle)) ∧
      (r.holds.isEmpty = false → (t.string k).state = .opening ∧ t.rsl.str[k].closedAt = none ∧
        ∃ p, (t.string k).request = some p ∧ p.dir = .toOpen ∧ p.failed = 0 ∧
          (∀ g, r.holds.fault = some g → p.cause = some (.fault g.cause) ∧ p.detail = g.detail) ∧
          (r.holds.fault = none → r.holds.stop ≠ none → p.cause = some .stop) ∧
          (r.holds.fault = none → r.holds.stop = none → r.holds.lockout = true → p.cause = some .lockout) ∧
          (r.holds.fault = none → r.holds.stop = none → r.holds.lockout = false → p.cause = some .service))) ∧
    (∀ q d, s.swc.engine = .confirming k d → r.request = some q → expired now s.swc.confirmAt = true → s.swc.ready = false →
      let idle : Swc := { s.swc with engine := .idle, coil := none, pulseEndAt := none, confirmAt := none }
      let again := s.swc.str.set k.val { r with request := some { q with failed := q.failed + 1, held := false } }
      (d = .toOpen → q.failed = 0 →
        exec (.confirmExpiry dt) s = .next (State.settle { s.elapse dt with swc := { idle with openQ := k :: s.swc.openQ, str := again } })) ∧
      (d = .toOpen → q.failed ≠ 0 → ∃ t, exec (.confirmExpiry dt) s = .next t ∧ t.swc.engine = .idle ∧ t.swc.openQ = s.swc.openQ ∧
        (t.string k).state = .stuckClosed ∧ (t.string k).holds = r.holds ∧ (t.string k).request = none ∧ (t.string k).iso = r.iso ∧
        MemoInStep s t now k r.holds ∧
        (∀ i, s.sel.arc = some i → i.string = k → t.sel.arc = none ∧ (i.state = .decided → t.sel.recent = none)) ∧
        (∀ i, s.sel.ground = some i → i.string = k → t.sel.ground = none) ∧
        (k.val < s.smu.strings → (r.holds.fault ≠ none ∨ r.holds.stop ≠ none) → t.swc.boxTrip = true)) ∧
      (d = .toClose → r.holds.isEmpty = true → q.failed = 0 →
        exec (.confirmExpiry dt) s = .next (State.settle { s.elapse dt with swc := { idle with closeQ := k :: s.swc.closeQ, str := again } })) ∧
      (d = .toClose → r.holds.isEmpty = true → q.failed ≠ 0 → ∃ t, exec (.confirmExpiry dt) s = .next t ∧ t.swc.engine = .idle ∧
        (t.string k).state = .stuckOpen ∧ (t.string k).holds = r.holds ∧ (t.string k).request = none ∧ t.swc.closeQ = s.swc.closeQ ∧
        MemoInStep s t now k r.holds) ∧
      (d = .toClose → r.holds.isEmpty = false → ∃ t, exec (.confirmExpiry dt) s = .next t ∧ t.swc.engine = .idle ∧
        (t.string k).state = .opened ∧ (t.string k).holds = r.holds ∧ (t.string k).request = none ∧ t.swc.closeQ = s.swc.closeQ ∧
        MemoInStep s t now k r.holds ∧
        (∀ i, s.sel.arc = some i → i.string = k → i.state = .decided → t.sel.arc = none)))

/-! ### Release and array stop (chapter 8) -/

/-- The pushbutton: an input must be open for 50 ms before the first press counts, and closed for 50 ms to be a press. An
accepted press releases every fault and SERVICE hold of the fitted strings, whatever the cause; OPEN strings left without a
hold close, STUCK-CLOSED ones are taken back as CLOSED and STUCK-OPEN ones tried again (R156, R160, R161). -/
def Obligations.PressesReleaseHolds : Prop :=
  ∀ (dt : Nat) (p : Bool) (s : State),
    let after := fun r : Rsl => (Host.Outcome.next (State.settle { s.elapse dt with rsl := r }) : Host.Outcome State Fault Refusal)
    let test := some ((s.now.plus dt).plus 50)
    let pressed := exec (.pushbuttonInputChange dt p) s
    (s.rsl.buttonIn = p → pressed = after s.rsl) ∧
    (s.rsl.buttonIn ≠ p → s.started = false → pressed = after { s.rsl with buttonIn := p }) ∧
    (s.rsl.buttonIn ≠ p → s.started = true →
      (s.rsl.button = .waitOpen → pressed = after { s.rsl with buttonIn := p, buttonAt := if p = true then none else test }) ∧
      (s.rsl.button = .released → p = true → pressed = after { s.rsl with buttonIn := p, button := .pressing, buttonAt := test }) ∧
      (s.rsl.button = .pressing → p = false → pressed = after { s.rsl with buttonIn := p, button := .released, buttonAt := none }) ∧
      (s.rsl.button = .pressed → pressed = after { s.rsl with buttonIn := p, buttonAt := if p = true then none else test })) ∧
    (s.started = true → expired (s.now.plus dt) s.rsl.buttonAt = true →
      (s.rsl.button = .waitOpen ∨ s.rsl.button = .pressed →
        exec (.pushbuttonFilterExpiry dt) s = after { s.rsl with button := .released, buttonAt := none }) ∧
      (s.rsl.button = .pressing → ∃ t, exec (.pushbuttonFilterExpiry dt) s = .next t ∧
        t.rsl.button = .pressed ∧ t.rsl.buttonAt = none ∧ t.sel = s.sel ∧ t.prb = s.prb ∧ t.lnc = s.lnc ∧ t.pvw = s.pvw ∧
        t.ssu = s.ssu ∧ t.smu.mem = s.smu.mem ∧
        ∀ k : StringNo, k.val < s.smu.strings →
          let h := (s.string k).holds
          (t.string k).holds.fault = none ∧ (t.string k).holds.service = false ∧ (t.string k).holds.stop = h.stop ∧
          (t.string k).holds.lockout = h.lockout ∧ (h.fault ≠ none → t.rsl.str[k].recloseAt = none) ∧
          ((s.string k).state = .opened → h.stop = none → h.lockout = false → (h.fault ≠ none ∨ h.service = true) →
            (t.string k).state = .closing) ∧
          ((s.string k).state = .stuckClosed → h.stop = none → h.lockout = false →
            (t.string k).state = .closed ∧ t.eve[k].learnPending = true) ∧
          ((s.string k).state = .stuckClosed → h.stop ≠ none ∨ h.lockout = true → (t.string k).state = .opening) ∧
          ((s.string k).state = .stuckOpen → h.stop = none → h.lockout = false → (t.string k).state = .closing) ∧
          ((s.string k).state = .stuckOpen → h.stop ≠ none ∨ h.lockout = true → (t.string k).state = .opened)))

/-- The keys: a change of an input starts a 50 ms test when it departs from the accepted position and cancels it otherwise. The
ARRAY STOP key accepted as closed puts the own address into the Stop Set, gives every fitted string a STOP hold by its state, a
CLOSED one opening under it and a waiting CLOSE taken back, ends the station's part in a window, begins the 300 ms break and starts
the 10 s repeat; as open it takes the address out, which releases the STOP holds tied to a set that becomes empty, and queues an
ARRAY-RESUME. The LOCKOUT key gives every fitted string a LOCKOUT hold in the same way, at this station alone, and releases it, and
its closing ends the part in a window (R62, R68, R91, R118, R126, R127, R140, R168, R170, R171, R173, R174; the receiver's state in
the own break is log entry 10, that one taken whole stays to be judged is log entry 46, that a drive still running starts its 300 ms anew is log entry 35, that a withdrawn due trigger is
left not pending is log entry 16). -/
def Obligations.KeysStopAndLockOut : Prop :=
  ∀ (dt : Nat) (s : State), s.started = true →
    (∀ (c : Bool), s.rsl.lockKey.input ≠ c → exec (.keyInputChange dt .lockout c) s = .next (State.settle { s.elapse dt with
      rsl := { s.rsl with lockKey := { s.rsl.lockKey with
        input := c, testAt := if c = s.rsl.lockKey.accepted then none else some ((s.now.plus dt).plus 50) } } })) ∧
    (∀ (c : Bool), s.rsl.stopKey.input ≠ c → exec (.keyInputChange dt .arrayStop c) s = .next (State.settle { s.elapse dt with
      rsl := { s.rsl with stopKey := { s.rsl.stopKey with
        input := c, testAt := if c = s.rsl.stopKey.accepted then none else some ((s.now.plus dt).plus 50) } } })) ∧
    (expired (s.now.plus dt) s.rsl.stopKey.testAt = true → s.rsl.stopKey.input = true → ∃ t,
      exec (.keyAcceptExpiry dt .arrayStop) s = .next t ∧ t.rsl.stopKey = { input := true, accepted := true, testAt := none } ∧
      t.pvw.stopSet = insertAddress s.smu.address s.pvw.stopSet ∧ t.sel.arc = none ∧ t.sel.ground = none ∧
      (s.smu.address ≠ 0 → t.lnc.breakEndAt = some ((s.now.plus dt).plus 300) ∧ t.lnc.sending = none ∧ t.lnc.tx = [] ∧ t.lnc.rx = .sync ∧
        t.rsl.repeatAt = some ((s.now.plus dt).plus 10000)) ∧
      (s.smu.address = 0 → t.lnc.breakEndAt = s.lnc.breakEndAt ∧ t.rsl.repeatAt = s.rsl.repeatAt) ∧
      (QueueSound s.lnc → ProbePartEnds s t) ∧ HoldTakenByAll s t (fun h => { h with stop := some .tied }) .stop) ∧
    (expired (s.now.plus dt) s.rsl.stopKey.testAt = true → s.rsl.stopKey.input = false → ∃ t,
      exec (.keyAcceptExpiry dt .arrayStop) s = .next t ∧ t.rsl.stopKey = { input := false, accepted := false, testAt := none } ∧
      t.rsl.repeatAt = none ∧ t.pvw.stopSet = s.pvw.stopSet.filter (fun b => b != s.smu.address) ∧ t.sel = s.sel ∧ t.prb = s.prb ∧
      (s.smu.address ∉ s.pvw.stopSet ∨ (∃ a ∈ s.pvw.stopSet, a ≠ s.smu.address) → t.swc.str = s.swc.str) ∧
      (s.smu.address ∈ s.pvw.stopSet → (∀ a ∈ s.pvw.stopSet, a = s.smu.address) → ∀ k : StringNo, k.val < s.smu.strings →
        (t.string k).holds = { (s.string k).holds with
          stop := if (s.string k).holds.stop = some .tied then none else (s.string k).holds.stop } ∧
        (t.string k).state = if (s.string k).state = .opened ∧ (s.string k).holds.stop = some .tied ∧
            (t.string k).holds.isEmpty = true then .closing else (s.string k).state) ∧
      (s.smu.address ≠ 0 → s.lnc.queue.length < 16 → ∃ f ∈ t.lnc.queue, f.kind = .arrayResume ∧ f.entry = s.lnc.nextEntry)) ∧
    (expired (s.now.plus dt) s.rsl.lockKey.testAt = true → s.rsl.lockKey.input = true → ∃ t,
      exec (.keyAcceptExpiry dt .lockout) s = .next t ∧ t.rsl.lockKey = { input := true, accepted := true, testAt := none } ∧
      t.pvw = s.pvw ∧ t.sel.arc = none ∧ t.sel.ground = none ∧ (QueueSound s.lnc → ProbePartEnds s t) ∧
      HoldTakenByAll s t (fun h => { h with lockout := true }) .lockout) ∧
    (expired (s.now.plus dt) s.rsl.lockKey.testAt = true → s.rsl.lockKey.input = false → ∃ t,
      exec (.keyAcceptExpiry dt .lockout) s = .next t ∧ t.rsl.lockKey = { input := false, accepted := false, testAt := none } ∧
      t.pvw = s.pvw ∧ t.sel = s.sel ∧ t.prb = s.prb ∧ t.lnc = s.lnc ∧
      ∀ k : StringNo, k.val < s.smu.strings → (t.string k).holds = { (s.string k).holds with lockout := false } ∧
        ((s.string k).state = .opened → (s.string k).holds = { HoldSet.empty with lockout := true } →
          (t.string k).state = .closing))

/-- STOP_REPEAT_EXPIRY while the key is accepted closed drives the line again and starts the repeat again. RECLOSE_EXPIRY
releases a REVERSE or OVERCURRENT hold, counts the reclose up to 3, and a string left without a hold closes, while one
left OPEN keeps its memo in step with its other holds.
CLOSED_TIMER_EXPIRY sets the reclose count to 0 (R118, R141, R153, R165, R167, R169; the error counted for a frame cut by the own break is log
entry 10, a waiting memo retry beside a newer value log entry 20). -/
def Obligations.RepeatAndRecloseTimers : Prop :=
  ∀ (dt : Nat) (s : State), s.started = true →
    (s.rsl.stopKey.accepted = true → expired (s.now.plus dt) s.rsl.repeatAt = true → s.smu.address ≠ 0 →
      exec (.stopRepeatExpiry dt) s = .next (State.settle { s.elapse dt with
        lnc := { s.lnc with
          errors := if s.lnc.rx = .frame ∧ s.lnc.sending = none ∧ s.lnc.suspended = false then min 255 (s.lnc.errors + 1)
            else s.lnc.errors,
          sending := none, tx := [], rx := .sync, rxChars := [], ownRun := true, breakEndAt := some ((s.now.plus dt).plus 300) },
        rsl := { s.rsl with repeatAt := some ((s.now.plus dt).plus 10000) } })) ∧
    (∀ (k : StringNo) (f : FaultHold), expired (s.now.plus dt) s.rsl.str[k].recloseAt = true →
      (s.string k).holds.fault = some f → (f.cause = .reverse ∨ f.cause = .overcurrent) → ∃ t,
        exec (.recloseExpiry dt k) s = .next t ∧ t.rsl.str[k].recloseAt = none ∧
        t.rsl.str[k].reclose = min 3 (s.rsl.str[k].reclose + 1) ∧
        (t.string k).holds = { (s.string k).holds with fault := none, later := none } ∧
        ((s.string k).state = .opened → (s.string k).holds.stop = none → (s.string k).holds.lockout = false →
          (s.string k).holds.service = false → (t.string k).state = .closing) ∧
        ((s.string k).state = .opened → (s.string k).holds.stop ≠ none ∨ (s.string k).holds.lockout = true ∨
          (s.string k).holds.service = true → (t.string k).state = .opened ∧
            MemoInStep s t (s.now.plus dt) k (t.string k).holds) ∧
        (∀ j, j ≠ k → (t.string j).state = (s.string j).state ∧ (t.string j).holds = (s.string j).holds ∧
          t.rsl.str[j] = s.rsl.str[j]) ∧
        t.ssu = s.ssu ∧ t.eve = s.eve ∧ t.sel = s.sel ∧ t.prb = s.prb ∧ t.lnc = s.lnc ∧ t.pvw = s.pvw ∧ t.smu.mem = s.smu.mem) ∧
    (∀ k : StringNo, expired (s.now.plus dt) s.rsl.str[k].closedAt = true →
      exec (.closedTimerExpiry dt k) s = .next (State.settle { s.elapse dt with rsl := { s.rsl with
        str := s.rsl.str.set k.val { s.rsl.str[k] with closedAt := none, reclose := 0 } } }))


end Statements
end

