-- ==== Sys2Proof/Laws/State.lean ====
section
/-! SUPPORT. What each update of the state leaves in each field: one lemma per field and update, true by `rfl`. -/

namespace Sys2Proof.Machine

/-! ### `State.elapse` -/

@[simp] theorem State.elapse_pending (s : State) (dt : Nat) : (s.elapse dt).pending = s.pending := rfl
@[simp] theorem State.elapse_now (s : State) (dt : Nat) : (s.elapse dt).now = s.now.plus dt := rfl
@[simp] theorem State.elapse_freeCount (s : State) (dt : Nat) : (s.elapse dt).freeCount = s.freeCount := rfl
@[simp] theorem State.elapse_smu (s : State) (dt : Nat) : (s.elapse dt).smu = s.smu := rfl
@[simp] theorem State.elapse_ssu (s : State) (dt : Nat) : (s.elapse dt).ssu = s.ssu := rfl
@[simp] theorem State.elapse_eve (s : State) (dt : Nat) : (s.elapse dt).eve = s.eve := rfl
@[simp] theorem State.elapse_sel (s : State) (dt : Nat) : (s.elapse dt).sel = s.sel := rfl
@[simp] theorem State.elapse_prb (s : State) (dt : Nat) : (s.elapse dt).prb = s.prb := rfl
@[simp] theorem State.elapse_lnc (s : State) (dt : Nat) : (s.elapse dt).lnc = s.lnc := rfl
@[simp] theorem State.elapse_pvw (s : State) (dt : Nat) : (s.elapse dt).pvw = s.pvw := rfl
@[simp] theorem State.elapse_swc (s : State) (dt : Nat) : (s.elapse dt).swc = s.swc := rfl
@[simp] theorem State.elapse_rsl (s : State) (dt : Nat) : (s.elapse dt).rsl = s.rsl := rfl
@[simp] theorem State.elapse_rpt (s : State) (dt : Nat) : (s.elapse dt).rpt = s.rpt := rfl

/-! ### `State.settle` -/

@[simp] theorem State.settle_pending (s : State) : s.settle.pending = s.pending := rfl
@[simp] theorem State.settle_now (s : State) : s.settle.now = s.now := rfl
@[simp] theorem State.settle_freeCount (s : State) : s.settle.freeCount = s.freeCount := rfl
@[simp] theorem State.settle_smu (s : State) : s.settle.smu = s.smu := rfl
@[simp] theorem State.settle_ssu (s : State) : s.settle.ssu = s.ssu := rfl
@[simp] theorem State.settle_eve (s : State) : s.settle.eve = s.eve := rfl
@[simp] theorem State.settle_sel (s : State) : s.settle.sel = s.sel := rfl
@[simp] theorem State.settle_prb (s : State) : s.settle.prb = s.prb := rfl
@[simp] theorem State.settle_lnc (s : State) : s.settle.lnc = s.lnc := rfl
@[simp] theorem State.settle_pvw (s : State) : s.settle.pvw = s.pvw := rfl
@[simp] theorem State.settle_swc (s : State) : s.settle.swc = { s.swc with boxTrip := s.boxTripCondition } := rfl
@[simp] theorem State.settle_rsl (s : State) : s.settle.rsl = s.rsl := rfl
@[simp] theorem State.settle_rpt (s : State) : s.settle.rpt = { s.rpt with relay := s.relayCondition && !s.boxTripCondition } := rfl

/-! ### `State.setString` -/

@[simp] theorem State.setString_pending (s : State) (k : StringNo) (f : StringRecord → StringRecord) : (s.setString k f).pending = s.pending := rfl
@[simp] theorem State.setString_now (s : State) (k : StringNo) (f : StringRecord → StringRecord) : (s.setString k f).now = s.now := rfl
@[simp] theorem State.setString_freeCount (s : State) (k : StringNo) (f : StringRecord → StringRecord) : (s.setString k f).freeCount = s.freeCount := rfl
@[simp] theorem State.setString_smu (s : State) (k : StringNo) (f : StringRecord → StringRecord) : (s.setString k f).smu = s.smu := rfl
@[simp] theorem State.setString_ssu (s : State) (k : StringNo) (f : StringRecord → StringRecord) : (s.setString k f).ssu = s.ssu := rfl
@[simp] theorem State.setString_eve (s : State) (k : StringNo) (f : StringRecord → StringRecord) : (s.setString k f).eve = s.eve := rfl
@[simp] theorem State.setString_sel (s : State) (k : StringNo) (f : StringRecord → StringRecord) : (s.setString k f).sel = s.sel := rfl
@[simp] theorem State.setString_prb (s : State) (k : StringNo) (f : StringRecord → StringRecord) : (s.setString k f).prb = s.prb := rfl
@[simp] theorem State.setString_lnc (s : State) (k : StringNo) (f : StringRecord → StringRecord) : (s.setString k f).lnc = s.lnc := rfl
@[simp] theorem State.setString_pvw (s : State) (k : StringNo) (f : StringRecord → StringRecord) : (s.setString k f).pvw = s.pvw := rfl
@[simp] theorem State.setString_swc (s : State) (k : StringNo) (f : StringRecord → StringRecord) : (s.setString k f).swc = { s.swc with str := modifyAt s.swc.str k f } := rfl
@[simp] theorem State.setString_rsl (s : State) (k : StringNo) (f : StringRecord → StringRecord) : (s.setString k f).rsl = s.rsl := rfl
@[simp] theorem State.setString_rpt (s : State) (k : StringNo) (f : StringRecord → StringRecord) : (s.setString k f).rpt = s.rpt := rfl

/-! ### `State.setRelease` -/

@[simp] theorem State.setRelease_pending (s : State) (k : StringNo) (f : ReleaseString → ReleaseString) : (s.setRelease k f).pending = s.pending := rfl
@[simp] theorem State.setRelease_now (s : State) (k : StringNo) (f : ReleaseString → ReleaseString) : (s.setRelease k f).now = s.now := rfl
@[simp] theorem State.setRelease_freeCount (s : State) (k : StringNo) (f : ReleaseString → ReleaseString) : (s.setRelease k f).freeCount = s.freeCount := rfl
@[simp] theorem State.setRelease_smu (s : State) (k : StringNo) (f : ReleaseString → ReleaseString) : (s.setRelease k f).smu = s.smu := rfl
@[simp] theorem State.setRelease_ssu (s : State) (k : StringNo) (f : ReleaseString → ReleaseString) : (s.setRelease k f).ssu = s.ssu := rfl
@[simp] theorem State.setRelease_eve (s : State) (k : StringNo) (f : ReleaseString → ReleaseString) : (s.setRelease k f).eve = s.eve := rfl
@[simp] theorem State.setRelease_sel (s : State) (k : StringNo) (f : ReleaseString → ReleaseString) : (s.setRelease k f).sel = s.sel := rfl
@[simp] theorem State.setRelease_prb (s : State) (k : StringNo) (f : ReleaseString → ReleaseString) : (s.setRelease k f).prb = s.prb := rfl
@[simp] theorem State.setRelease_lnc (s : State) (k : StringNo) (f : ReleaseString → ReleaseString) : (s.setRelease k f).lnc = s.lnc := rfl
@[simp] theorem State.setRelease_pvw (s : State) (k : StringNo) (f : ReleaseString → ReleaseString) : (s.setRelease k f).pvw = s.pvw := rfl
@[simp] theorem State.setRelease_swc (s : State) (k : StringNo) (f : ReleaseString → ReleaseString) : (s.setRelease k f).swc = s.swc := rfl
@[simp] theorem State.setRelease_rsl (s : State) (k : StringNo) (f : ReleaseString → ReleaseString) : (s.setRelease k f).rsl = { s.rsl with str := modifyAt s.rsl.str k f } := rfl
@[simp] theorem State.setRelease_rpt (s : State) (k : StringNo) (f : ReleaseString → ReleaseString) : (s.setRelease k f).rpt = s.rpt := rfl

/-! ### `State.setEvidence` -/

@[simp] theorem State.setEvidence_pending (s : State) (k : StringNo) (f : Evidence → Evidence) : (s.setEvidence k f).pending = s.pending := rfl
@[simp] theorem State.setEvidence_now (s : State) (k : StringNo) (f : Evidence → Evidence) : (s.setEvidence k f).now = s.now := rfl
@[simp] theorem State.setEvidence_freeCount (s : State) (k : StringNo) (f : Evidence → Evidence) : (s.setEvidence k f).freeCount = s.freeCount := rfl
@[simp] theorem State.setEvidence_smu (s : State) (k : StringNo) (f : Evidence → Evidence) : (s.setEvidence k f).smu = s.smu := rfl
@[simp] theorem State.setEvidence_ssu (s : State) (k : StringNo) (f : Evidence → Evidence) : (s.setEvidence k f).ssu = s.ssu := rfl
@[simp] theorem State.setEvidence_eve (s : State) (k : StringNo) (f : Evidence → Evidence) : (s.setEvidence k f).eve = modifyAt s.eve k f := rfl
@[simp] theorem State.setEvidence_sel (s : State) (k : StringNo) (f : Evidence → Evidence) : (s.setEvidence k f).sel = s.sel := rfl
@[simp] theorem State.setEvidence_prb (s : State) (k : StringNo) (f : Evidence → Evidence) : (s.setEvidence k f).prb = s.prb := rfl
@[simp] theorem State.setEvidence_lnc (s : State) (k : StringNo) (f : Evidence → Evidence) : (s.setEvidence k f).lnc = s.lnc := rfl
@[simp] theorem State.setEvidence_pvw (s : State) (k : StringNo) (f : Evidence → Evidence) : (s.setEvidence k f).pvw = s.pvw := rfl
@[simp] theorem State.setEvidence_swc (s : State) (k : StringNo) (f : Evidence → Evidence) : (s.setEvidence k f).swc = s.swc := rfl
@[simp] theorem State.setEvidence_rsl (s : State) (k : StringNo) (f : Evidence → Evidence) : (s.setEvidence k f).rsl = s.rsl := rfl
@[simp] theorem State.setEvidence_rpt (s : State) (k : StringNo) (f : Evidence → Evidence) : (s.setEvidence k f).rpt = s.rpt := rfl

/-! ### `State.setSuspect` -/

@[simp] theorem State.setSuspect_pending (s : State) (k : StringNo) (b : Bool) : (s.setSuspect k b).pending = s.pending := rfl
@[simp] theorem State.setSuspect_now (s : State) (k : StringNo) (b : Bool) : (s.setSuspect k b).now = s.now := rfl
@[simp] theorem State.setSuspect_freeCount (s : State) (k : StringNo) (b : Bool) : (s.setSuspect k b).freeCount = s.freeCount := rfl
@[simp] theorem State.setSuspect_smu (s : State) (k : StringNo) (b : Bool) : (s.setSuspect k b).smu = s.smu := rfl
@[simp] theorem State.setSuspect_ssu (s : State) (k : StringNo) (b : Bool) : (s.setSuspect k b).ssu = s.ssu := rfl
@[simp] theorem State.setSuspect_eve (s : State) (k : StringNo) (b : Bool) : (s.setSuspect k b).eve = s.eve := rfl
@[simp] theorem State.setSuspect_sel (s : State) (k : StringNo) (b : Bool) : (s.setSuspect k b).sel = { s.sel with suspect := modifyAt s.sel.suspect k fun _ => b } := rfl
@[simp] theorem State.setSuspect_prb (s : State) (k : StringNo) (b : Bool) : (s.setSuspect k b).prb = s.prb := rfl
@[simp] theorem State.setSuspect_lnc (s : State) (k : StringNo) (b : Bool) : (s.setSuspect k b).lnc = s.lnc := rfl
@[simp] theorem State.setSuspect_pvw (s : State) (k : StringNo) (b : Bool) : (s.setSuspect k b).pvw = s.pvw := rfl
@[simp] theorem State.setSuspect_swc (s : State) (k : StringNo) (b : Bool) : (s.setSuspect k b).swc = s.swc := rfl
@[simp] theorem State.setSuspect_rsl (s : State) (k : StringNo) (b : Bool) : (s.setSuspect k b).rsl = s.rsl := rfl
@[simp] theorem State.setSuspect_rpt (s : State) (k : StringNo) (b : Bool) : (s.setSuspect k b).rpt = s.rpt := rfl

/-! ### `State.setSmu` -/

@[simp] theorem State.setSmu_pending (s : State) (x : Smu) : (s.setSmu x).pending = s.pending := rfl
@[simp] theorem State.setSmu_now (s : State) (x : Smu) : (s.setSmu x).now = s.now := rfl
@[simp] theorem State.setSmu_freeCount (s : State) (x : Smu) : (s.setSmu x).freeCount = s.freeCount := rfl
@[simp] theorem State.setSmu_smu (s : State) (x : Smu) : (s.setSmu x).smu = x := rfl
@[simp] theorem State.setSmu_ssu (s : State) (x : Smu) : (s.setSmu x).ssu = s.ssu := rfl
@[simp] theorem State.setSmu_eve (s : State) (x : Smu) : (s.setSmu x).eve = s.eve := rfl
@[simp] theorem State.setSmu_sel (s : State) (x : Smu) : (s.setSmu x).sel = s.sel := rfl
@[simp] theorem State.setSmu_prb (s : State) (x : Smu) : (s.setSmu x).prb = s.prb := rfl
@[simp] theorem State.setSmu_lnc (s : State) (x : Smu) : (s.setSmu x).lnc = s.lnc := rfl
@[simp] theorem State.setSmu_pvw (s : State) (x : Smu) : (s.setSmu x).pvw = s.pvw := rfl
@[simp] theorem State.setSmu_swc (s : State) (x : Smu) : (s.setSmu x).swc = s.swc := rfl
@[simp] theorem State.setSmu_rsl (s : State) (x : Smu) : (s.setSmu x).rsl = s.rsl := rfl
@[simp] theorem State.setSmu_rpt (s : State) (x : Smu) : (s.setSmu x).rpt = s.rpt := rfl

/-! ### `State.setPrb` -/

@[simp] theorem State.setPrb_pending (s : State) (x : Prb) : (s.setPrb x).pending = s.pending := rfl
@[simp] theorem State.setPrb_now (s : State) (x : Prb) : (s.setPrb x).now = s.now := rfl
@[simp] theorem State.setPrb_freeCount (s : State) (x : Prb) : (s.setPrb x).freeCount = s.freeCount := rfl
@[simp] theorem State.setPrb_smu (s : State) (x : Prb) : (s.setPrb x).smu = s.smu := rfl
@[simp] theorem State.setPrb_ssu (s : State) (x : Prb) : (s.setPrb x).ssu = s.ssu := rfl
@[simp] theorem State.setPrb_eve (s : State) (x : Prb) : (s.setPrb x).eve = s.eve := rfl
@[simp] theorem State.setPrb_sel (s : State) (x : Prb) : (s.setPrb x).sel = s.sel := rfl
@[simp] theorem State.setPrb_prb (s : State) (x : Prb) : (s.setPrb x).prb = x := rfl
@[simp] theorem State.setPrb_lnc (s : State) (x : Prb) : (s.setPrb x).lnc = s.lnc := rfl
@[simp] theorem State.setPrb_pvw (s : State) (x : Prb) : (s.setPrb x).pvw = s.pvw := rfl
@[simp] theorem State.setPrb_swc (s : State) (x : Prb) : (s.setPrb x).swc = s.swc := rfl
@[simp] theorem State.setPrb_rsl (s : State) (x : Prb) : (s.setPrb x).rsl = s.rsl := rfl
@[simp] theorem State.setPrb_rpt (s : State) (x : Prb) : (s.setPrb x).rpt = s.rpt := rfl

/-! ### `State.setWindow` -/

@[simp] theorem State.setWindow_pending (s : State) (w : Window) : (s.setWindow w).pending = s.pending := rfl
@[simp] theorem State.setWindow_now (s : State) (w : Window) : (s.setWindow w).now = s.now := rfl
@[simp] theorem State.setWindow_freeCount (s : State) (w : Window) : (s.setWindow w).freeCount = s.freeCount := rfl
@[simp] theorem State.setWindow_smu (s : State) (w : Window) : (s.setWindow w).smu = s.smu := rfl
@[simp] theorem State.setWindow_ssu (s : State) (w : Window) : (s.setWindow w).ssu = s.ssu := rfl
@[simp] theorem State.setWindow_eve (s : State) (w : Window) : (s.setWindow w).eve = s.eve := rfl
@[simp] theorem State.setWindow_sel (s : State) (w : Window) : (s.setWindow w).sel = s.sel := rfl
@[simp] theorem State.setWindow_prb (s : State) (w : Window) : (s.setWindow w).prb = { s.prb with window := some w } := rfl
@[simp] theorem State.setWindow_lnc (s : State) (w : Window) : (s.setWindow w).lnc = s.lnc := rfl
@[simp] theorem State.setWindow_pvw (s : State) (w : Window) : (s.setWindow w).pvw = s.pvw := rfl
@[simp] theorem State.setWindow_swc (s : State) (w : Window) : (s.setWindow w).swc = s.swc := rfl
@[simp] theorem State.setWindow_rsl (s : State) (w : Window) : (s.setWindow w).rsl = s.rsl := rfl
@[simp] theorem State.setWindow_rpt (s : State) (w : Window) : (s.setWindow w).rpt = s.rpt := rfl

/-! ### `State.setLnc` -/

@[simp] theorem State.setLnc_pending (s : State) (x : Lnc) : (s.setLnc x).pending = s.pending := rfl
@[simp] theorem State.setLnc_now (s : State) (x : Lnc) : (s.setLnc x).now = s.now := rfl
@[simp] theorem State.setLnc_freeCount (s : State) (x : Lnc) : (s.setLnc x).freeCount = s.freeCount := rfl
@[simp] theorem State.setLnc_smu (s : State) (x : Lnc) : (s.setLnc x).smu = s.smu := rfl
@[simp] theorem State.setLnc_ssu (s : State) (x : Lnc) : (s.setLnc x).ssu = s.ssu := rfl
@[simp] theorem State.setLnc_eve (s : State) (x : Lnc) : (s.setLnc x).eve = s.eve := rfl
@[simp] theorem State.setLnc_sel (s : State) (x : Lnc) : (s.setLnc x).sel = s.sel := rfl
@[simp] theorem State.setLnc_prb (s : State) (x : Lnc) : (s.setLnc x).prb = s.prb := rfl
@[simp] theorem State.setLnc_lnc (s : State) (x : Lnc) : (s.setLnc x).lnc = x := rfl
@[simp] theorem State.setLnc_pvw (s : State) (x : Lnc) : (s.setLnc x).pvw = s.pvw := rfl
@[simp] theorem State.setLnc_swc (s : State) (x : Lnc) : (s.setLnc x).swc = s.swc := rfl
@[simp] theorem State.setLnc_rsl (s : State) (x : Lnc) : (s.setLnc x).rsl = s.rsl := rfl
@[simp] theorem State.setLnc_rpt (s : State) (x : Lnc) : (s.setLnc x).rpt = s.rpt := rfl

/-! ### `State.setArc` -/

@[simp] theorem State.setArc_pending (s : State) (i : Option Incident) : (s.setArc i).pending = s.pending := rfl
@[simp] theorem State.setArc_now (s : State) (i : Option Incident) : (s.setArc i).now = s.now := rfl
@[simp] theorem State.setArc_freeCount (s : State) (i : Option Incident) : (s.setArc i).freeCount = s.freeCount := rfl
@[simp] theorem State.setArc_smu (s : State) (i : Option Incident) : (s.setArc i).smu = s.smu := rfl
@[simp] theorem State.setArc_ssu (s : State) (i : Option Incident) : (s.setArc i).ssu = s.ssu := rfl
@[simp] theorem State.setArc_eve (s : State) (i : Option Incident) : (s.setArc i).eve = s.eve := rfl
@[simp] theorem State.setArc_sel (s : State) (i : Option Incident) : (s.setArc i).sel = { s.sel with arc := i } := rfl
@[simp] theorem State.setArc_prb (s : State) (i : Option Incident) : (s.setArc i).prb = s.prb := rfl
@[simp] theorem State.setArc_lnc (s : State) (i : Option Incident) : (s.setArc i).lnc = s.lnc := rfl
@[simp] theorem State.setArc_pvw (s : State) (i : Option Incident) : (s.setArc i).pvw = s.pvw := rfl
@[simp] theorem State.setArc_swc (s : State) (i : Option Incident) : (s.setArc i).swc = s.swc := rfl
@[simp] theorem State.setArc_rsl (s : State) (i : Option Incident) : (s.setArc i).rsl = s.rsl := rfl
@[simp] theorem State.setArc_rpt (s : State) (i : Option Incident) : (s.setArc i).rpt = s.rpt := rfl

/-! ### `State.setGround` -/

@[simp] theorem State.setGround_pending (s : State) (i : Option Incident) : (s.setGround i).pending = s.pending := rfl
@[simp] theorem State.setGround_now (s : State) (i : Option Incident) : (s.setGround i).now = s.now := rfl
@[simp] theorem State.setGround_freeCount (s : State) (i : Option Incident) : (s.setGround i).freeCount = s.freeCount := rfl
@[simp] theorem State.setGround_smu (s : State) (i : Option Incident) : (s.setGround i).smu = s.smu := rfl
@[simp] theorem State.setGround_ssu (s : State) (i : Option Incident) : (s.setGround i).ssu = s.ssu := rfl
@[simp] theorem State.setGround_eve (s : State) (i : Option Incident) : (s.setGround i).eve = s.eve := rfl
@[simp] theorem State.setGround_sel (s : State) (i : Option Incident) : (s.setGround i).sel = { s.sel with ground := i } := rfl
@[simp] theorem State.setGround_prb (s : State) (i : Option Incident) : (s.setGround i).prb = s.prb := rfl
@[simp] theorem State.setGround_lnc (s : State) (i : Option Incident) : (s.setGround i).lnc = s.lnc := rfl
@[simp] theorem State.setGround_pvw (s : State) (i : Option Incident) : (s.setGround i).pvw = s.pvw := rfl
@[simp] theorem State.setGround_swc (s : State) (i : Option Incident) : (s.setGround i).swc = s.swc := rfl
@[simp] theorem State.setGround_rsl (s : State) (i : Option Incident) : (s.setGround i).rsl = s.rsl := rfl
@[simp] theorem State.setGround_rpt (s : State) (i : Option Incident) : (s.setGround i).rpt = s.rpt := rfl

/-! ### `State.setStopSet` -/

@[simp] theorem State.setStopSet_pending (s : State) (xs : List Nat) : (s.setStopSet xs).pending = s.pending := rfl
@[simp] theorem State.setStopSet_now (s : State) (xs : List Nat) : (s.setStopSet xs).now = s.now := rfl
@[simp] theorem State.setStopSet_freeCount (s : State) (xs : List Nat) : (s.setStopSet xs).freeCount = s.freeCount := rfl
@[simp] theorem State.setStopSet_smu (s : State) (xs : List Nat) : (s.setStopSet xs).smu = s.smu := rfl
@[simp] theorem State.setStopSet_ssu (s : State) (xs : List Nat) : (s.setStopSet xs).ssu = s.ssu := rfl
@[simp] theorem State.setStopSet_eve (s : State) (xs : List Nat) : (s.setStopSet xs).eve = s.eve := rfl
@[simp] theorem State.setStopSet_sel (s : State) (xs : List Nat) : (s.setStopSet xs).sel = s.sel := rfl
@[simp] theorem State.setStopSet_prb (s : State) (xs : List Nat) : (s.setStopSet xs).prb = s.prb := rfl
@[simp] theorem State.setStopSet_lnc (s : State) (xs : List Nat) : (s.setStopSet xs).lnc = s.lnc := rfl
@[simp] theorem State.setStopSet_pvw (s : State) (xs : List Nat) : (s.setStopSet xs).pvw = { s.pvw with stopSet := xs } := rfl
@[simp] theorem State.setStopSet_swc (s : State) (xs : List Nat) : (s.setStopSet xs).swc = s.swc := rfl
@[simp] theorem State.setStopSet_rsl (s : State) (xs : List Nat) : (s.setStopSet xs).rsl = s.rsl := rfl
@[simp] theorem State.setStopSet_rpt (s : State) (xs : List Nat) : (s.setStopSet xs).rpt = s.rpt := rfl

/-! ### `State.setPeer` -/

@[simp] theorem State.setPeer_pending (s : State) (p : PeerNo) (e : PeerEntry) : (s.setPeer p e).pending = s.pending := rfl
@[simp] theorem State.setPeer_now (s : State) (p : PeerNo) (e : PeerEntry) : (s.setPeer p e).now = s.now := rfl
@[simp] theorem State.setPeer_freeCount (s : State) (p : PeerNo) (e : PeerEntry) : (s.setPeer p e).freeCount = s.freeCount := rfl
@[simp] theorem State.setPeer_smu (s : State) (p : PeerNo) (e : PeerEntry) : (s.setPeer p e).smu = s.smu := rfl
@[simp] theorem State.setPeer_ssu (s : State) (p : PeerNo) (e : PeerEntry) : (s.setPeer p e).ssu = s.ssu := rfl
@[simp] theorem State.setPeer_eve (s : State) (p : PeerNo) (e : PeerEntry) : (s.setPeer p e).eve = s.eve := rfl
@[simp] theorem State.setPeer_sel (s : State) (p : PeerNo) (e : PeerEntry) : (s.setPeer p e).sel = s.sel := rfl
@[simp] theorem State.setPeer_prb (s : State) (p : PeerNo) (e : PeerEntry) : (s.setPeer p e).prb = s.prb := rfl
@[simp] theorem State.setPeer_lnc (s : State) (p : PeerNo) (e : PeerEntry) : (s.setPeer p e).lnc = s.lnc := rfl
@[simp] theorem State.setPeer_pvw (s : State) (p : PeerNo) (e : PeerEntry) : (s.setPeer p e).pvw = { s.pvw with peers := s.pvw.peers.set p.val e } := rfl
@[simp] theorem State.setPeer_swc (s : State) (p : PeerNo) (e : PeerEntry) : (s.setPeer p e).swc = s.swc := rfl
@[simp] theorem State.setPeer_rsl (s : State) (p : PeerNo) (e : PeerEntry) : (s.setPeer p e).rsl = s.rsl := rfl
@[simp] theorem State.setPeer_rpt (s : State) (p : PeerNo) (e : PeerEntry) : (s.setPeer p e).rpt = s.rpt := rfl

/-! ### `State.setButton` -/

@[simp] theorem State.setButton_pending (s : State) (b : ButtonState) (x : Option Time) : (s.setButton b x).pending = s.pending := rfl
@[simp] theorem State.setButton_now (s : State) (b : ButtonState) (x : Option Time) : (s.setButton b x).now = s.now := rfl
@[simp] theorem State.setButton_freeCount (s : State) (b : ButtonState) (x : Option Time) : (s.setButton b x).freeCount = s.freeCount := rfl
@[simp] theorem State.setButton_smu (s : State) (b : ButtonState) (x : Option Time) : (s.setButton b x).smu = s.smu := rfl
@[simp] theorem State.setButton_ssu (s : State) (b : ButtonState) (x : Option Time) : (s.setButton b x).ssu = s.ssu := rfl
@[simp] theorem State.setButton_eve (s : State) (b : ButtonState) (x : Option Time) : (s.setButton b x).eve = s.eve := rfl
@[simp] theorem State.setButton_sel (s : State) (b : ButtonState) (x : Option Time) : (s.setButton b x).sel = s.sel := rfl
@[simp] theorem State.setButton_prb (s : State) (b : ButtonState) (x : Option Time) : (s.setButton b x).prb = s.prb := rfl
@[simp] theorem State.setButton_lnc (s : State) (b : ButtonState) (x : Option Time) : (s.setButton b x).lnc = s.lnc := rfl
@[simp] theorem State.setButton_pvw (s : State) (b : ButtonState) (x : Option Time) : (s.setButton b x).pvw = s.pvw := rfl
@[simp] theorem State.setButton_swc (s : State) (b : ButtonState) (x : Option Time) : (s.setButton b x).swc = s.swc := rfl
@[simp] theorem State.setButton_rsl (s : State) (b : ButtonState) (x : Option Time) : (s.setButton b x).rsl = { s.rsl with button := b, buttonAt := x } := rfl
@[simp] theorem State.setButton_rpt (s : State) (b : ButtonState) (x : Option Time) : (s.setButton b x).rpt = s.rpt := rfl

/-! ### `State.removeEntry` -/

@[simp] theorem State.removeEntry_pending (s : State) (e : Nat) : (s.removeEntry e).pending = s.pending := rfl
@[simp] theorem State.removeEntry_now (s : State) (e : Nat) : (s.removeEntry e).now = s.now := rfl
@[simp] theorem State.removeEntry_freeCount (s : State) (e : Nat) : (s.removeEntry e).freeCount = s.freeCount := rfl
@[simp] theorem State.removeEntry_smu (s : State) (e : Nat) : (s.removeEntry e).smu = s.smu := rfl
@[simp] theorem State.removeEntry_ssu (s : State) (e : Nat) : (s.removeEntry e).ssu = s.ssu := rfl
@[simp] theorem State.removeEntry_eve (s : State) (e : Nat) : (s.removeEntry e).eve = s.eve := rfl
@[simp] theorem State.removeEntry_sel (s : State) (e : Nat) : (s.removeEntry e).sel = s.sel := rfl
@[simp] theorem State.removeEntry_prb (s : State) (e : Nat) : (s.removeEntry e).prb = s.prb := rfl
@[simp] theorem State.removeEntry_lnc (s : State) (e : Nat) : (s.removeEntry e).lnc = { s.lnc with queue := s.lnc.queue.filter fun f => f.entry != e } := rfl
@[simp] theorem State.removeEntry_pvw (s : State) (e : Nat) : (s.removeEntry e).pvw = s.pvw := rfl
@[simp] theorem State.removeEntry_swc (s : State) (e : Nat) : (s.removeEntry e).swc = s.swc := rfl
@[simp] theorem State.removeEntry_rsl (s : State) (e : Nat) : (s.removeEntry e).rsl = s.rsl := rfl
@[simp] theorem State.removeEntry_rpt (s : State) (e : Nat) : (s.removeEntry e).rpt = s.rpt := rfl

/-! ### `State.enterFrame` -/

@[simp] theorem State.enterFrame_pending (s : State) (f : QueuedFrame) : (s.enterFrame f).pending = s.pending := rfl
@[simp] theorem State.enterFrame_now (s : State) (f : QueuedFrame) : (s.enterFrame f).now = s.now := rfl
@[simp] theorem State.enterFrame_freeCount (s : State) (f : QueuedFrame) : (s.enterFrame f).freeCount = s.freeCount := rfl
@[simp] theorem State.enterFrame_smu (s : State) (f : QueuedFrame) : (s.enterFrame f).smu = s.smu := rfl
@[simp] theorem State.enterFrame_ssu (s : State) (f : QueuedFrame) : (s.enterFrame f).ssu = s.ssu := rfl
@[simp] theorem State.enterFrame_eve (s : State) (f : QueuedFrame) : (s.enterFrame f).eve = s.eve := rfl
@[simp] theorem State.enterFrame_sel (s : State) (f : QueuedFrame) : (s.enterFrame f).sel = s.sel := rfl
@[simp] theorem State.enterFrame_prb (s : State) (f : QueuedFrame) : (s.enterFrame f).prb = s.prb := rfl
@[simp] theorem State.enterFrame_lnc (s : State) (f : QueuedFrame) : (s.enterFrame f).lnc = { s.lnc with queue := insertFrame { f with entry := s.lnc.nextEntry } s.lnc.queue, nextEntry := s.lnc.nextEntry + 1 } := rfl
@[simp] theorem State.enterFrame_pvw (s : State) (f : QueuedFrame) : (s.enterFrame f).pvw = s.pvw := rfl
@[simp] theorem State.enterFrame_swc (s : State) (f : QueuedFrame) : (s.enterFrame f).swc = s.swc := rfl
@[simp] theorem State.enterFrame_rsl (s : State) (f : QueuedFrame) : (s.enterFrame f).rsl = s.rsl := rfl
@[simp] theorem State.enterFrame_rpt (s : State) (f : QueuedFrame) : (s.enterFrame f).rpt = s.rpt := rfl

/-! ### `State.engineIdle` -/

@[simp] theorem State.engineIdle_pending (s : State) : s.engineIdle.pending = s.pending := rfl
@[simp] theorem State.engineIdle_now (s : State) : s.engineIdle.now = s.now := rfl
@[simp] theorem State.engineIdle_freeCount (s : State) : s.engineIdle.freeCount = s.freeCount := rfl
@[simp] theorem State.engineIdle_smu (s : State) : s.engineIdle.smu = s.smu := rfl
@[simp] theorem State.engineIdle_ssu (s : State) : s.engineIdle.ssu = s.ssu := rfl
@[simp] theorem State.engineIdle_eve (s : State) : s.engineIdle.eve = s.eve := rfl
@[simp] theorem State.engineIdle_sel (s : State) : s.engineIdle.sel = s.sel := rfl
@[simp] theorem State.engineIdle_prb (s : State) : s.engineIdle.prb = s.prb := rfl
@[simp] theorem State.engineIdle_lnc (s : State) : s.engineIdle.lnc = s.lnc := rfl
@[simp] theorem State.engineIdle_pvw (s : State) : s.engineIdle.pvw = s.pvw := rfl
@[simp] theorem State.engineIdle_swc (s : State) : s.engineIdle.swc = { s.swc with engine := .idle, coil := none, pulseEndAt := none, confirmAt := none } := rfl
@[simp] theorem State.engineIdle_rsl (s : State) : s.engineIdle.rsl = s.rsl := rfl
@[simp] theorem State.engineIdle_rpt (s : State) : s.engineIdle.rpt = s.rpt := rfl

/-! ### `State.pulseEnds` -/

@[simp] theorem State.pulseEnds_pending (s : State) : s.pulseEnds.pending = s.pending := rfl
@[simp] theorem State.pulseEnds_now (s : State) : s.pulseEnds.now = s.now := rfl
@[simp] theorem State.pulseEnds_freeCount (s : State) : s.pulseEnds.freeCount = s.freeCount := rfl
@[simp] theorem State.pulseEnds_smu (s : State) : s.pulseEnds.smu = s.smu := rfl
@[simp] theorem State.pulseEnds_ssu (s : State) : s.pulseEnds.ssu = s.ssu := rfl
@[simp] theorem State.pulseEnds_eve (s : State) : s.pulseEnds.eve = s.eve := rfl
@[simp] theorem State.pulseEnds_sel (s : State) : s.pulseEnds.sel = s.sel := rfl
@[simp] theorem State.pulseEnds_prb (s : State) : s.pulseEnds.prb = s.prb := rfl
@[simp] theorem State.pulseEnds_lnc (s : State) : s.pulseEnds.lnc = s.lnc := rfl
@[simp] theorem State.pulseEnds_pvw (s : State) : s.pulseEnds.pvw = s.pvw := rfl
@[simp] theorem State.pulseEnds_swc (s : State) : s.pulseEnds.swc = { s.swc with coil := none, pulseEndAt := none, ready := false, rechargeAt := some (s.now.plus rechargeMs) } := rfl
@[simp] theorem State.pulseEnds_rsl (s : State) : s.pulseEnds.rsl = s.rsl := rfl
@[simp] theorem State.pulseEnds_rpt (s : State) : s.pulseEnds.rpt = s.rpt := rfl

/-! ### Per-string tables -/

@[simp] theorem modifyAt_same {α : Type} (v : PerString α) (k : StringNo) (f : α → α) : (modifyAt v k f)[k] = f v[k] := by
  simp [modifyAt]

theorem modifyAt_other {α : Type} (v : PerString α) (k j : StringNo) (f : α → α) (h : j ≠ k) : (modifyAt v k f)[j] = v[j] := by
  have h' : k.val ≠ j.val := fun e => h (Fin.ext e.symm)
  simp [modifyAt, h']

theorem modifyAt_get {α : Type} (v : PerString α) (k j : StringNo) (f : α → α) :
    (modifyAt v k f)[j] = if j = k then f v[k] else v[j] := by
  split
  · next h => subst h; exact modifyAt_same v j f
  · next h => exact modifyAt_other v k j f h

@[simp] theorem State.setString_string (s : State) (k : StringNo) (f : StringRecord → StringRecord) :
    (s.setString k f).string k = f (s.string k) := modifyAt_same _ k f

theorem State.setString_other (s : State) (k j : StringNo) (f : StringRecord → StringRecord) (h : j ≠ k) :
    (s.setString k f).string j = s.string j := modifyAt_other _ k j f h

@[simp] theorem State.setRelease_same (s : State) (k : StringNo) (f : ReleaseString → ReleaseString) :
    (s.setRelease k f).rsl.str[k] = f s.rsl.str[k] := modifyAt_same _ k f

@[simp] theorem State.setEvidence_same (s : State) (k : StringNo) (f : Evidence → Evidence) :
    (s.setEvidence k f).eve[k] = f s.eve[k] := modifyAt_same _ k f

/-! ### The shape of a meaning -/

/-- Every meaning but RESET's answers a next state: the effect after the time, with the outputs settled. -/
theorem State.event_next (s : State) (dt : Nat) (f : State → State) : s.event dt f = .next (f (s.elapse dt)).settle := rfl

@[simp] theorem whenStarted_of (f : State → State) (s : State) (h : s.started = true) : whenStarted f s = f s := if_pos h

theorem State.settle_boxTripCondition (s : State) : s.settle.boxTripCondition = s.boxTripCondition := rfl

theorem State.settle_relayCondition (s : State) : s.settle.relayCondition = s.relayCondition := rfl

theorem State.elapse_started (s : State) (dt : Nat) : (s.elapse dt).started = s.started := rfl

end Sys2Proof.Machine
end

