-- ==== Sys2Proof/Laws/Line.lean ====
section
/-! SUPPORT. What the transmit queue and the Claim Log operations can do, the levels of a frame, and what reading them back says. -/

namespace Sys2Proof.Machine

/-- A frame enters the queue: nothing else in it changes. -/
theorem mem_insertFrame (f g : QueuedFrame) (q : List QueuedFrame) : g ∈ insertFrame f q ↔ g = f ∨ g ∈ q := by
  induction q with
  | nil => simp [insertFrame]
  | cons h rest ih =>
    unfold insertFrame
    split
    · simp
    · simp [ih, or_left_comm]

theorem length_insertFrame (f : QueuedFrame) (q : List QueuedFrame) : (insertFrame f q).length = q.length + 1 := by
  induction q with
  | nil => rfl
  | cons h rest ih => unfold insertFrame; split <;> simp [ih]

/-- Entering a frame whose number is above those of its kind keeps the order by kind code and entry number (R104). -/
theorem insertFrame_ordered (f : QueuedFrame) (q : List QueuedFrame)
    (hq : q.Pairwise fun a b => a.kind.code < b.kind.code ∨ (a.kind.code = b.kind.code ∧ a.entry < b.entry))
    (hf : ∀ g ∈ q, g.entry < f.entry) :
    (insertFrame f q).Pairwise fun a b => a.kind.code < b.kind.code ∨ (a.kind.code = b.kind.code ∧ a.entry < b.entry) := by
  induction q with
  | nil => simp [insertFrame]
  | cons h rest ih =>
    rw [List.pairwise_cons] at hq
    unfold insertFrame
    split
    · next hlt =>
      refine List.pairwise_cons.2 ⟨fun g hg => ?_, List.pairwise_cons.2 hq⟩
      rcases List.mem_cons.1 hg with rfl | hg
      · exact .inl hlt
      · rcases hq.1 g hg with h1 | h1 <;> exact .inl (by omega)
    · next hge =>
      refine List.pairwise_cons.2 ⟨fun g hg => ?_, ih hq.2 fun g hg => hf g (List.mem_cons_of_mem _ hg)⟩
      rcases (mem_insertFrame f g rest).1 hg with rfl | hg
      · have := hf h (List.mem_cons_self ..)
        by_cases e : h.kind.code = g.kind.code
        · exact .inr ⟨e, this⟩
        · exact .inl (by omega)
      · exact hq.1 g hg

/-- Removing by entry number a frame that is queued makes room. -/
theorem length_removeEntry (s : State) (f : QueuedFrame) (h : f ∈ s.lnc.queue) :
    (s.removeEntry f.entry).lnc.queue.length < s.lnc.queue.length := by
  simp only [State.removeEntry_lnc]
  refine List.length_filter_lt_length_iff_exists.2 ⟨f, h, by simp⟩

theorem State.queuedOf_mem {s : State} {k : Kind} {f : QueuedFrame} (h : s.queuedOf k = some f) : f ∈ s.lnc.queue ∧ f.kind = k :=
  ⟨List.mem_of_find?_eq_some h, by simpa using List.find?_some h⟩

theorem State.oldestEvictable_mem {s : State} {f : QueuedFrame} (h : s.oldestEvictable = some f) :
    f ∈ s.lnc.queue ∧ s.evictable f = true := by
  have key : ∀ (q : List QueuedFrame) (b : Option QueuedFrame), (∀ g, b = some g → g ∈ s.lnc.queue ∧ s.evictable g = true) →
      (∀ g ∈ q, g ∈ s.lnc.queue ∧ s.evictable g = true) →
      ∀ g, q.foldl (fun best f => match best with
        | none => some f
        | some b => if f.entry < b.entry then some f else some b) b = some g → g ∈ s.lnc.queue ∧ s.evictable g = true := by
    intro q
    induction q with
    | nil => exact fun b hb _ g hg => hb g hg
    | cons x q ih =>
      intro b hb hq g hg
      refine ih _ ?_ (fun y hy => hq y (List.mem_cons_of_mem _ hy)) g hg
      intro y hy
      have hx := hq x (List.mem_cons_self ..)
      cases b with
      | none => simp only [Option.some.injEq] at hy; exact hy ▸ hx
      | some b =>
        simp only at hy
        split at hy
        · exact (Option.some.inj hy) ▸ hx
        · exact hb y hy
  exact key _ none (by simp) (fun g hg => ⟨(List.mem_filter.1 hg).1, (List.mem_filter.1 hg).2⟩) f h

/-- Everything a hand-over to the LNC can do once the frame is not a STATUS in its attempt: refuse and change nothing, or
enter the frame in a queue from which at most one frame was removed (R105). -/
theorem State.makeRoomAndEnter_cases (s : State) (f : QueuedFrame) :
    (s.makeRoomAndEnter f = (s, false)) ∨
    (s.makeRoomAndEnter f = (s.enterFrame f, true) ∧ s.lnc.queue.length < capacity) ∨
    (∃ old ∈ s.lnc.queue, s.evictable old = true ∧ s.makeRoomAndEnter f = ((s.removeEntry old.entry).enterFrame f, true)) := by
  unfold State.makeRoomAndEnter
  split
  · next h => exact .inr (.inl ⟨rfl, h⟩)
  · split
    · next old h => exact .inr (.inr ⟨old, (State.oldestEvictable_mem h).1, (State.oldestEvictable_mem h).2, rfl⟩)
    · exact .inl rfl

theorem State.makeRoomAndEnter_length (s : State) (f : QueuedFrame) (h : s.lnc.queue.length ≤ 16) :
    (s.makeRoomAndEnter f).1.lnc.queue.length ≤ 16 := by
  rcases s.makeRoomAndEnter_cases f with e | ⟨e, hl⟩ | ⟨old, hm, _, e⟩
  · rw [e]; exact h
  · rw [e]
    simp only [State.enterFrame_lnc, length_insertFrame]
    exact hl
  · rw [e]
    have := length_removeEntry s old hm
    simp only [State.enterFrame_lnc, length_insertFrame]
    omega

/-- The queue never grows above 16 by a hand-over (R104, R105). -/
theorem State.enqueue_length (s : State) (f : QueuedFrame) (h : s.lnc.queue.length ≤ 16) :
    (s.enqueue f).1.lnc.queue.length ≤ 16 := by
  unfold State.enqueue
  split
  · exact h
  · split
    · split
      · next old ho =>
        split
        · exact h
        · have := length_removeEntry s old (State.queuedOf_mem ho).1
          simp only [State.enterFrame_lnc, length_insertFrame]
          omega
      · exact State.makeRoomAndEnter_length s f h
    · split
      · exact h
      · exact State.makeRoomAndEnter_length s f h

/-- At a listen-only station every frame is refused (R105, step 1). -/
theorem State.enqueue_listenOnly (s : State) (f : QueuedFrame) (h : s.listenOnly = true) : s.enqueue f = (s, false) := by
  unfold State.enqueue
  exact if_pos h

/-- A withdrawal removes at most the frame, or notes the request in it (R110). -/
theorem State.withdraw_length (s : State) (k : Kind) : (s.withdraw k).1.lnc.queue.length ≤ s.lnc.queue.length := by
  unfold State.withdraw
  split
  · exact Nat.le_refl _
  · split
    · simp
    · simpa using List.length_filter_le _ _

theorem eldest_mem {now : Time} {es : List ClaimEntry} {x : ClaimEntry} (h : eldest now es = some x) : x ∈ es := by
  have key : ∀ (q : List ClaimEntry) (b : Option ClaimEntry), (∀ g, b = some g → g ∈ es) → (∀ g ∈ q, g ∈ es) →
      ∀ g, q.foldl (fun best e => match best with
        | none => some e
        | some b => if now.since b.arrival < now.since e.arrival then some e else some b) b = some g → g ∈ es := by
    intro q
    induction q with
    | nil => exact fun b hb _ g hg => hb g hg
    | cons x q ih =>
      intro b hb hq g hg
      refine ih _ ?_ (fun y hy => hq y (List.mem_cons_of_mem _ hy)) g hg
      intro y hy
      cases b with
      | none => simp only [Option.some.injEq] at hy; exact hy ▸ hq x (List.mem_cons_self ..)
      | some b =>
        simp only at hy
        split at hy
        · exact (Option.some.inj hy) ▸ hq x (List.mem_cons_self ..)
        · exact hb y hy
  exact key es none (by simp) (fun _ hg => hg) x h

/-- The Claim Log never holds more than 16 entries (R28). -/
theorem logEntry_length (now : Time) (es : List ClaimEntry) (e : ClaimEntry) (h : es.length ≤ 16) :
    (logEntry now es e).length ≤ 16 := by
  unfold logEntry
  split
  · simpa [replaceClaim] using h
  · split
    · next hl => simp only [List.length_append, List.length_singleton]; exact hl
    · split
      · exact Nat.le_of_lt_succ (by simp)
      · next old ho =>
        have : (es.filter fun x => !sameClaim x old).length < es.length :=
          List.length_filter_lt_length_iff_exists.2 ⟨old, eldest_mem ho, by simp [sameClaim]⟩
        simp only [List.length_append, List.length_singleton]
        omega

/-- The entry made is in the log. -/
theorem logEntry_mem (now : Time) (es : List ClaimEntry) (e : ClaimEntry) : e ∈ logEntry now es e := by
  unfold logEntry
  split
  · next h =>
    obtain ⟨x, hx, hs⟩ := List.any_eq_true.1 h
    exact List.mem_map.2 ⟨x, hx, by simp [hs]⟩
  · split
    · simp
    · split <;> simp

/-! ### The form of a frame (R189) -/

theorem entriesFit_false (xs : List Byte) : entriesFit xs = false ↔
    ∃ x ∈ xs, x.toNat / 16 = 0 ∨ 12 < x.toNat / 16 ∨ x.toNat % 16 = 0 ∨ 14 < x.toNat % 16 := by
  simp only [entriesFit, List.all_eq_false, Bool.not_eq_true, Bool.and_eq_false_iff, decide_eq_false_iff_not]
  exact exists_congr fun x => and_congr_right fun _ => by omega

/-- The encoding checks refuse exactly the frames that the table of R189 names. -/
theorem encodingFits_false (k : Kind) (p : List Byte) : encodingFits k p = false ↔ Safety.FormFails k p := by
  have entries := entriesFit_false (p.drop 5)
  cases k <;> simp only [encodingFits, Safety.FormFails, charAt, word16, ← entries, Nat.reduceSub]
  case status =>
    cases entriesFit (p.drop 5)
    · simp
    · simp; omega
  all_goals simp <;> omega

/-! ### The levels of a frame (R96) -/

@[simp] theorem characterLevels_length (first : Bool) (c : Byte) : (characterLevels first c).length = 11 := rfl

@[simp] theorem frameLevels_nil : frameLevels [] = [] := rfl

@[simp] theorem frameLevels_cons (c : Byte) (xs : List Byte) :
    frameLevels (c :: xs) = characterLevels true c ++ xs.flatMap (characterLevels false) := rfl

@[simp] theorem frameLevels_eq_nil (xs : List Byte) : frameLevels xs = [] ↔ xs = [] := by
  cases xs <;> simp [characterLevels]

/-- An attempt always has levels to send. -/
theorem State.sentLevels_ne_nil (s : State) (f : QueuedFrame) : s.sentLevels f ≠ [] := by
  unfold State.sentLevels
  rw [ne_eq, frameLevels_eq_nil]
  exact List.cons_ne_nil _ _

/-! ### The comparison of the bits read back (R107 to R109), in the terms of Safety.lean -/

theorem arbitrationBit_iff (i : Nat) : arbitrationBit i = true ↔ Safety.InHeaderData i := by
  simp only [arbitrationBit, decide_eq_true_eq, Safety.InHeaderData]
  constructor
  · intro h
    exact ⟨i / 11, i % 11 - 1, by omega, by omega, by omega⟩
  · rintro ⟨c, d, hc, hd, rfl⟩
    omega

/-- Once the first bits agree, the first difference is that of the rest. -/
theorem firstDifference_cons (b : Level) (tx read : List Level) (i : Nat) :
    Safety.FirstDifference (b :: tx) (b :: read) i ↔ ∃ j, i = j + 1 ∧ Safety.FirstDifference tx read j := by
  unfold Safety.FirstDifference
  cases i with
  | zero => simp
  | succ n =>
    simp only [List.length_cons, Nat.add_lt_add_iff_right, List.getElem?_cons_succ, Nat.add_right_cancel_iff, exists_eq_left']
    refine and_congr_right fun _ => and_congr_right fun _ => and_congr_right fun _ => ⟨fun h j hj => ?_, fun h j hj => ?_⟩
    · simpa using h (j + 1) (by omega)
    · cases j with
      | zero => simp
      | succ m => simpa using h m (by omega)

/-- Bits that differ at once have their first difference there. -/
theorem firstDifference_here {b r : Level} (h : b ≠ r) (tx read : List Level) (i : Nat) :
    Safety.FirstDifference (b :: tx) (r :: read) i ↔ i = 0 := by
  constructor
  · intro hd
    by_contra hi
    exact h (by simpa using hd.2.2.2 0 (by omega))
  · rintro rfl
    simp [Safety.FirstDifference, h]

/-- Everything the comparison from bit n on can say. -/
theorem readBack_spec (tx : List Level) : ∀ (n : Nat) (read : List Level),
    (readBack n tx read = .loss ↔ ∃ i, Safety.FirstDifference tx read i ∧ arbitrationBit (n + i) = true ∧ tx[i]? = some .recessive) ∧
    (readBack n tx read = .bitError ↔
      ∃ i, Safety.FirstDifference tx read i ∧ ¬(arbitrationBit (n + i) = true ∧ tx[i]? = some .recessive)) ∧
    (readBack n tx read = .sent ↔ Safety.ReadAsSent tx read) := by
  induction tx with
  | nil => intro n read; simp [readBack, Safety.FirstDifference, Safety.ReadAsSent]
  | cons b tx ih =>
    intro n read
    cases read with
    | nil =>
      simp only [readBack, Safety.FirstDifference, Safety.ReadAsSent, List.length_nil, Nat.not_lt_zero, false_and, and_false, exists_false,
        reduceCtorEq, false_iff, not_forall, iff_self, true_and]
      exact ⟨0, by simp⟩
    | cons r read =>
      by_cases h : b = r
      · subst h
        obtain ⟨h1, h2, h3⟩ := ih (n + 1) read
        simp only [readBack, if_true]
        refine ⟨h1.trans ?_, h2.trans ?_, h3.trans ?_⟩
        · constructor
          · rintro ⟨i, hd, ha, hx⟩
            exact ⟨i + 1, (firstDifference_cons ..).2 ⟨i, rfl, hd⟩, by rwa [Nat.add_right_comm, Nat.add_assoc] at ha, by simpa using hx⟩
          · rintro ⟨i, hd, ha, hx⟩
            obtain ⟨j, rfl, hj⟩ := (firstDifference_cons ..).1 hd
            exact ⟨j, hj, by rwa [Nat.add_right_comm, Nat.add_assoc], by simpa using hx⟩
        · constructor
          · rintro ⟨i, hd, hx⟩
            refine ⟨i + 1, (firstDifference_cons ..).2 ⟨i, rfl, hd⟩, ?_⟩
            rwa [Nat.add_right_comm, Nat.add_assoc] at hx
          · rintro ⟨i, hd, hx⟩
            obtain ⟨j, rfl, hj⟩ := (firstDifference_cons ..).1 hd
            refine ⟨j, hj, ?_⟩
            rwa [Nat.add_right_comm, Nat.add_assoc]
        · unfold Safety.ReadAsSent
          constructor
          · intro hr i hi
            cases i with
            | zero => simp
            | succ m => simpa using hr m (by simpa using hi)
          · intro hr i hi
            simpa using hr (i + 1) (by simpa using hi)
      · simp only [readBack, if_neg h, firstDifference_here h, exists_eq_left, Nat.add_zero, List.getElem?_cons_zero, Option.some.injEq]
        have hs : ¬Safety.ReadAsSent (b :: tx) (r :: read) := fun hr => h (by simpa using (hr 0 (by simp)).symm)
        by_cases hb : b = .recessive ∧ arbitrationBit n = true
        · simp [hb.1, hb.2, hb.1 ▸ hs]
        · have hb' : ¬(arbitrationBit n = true ∧ b = .recessive) := fun x => hb ⟨x.2, x.1⟩
          simp only [if_neg hb, hb', hs, reduceCtorEq, not_false_eq_true, and_self]

theorem levels_differ {b r : Level} (h : some b ≠ some r) : (b = .recessive ∧ r = .dominant) ∨ (b = .dominant ∧ r = .recessive) := by
  cases b <;> cases r <;> simp_all

/-- The levels at a first difference. -/
theorem firstDifference_levels {tx read : List Level} {i : Nat} (h : Safety.FirstDifference tx read i) :
    (tx[i]? = some .recessive ∧ read[i]? = some .dominant) ∨ (tx[i]? = some .dominant ∧ read[i]? = some .recessive) := by
  obtain ⟨h1, h2, h3, -⟩ := h
  rw [List.getElem?_eq_getElem h1, List.getElem?_eq_getElem h2] at h3 ⊢
  rcases levels_differ h3 with ⟨a, b⟩ | ⟨a, b⟩ <;> simp [a, b]

theorem State.verdict_loss (s : State) (read : List Level) :
    s.verdict read = .loss ↔ Safety.LosesArbitration s.lnc.tx read := by
  refine ((readBack_spec s.lnc.tx 0 read).1).trans (exists_congr fun i => and_congr_right fun hd => ?_)
  rw [Nat.zero_add, arbitrationBit_iff]
  rcases firstDifference_levels hd with ⟨a, b⟩ | ⟨a, b⟩ <;> simp [a, b]

theorem State.verdict_bitError (s : State) (read : List Level) :
    s.verdict read = .bitError ↔ Safety.ReadsBitError s.lnc.tx read := by
  refine ((readBack_spec s.lnc.tx 0 read).2.1).trans (exists_congr fun i => and_congr_right fun hd => ?_)
  rw [Nat.zero_add, arbitrationBit_iff]
  rcases firstDifference_levels hd with ⟨a, b⟩ | ⟨a, b⟩ <;> simp [a, b]

theorem State.verdict_sent (s : State) (read : List Level) :
    s.verdict read = .sent ↔ Safety.ReadAsSent s.lnc.tx read := (readBack_spec s.lnc.tx 0 read).2.2

/-- The levels a frame was sent as, read back, are as sent. -/
theorem readAsSent_self (tx : List Level) : Safety.ReadAsSent tx tx := fun _ _ => rfl

end Sys2Proof.Machine
end

