-- ==== Sys2Proof/Laws/Frames.lean ====
section
/-! SUPPORT. Which blocks an operation can change: one frame lemma per shared operation. A proof cites `Frame.keeps` of
the operation's lemma in place of unfolding it. -/

namespace Sys2Proof.Machine

/-- The blocks of the part, as the fields of `State`; `free` is the model's own counter. -/
inductive Block where
  | free
  | smu
  | ssu
  | eve
  | sel
  | prb
  | lnc
  | pvw
  | swc
  | rsl
  | rpt
  deriving DecidableEq, Repr

/-- A block has the same state in both. -/
def Block.same (b : Block) (s t : State) : Prop :=
  match b with
  | .free => t.freeCount = s.freeCount
  | .smu => t.smu = s.smu
  | .ssu => t.ssu = s.ssu
  | .eve => t.eve = s.eve
  | .sel => t.sel = s.sel
  | .prb => t.prb = s.prb
  | .lnc => t.lnc = s.lnc
  | .pvw => t.pvw = s.pvw
  | .swc => t.swc = s.swc
  | .rsl => t.rsl = s.rsl
  | .rpt => t.rpt = s.rpt

/-- Only the listed blocks differ; the queue of commands and station time are the same. -/
def Frame (bs : List Block) (s t : State) : Prop :=
  t.pending = s.pending ∧ t.now = s.now ∧ ∀ b, b ∉ bs → b.same s t

theorem Frame.keeps {bs : List Block} {s t : State} (h : Frame bs s t) (b : Block) (hb : b ∉ bs) : b.same s t := h.2.2 b hb

theorem Block.same_refl (b : Block) (s : State) : b.same s s := by cases b <;> rfl

theorem Block.same_symm (b : Block) {s t : State} (h : b.same s t) : b.same t s := by cases b <;> exact Eq.symm h

theorem Block.same_trans (b : Block) {s t u : State} (h : b.same s t) (g : b.same t u) : b.same s u := by
  cases b <;> exact Eq.trans g h

@[simp] theorem Frame.refl (bs : List Block) (s : State) : Frame bs s s := ⟨rfl, rfl, fun b _ => b.same_refl s⟩

theorem Frame.trans {bs : List Block} {s t u : State} (h : Frame bs s t) (g : Frame bs t u) : Frame bs s u :=
  ⟨g.1.trans h.1, g.2.1.trans h.2.1, fun b hb => b.same_trans (h.2.2 b hb) (g.2.2 b hb)⟩

theorem Frame.mono {bs cs : List Block} {s t : State} (h : Frame bs s t) (hsub : bs ⊆ cs) : Frame cs s t :=
  ⟨h.1, h.2.1, fun b hb => h.2.2 b fun hm => hb (hsub hm)⟩

/-- An operation that changes only some blocks, after what changes only some blocks. -/
theorem Frame.andThen {bs cs : List Block} {s t u : State} (g : Frame cs t u) (h : Frame bs s t) (hsub : cs ⊆ bs) : Frame bs s u :=
  h.trans (g.mono hsub)

theorem Frame.symm {bs : List Block} {s t : State} (h : Frame bs s t) : Frame bs t s :=
  ⟨h.1.symm, h.2.1.symm, fun b hb => b.same_symm (h.2.2 b hb)⟩

/-- What changes only listed blocks last can be left out of a frame. -/
theorem Frame.drop {bs cs : List Block} {s t u : State} (g : Frame cs t u) (hsub : cs ⊆ bs) : Frame bs s u ↔ Frame bs s t :=
  ⟨fun h => h.trans (g.mono hsub).symm, fun h => h.trans (g.mono hsub)⟩

/-! ### Record updates -/

section Updates
variable (bs : List Block) (s t : State)

theorem frame_smu (x : Smu) (hb : Block.smu ∈ bs) : Frame bs s { t with smu := x } ↔ Frame bs s t :=
  Frame.drop (cs := [.smu]) ⟨rfl, rfl, fun b hb => by cases b <;> first | rfl | simp at hb⟩ (by simpa using hb)

theorem frame_ssu (x : Ssu) (hb : Block.ssu ∈ bs) : Frame bs s { t with ssu := x } ↔ Frame bs s t :=
  Frame.drop (cs := [.ssu]) ⟨rfl, rfl, fun b hb => by cases b <;> first | rfl | simp at hb⟩ (by simpa using hb)

theorem frame_eve (x : PerString Evidence) (hb : Block.eve ∈ bs) : Frame bs s { t with eve := x } ↔ Frame bs s t :=
  Frame.drop (cs := [.eve]) ⟨rfl, rfl, fun b hb => by cases b <;> first | rfl | simp at hb⟩ (by simpa using hb)

theorem frame_sel (x : Sel) (hb : Block.sel ∈ bs) : Frame bs s { t with sel := x } ↔ Frame bs s t :=
  Frame.drop (cs := [.sel]) ⟨rfl, rfl, fun b hb => by cases b <;> first | rfl | simp at hb⟩ (by simpa using hb)

theorem frame_prb (x : Prb) (hb : Block.prb ∈ bs) : Frame bs s { t with prb := x } ↔ Frame bs s t :=
  Frame.drop (cs := [.prb]) ⟨rfl, rfl, fun b hb => by cases b <;> first | rfl | simp at hb⟩ (by simpa using hb)

theorem frame_lnc (x : Lnc) (hb : Block.lnc ∈ bs) : Frame bs s { t with lnc := x } ↔ Frame bs s t :=
  Frame.drop (cs := [.lnc]) ⟨rfl, rfl, fun b hb => by cases b <;> first | rfl | simp at hb⟩ (by simpa using hb)

theorem frame_pvw (x : Pvw) (hb : Block.pvw ∈ bs) : Frame bs s { t with pvw := x } ↔ Frame bs s t :=
  Frame.drop (cs := [.pvw]) ⟨rfl, rfl, fun b hb => by cases b <;> first | rfl | simp at hb⟩ (by simpa using hb)

theorem frame_swc (x : Swc) (hb : Block.swc ∈ bs) : Frame bs s { t with swc := x } ↔ Frame bs s t :=
  Frame.drop (cs := [.swc]) ⟨rfl, rfl, fun b hb => by cases b <;> first | rfl | simp at hb⟩ (by simpa using hb)

theorem frame_rsl (x : Rsl) (hb : Block.rsl ∈ bs) : Frame bs s { t with rsl := x } ↔ Frame bs s t :=
  Frame.drop (cs := [.rsl]) ⟨rfl, rfl, fun b hb => by cases b <;> first | rfl | simp at hb⟩ (by simpa using hb)

theorem frame_rpt (x : Rpt) (hb : Block.rpt ∈ bs) : Frame bs s { t with rpt := x } ↔ Frame bs s t :=
  Frame.drop (cs := [.rpt]) ⟨rfl, rfl, fun b hb => by cases b <;> first | rfl | simp at hb⟩ (by simpa using hb)

end Updates

theorem frame_ite (bs : List Block) (s t u : State) (c : Prop) [Decidable c] (h : Frame bs s t) (g : Frame bs s u) :
    Frame bs s (if c then t else u) := by split <;> assumption

theorem frame_forStrings {bs : List Block} {ks : List StringNo} {f : State → StringNo → State} (s : State)
    (h : ∀ t k, Frame bs t (f t k)) : Frame bs s (forStrings ks f s) := by
  unfold forStrings
  induction ks generalizing s with
  | nil => exact Frame.refl _ _
  | cons k ks ih => exact (h s k).trans (ih (f s k))

/-! ### One frame per operation -/


theorem State.setString_frame (s : State) (k : StringNo) (f : StringRecord → StringRecord) : Frame [.swc] s (s.setString k f) := by
  unfold State.setString
  all_goals exact ⟨rfl, rfl, fun b hb => by cases b <;> first | rfl | simp at hb⟩

theorem State.setRelease_frame (s : State) (k : StringNo) (f : ReleaseString → ReleaseString) : Frame [.rsl] s (s.setRelease k f) := by
  unfold State.setRelease
  all_goals exact ⟨rfl, rfl, fun b hb => by cases b <;> first | rfl | simp at hb⟩

theorem State.setEvidence_frame (s : State) (k : StringNo) (f : Evidence → Evidence) : Frame [.eve] s (s.setEvidence k f) := by
  unfold State.setEvidence
  all_goals exact ⟨rfl, rfl, fun b hb => by cases b <;> first | rfl | simp at hb⟩

theorem State.setSuspect_frame (s : State) (k : StringNo) (b : Bool) : Frame [.sel] s (s.setSuspect k b) := by
  unfold State.setSuspect
  all_goals exact ⟨rfl, rfl, fun b hb => by cases b <;> first | rfl | simp at hb⟩

theorem State.setSmu_frame (s : State) (x : Smu) : Frame [.smu] s (s.setSmu x) := by
  unfold State.setSmu
  all_goals exact ⟨rfl, rfl, fun b hb => by cases b <;> first | rfl | simp at hb⟩

theorem State.setPrb_frame (s : State) (x : Prb) : Frame [.prb] s (s.setPrb x) := by
  unfold State.setPrb
  all_goals exact ⟨rfl, rfl, fun b hb => by cases b <;> first | rfl | simp at hb⟩

theorem State.setWindow_frame (s : State) (w : Window) : Frame [.prb] s (s.setWindow w) := by
  unfold State.setWindow
  all_goals exact ⟨rfl, rfl, fun b hb => by cases b <;> first | rfl | simp at hb⟩

theorem State.setLnc_frame (s : State) (x : Lnc) : Frame [.lnc] s (s.setLnc x) := by
  unfold State.setLnc
  all_goals exact ⟨rfl, rfl, fun b hb => by cases b <;> first | rfl | simp at hb⟩

theorem State.setArc_frame (s : State) (i : Option Incident) : Frame [.sel] s (s.setArc i) := by
  unfold State.setArc
  all_goals exact ⟨rfl, rfl, fun b hb => by cases b <;> first | rfl | simp at hb⟩

theorem State.setGround_frame (s : State) (i : Option Incident) : Frame [.sel] s (s.setGround i) := by
  unfold State.setGround
  all_goals exact ⟨rfl, rfl, fun b hb => by cases b <;> first | rfl | simp at hb⟩

theorem State.setIncident_frame (s : State) (k : IncidentKind) (i : Option Incident) : Frame [.sel] s (s.setIncident k i) := by
  unfold State.setIncident
  repeat' split
  all_goals simp only [Frame.drop (State.setArc_frame _ _), Frame.drop (State.setGround_frame _ _), Frame.refl, List.cons_subset, List.nil_subset, List.mem_cons, true_or, and_true]

theorem State.removeEntry_frame (s : State) (e : Nat) : Frame [.lnc] s (s.removeEntry e) := by
  unfold State.removeEntry
  all_goals exact ⟨rfl, rfl, fun b hb => by cases b <;> first | rfl | simp at hb⟩

theorem State.enterFrame_frame (s : State) (f : QueuedFrame) : Frame [.lnc] s (s.enterFrame f) := by
  unfold State.enterFrame
  all_goals exact ⟨rfl, rfl, fun b hb => by cases b <;> first | rfl | simp at hb⟩

theorem State.makeRoomAndEnter_frame (s : State) (f : QueuedFrame) : Frame [.lnc] s (s.makeRoomAndEnter f).1 := by
  unfold State.makeRoomAndEnter
  repeat' split
  all_goals simp only [Frame.drop (State.removeEntry_frame _ _), Frame.drop (State.enterFrame_frame _ _), Frame.refl, List.cons_subset, List.nil_subset, List.mem_cons, true_or, and_true]

theorem State.enqueue_frame (s : State) (f : QueuedFrame) : Frame [.lnc] s (s.enqueue f).1 := by
  unfold State.enqueue
  repeat' split
  all_goals simp only [Frame.drop (State.removeEntry_frame _ _), Frame.drop (State.enterFrame_frame _ _), Frame.drop (State.makeRoomAndEnter_frame _ _), frame_lnc, Frame.refl, List.cons_subset, List.nil_subset, List.mem_cons, true_or, and_true]

theorem State.queueFrame_frame (s : State) (f : QueuedFrame) : Frame [.lnc] s (s.queueFrame f) := by
  unfold State.queueFrame
  all_goals simp only [Frame.drop (State.enqueue_frame _ _), Frame.refl, List.cons_subset, List.nil_subset, List.mem_cons, true_or, and_true]

theorem State.withdraw_frame (s : State) (k : Kind) : Frame [.lnc] s (s.withdraw k).1 := by
  unfold State.withdraw
  repeat' split
  all_goals simp only [Frame.drop (State.removeEntry_frame _ _), frame_lnc, Frame.refl, List.cons_subset, List.nil_subset, List.mem_cons, true_or, and_true]

theorem State.countError_frame (s : State) : Frame [.lnc] s s.countError := by
  unfold State.countError
  repeat' split
  all_goals exact ⟨rfl, rfl, fun b hb => by cases b <;> first | rfl | simp at hb⟩

theorem State.openClaiming_frame (s : State) (i : Incident) : Frame [.sel, .lnc] s (s.openClaiming i) := by
  unfold State.openClaiming
  repeat' split
  all_goals simp only [Frame.drop (State.setIncident_frame _ _ _), Frame.drop (State.enqueue_frame _ _), Frame.refl, List.cons_subset, List.nil_subset, List.mem_cons, reduceCtorEq, true_or, or_true, false_or, and_true]

theorem State.withdrawClaim_frame (s : State) (k : IncidentKind) : Frame [.sel, .lnc] s (s.withdrawClaim k) := by
  unfold State.withdrawClaim
  repeat' split
  all_goals try simp only [Frame.refl]
  all_goals repeat' split
  all_goals simp only [Frame.drop (State.setIncident_frame _ _ _), Frame.drop (State.withdraw_frame _ _), Frame.refl, List.cons_subset, List.nil_subset, List.mem_cons, reduceCtorEq, true_or, or_true, false_or, and_true]

theorem State.claimReport_frame (s : State) (k : IncidentKind) (c : ClaimState) : Frame [.sel] s (s.claimReport k c) := by
  unfold State.claimReport
  repeat' split
  all_goals simp only [Frame.drop (State.setIncident_frame _ _ _), Frame.refl, List.cons_subset, List.nil_subset, List.mem_cons, true_or, and_true]

theorem State.openRound_frame (s : State) (i : Incident) : Frame [.sel, .lnc] s (s.openRound i) := by
  unfold State.openRound
  repeat' split
  all_goals simp only [Frame.drop (State.setArc_frame _ _), Frame.drop (State.openClaiming_frame _ _), Frame.refl, List.cons_subset, List.nil_subset, List.mem_cons, reduceCtorEq, true_or, or_true, false_or, and_true]

theorem State.openArc_frame (s : State) (k : StringNo) (p : Nat) : Frame [.sel, .lnc] s (s.openArc k p) := by
  unfold State.openArc
  all_goals simp only [Frame.drop (State.openRound_frame _ _), Frame.refl, List.cons_subset, List.nil_subset, List.mem_cons, reduceCtorEq, true_or, or_true, false_or, and_true]

theorem State.closeIncident_frame (s : State) (k : IncidentKind) : Frame [.sel, .lnc] s (s.closeIncident k) := by
  unfold State.closeIncident
  all_goals simp only [Frame.drop (State.setIncident_frame _ _ _), Frame.drop (State.withdrawClaim_frame _ _), Frame.refl, List.cons_subset, List.nil_subset, List.mem_cons, reduceCtorEq, true_or, or_true, false_or, and_true]

theorem State.closeIf_frame (s : State) (k : IncidentKind) (p : Incident → Bool) : Frame [.sel, .lnc] s (s.closeIf k p) := by
  unfold State.closeIf
  repeat' split
  all_goals simp only [Frame.drop (State.closeIncident_frame _ _), Frame.refl, List.cons_subset, List.nil_subset, List.mem_cons, reduceCtorEq, true_or, or_true, false_or, and_true]

theorem State.selOpened_frame (s : State) (k : StringNo) : Frame [.sel, .lnc] s (s.selOpened k) := by
  unfold State.selOpened
  all_goals simp only [Frame.drop (State.closeIf_frame _ _ _), Frame.refl, List.cons_subset, List.nil_subset, List.mem_cons, reduceCtorEq, true_or, or_true, false_or, and_true]

theorem State.selStuck_frame (s : State) (k : StringNo) : Frame [.sel, .lnc] s (s.selStuck k) := by
  unfold State.selStuck
  repeat' split
  all_goals simp only [Frame.drop (State.closeIf_frame _ _ _), frame_sel, Frame.refl, List.cons_subset, List.nil_subset, List.mem_cons, reduceCtorEq, true_or, or_true, false_or, and_true]

theorem State.selReturned_frame (s : State) (k : StringNo) : Frame [.sel, .lnc] s (s.selReturned k) := by
  unfold State.selReturned
  all_goals simp only [Frame.drop (State.closeIf_frame _ _ _), Frame.refl, List.cons_subset, List.nil_subset, List.mem_cons, reduceCtorEq, true_or, or_true, false_or, and_true]

theorem State.selSuperseded_frame (s : State) : Frame [.sel, .lnc] s s.selSuperseded := by
  unfold State.selSuperseded
  all_goals simp only [Frame.drop (State.closeIf_frame _ _ _), Frame.refl, List.cons_subset, List.nil_subset, List.mem_cons, reduceCtorEq, true_or, or_true, false_or, and_true]

theorem State.compareEntry_frame (s : State) (k : IncidentKind) (e : ClaimEntry) : Frame [.sel, .lnc] s (s.compareEntry k e) := by
  unfold State.compareEntry
  repeat' split
  all_goals simp only [Frame.drop (State.setIncident_frame _ _ _), Frame.drop (State.withdrawClaim_frame _ _), Frame.refl, List.cons_subset, List.nil_subset, List.mem_cons, reduceCtorEq, true_or, or_true, false_or, and_true]

theorem State.setConcurrent_frame (s : State) : Frame [.sel, .lnc] s s.setConcurrent := by
  unfold State.setConcurrent
  all_goals exact ⟨rfl, rfl, fun b hb => by cases b <;> first | rfl | simp at hb⟩

theorem State.claimDelivered_frame (s : State) (e : ClaimEntry) : Frame [.sel, .lnc] s (s.claimDelivered e) := by
  unfold State.claimDelivered
  repeat' split
  all_goals simp only [Frame.drop (State.compareEntry_frame _ _ _), Frame.drop (State.setConcurrent_frame _), frame_sel, Frame.refl, List.cons_subset, List.nil_subset, List.mem_cons, reduceCtorEq, true_or, or_true, false_or, and_true]

theorem State.keepSuspectOnly_frame (s : State) (k : StringNo) : Frame [.sel] s (s.keepSuspectOnly k) := by
  unfold State.keepSuspectOnly
  refine frame_forStrings _ fun t j => ?_
  split
  all_goals simp only [Frame.drop (State.setSuspect_frame _ _ _), Frame.refl, List.cons_subset, List.nil_subset, List.mem_cons, true_or, and_true]

theorem State.openGround_frame (s : State) (r : WindowReport) (k : StringNo) (l q : Nat) : Frame [.sel, .lnc] s (s.openGround r k l q) := by
  unfold State.openGround
  all_goals try simp only []
  all_goals repeat' split
  all_goals simp only [Frame.drop (State.setGround_frame _ _), Frame.drop (State.openClaiming_frame _ _), Frame.refl, List.cons_subset, List.nil_subset, List.mem_cons, reduceCtorEq, true_or, or_true, false_or, and_true]

theorem State.windowReport_frame (s : State) (r : WindowReport) : Frame [.sel, .lnc] s (s.windowReport r) := by
  unfold State.windowReport
  repeat' split
  all_goals simp only [Frame.drop (State.setSuspect_frame _ _ _), Frame.drop (State.keepSuspectOnly_frame _ _), Frame.drop (State.openGround_frame _ _ _ _ _), Frame.refl, List.cons_subset, List.nil_subset, List.mem_cons, reduceCtorEq, true_or, or_true, false_or, and_true]

theorem State.trigger_frame (s : State) (b : Bool) : Frame [.prb, .lnc] s (s.trigger b).1 := by
  unfold State.trigger
  repeat' split
  all_goals try simp only [Frame.refl]
  all_goals repeat' split
  all_goals simp only [Frame.drop (State.setPrb_frame _ _), Frame.drop (State.enqueue_frame _ _), Frame.refl, List.cons_subset, List.nil_subset, List.mem_cons, reduceCtorEq, true_or, or_true, false_or, and_true]

theorem State.dueTrigger_frame (s : State) : Frame [.prb, .lnc] s s.dueTrigger := by
  unfold State.dueTrigger
  repeat' split
  all_goals try simp only [Frame.drop (State.setPrb_frame _ _), Frame.refl, List.cons_subset, List.nil_subset, List.mem_cons, reduceCtorEq, true_or, false_or, and_true]
  all_goals repeat' split
  all_goals simp only [Frame.drop (State.setPrb_frame _ _), Frame.drop (State.trigger_frame _ _), Frame.refl, List.cons_subset, List.nil_subset, List.mem_cons, reduceCtorEq, true_or, or_true, false_or, and_true]

theorem State.balanceTrigger_frame (s : State) : Frame [.prb, .lnc] s s.balanceTrigger := by
  unfold State.balanceTrigger
  repeat' split
  all_goals simp only [Frame.drop (State.trigger_frame _ _), Frame.refl, List.cons_subset, List.nil_subset, List.mem_cons, reduceCtorEq, true_or, or_true, false_or, and_true]

theorem State.serviceTrigger_frame (s : State) : Frame [.prb, .lnc] s (s.serviceTrigger).1 := by
  unfold State.serviceTrigger
  repeat' split
  all_goals simp only [Frame.drop (State.trigger_frame _ _), Frame.refl, List.cons_subset, List.nil_subset, List.mem_cons, reduceCtorEq, true_or, or_true, false_or, and_true]

theorem State.windowEndSeen_frame (s : State) (c : Option (Bool × Nat)) : Frame [.prb] s (s.windowEndSeen c) := by
  unfold State.windowEndSeen
  repeat' split
  all_goals simp only [Frame.drop (State.setPrb_frame _ _), Frame.refl, List.cons_subset, List.nil_subset, List.mem_cons, true_or, and_true]

theorem State.considerReference_frame (s : State) (w : Window) (ok : Bool) (r : Nat) : Frame [.prb] s (s.considerReference w ok r) := by
  unfold State.considerReference
  repeat' split
  all_goals simp only [Frame.drop (State.setPrb_frame _ _), Frame.refl, List.cons_subset, List.nil_subset, List.mem_cons, true_or, and_true]

theorem State.discardWindow_frame (s : State) : Frame [.prb] s s.discardWindow := by
  unfold State.discardWindow
  all_goals simp only [Frame.drop (State.setPrb_frame _ _), Frame.refl, List.cons_subset, List.nil_subset, List.mem_cons, true_or, and_true]

theorem State.windowLost_frame (s : State) : Frame [.sel, .prb, .lnc] s s.windowLost := by
  unfold State.windowLost
  repeat' split
  all_goals simp only [Frame.drop (State.windowReport_frame _ _), Frame.drop (State.windowEndSeen_frame _ _), Frame.drop (State.discardWindow_frame _), Frame.refl, List.cons_subset, List.nil_subset, List.mem_cons, reduceCtorEq, true_or, or_true, false_or, and_true]

theorem State.closeInjection_frame (s : State) (w : Window) (x : WindowStatus) (r : Nat) : Frame [.sel, .prb, .lnc] s (s.closeInjection w x r) := by
  unfold State.closeInjection
  all_goals try simp only []
  all_goals repeat' split
  all_goals simp only [Frame.drop (State.setPrb_frame _ _), Frame.drop (State.enqueue_frame _ _), Frame.drop (State.windowLost_frame _), Frame.refl, List.cons_subset, List.nil_subset, List.mem_cons, reduceCtorEq, true_or, or_true, false_or, and_true]

theorem State.abortInjection_frame (s : State) (x : WindowStatus) : Frame [.sel, .prb, .lnc] s (s.abortInjection x) := by
  unfold State.abortInjection
  repeat' split
  all_goals try simp only [Frame.refl]
  all_goals repeat' split
  all_goals simp only [Frame.drop (State.setWindow_frame _ _), Frame.drop (State.closeInjection_frame _ _ _ _), Frame.refl, List.cons_subset, List.nil_subset, List.mem_cons, reduceCtorEq, true_or, or_true, false_or, and_true]

theorem State.withdrawProbeOpen_frame (s : State) : Frame [.prb, .lnc] s s.withdrawProbeOpen := by
  unfold State.withdrawProbeOpen
  repeat' split
  all_goals try simp only [Frame.refl]
  all_goals repeat' split
  all_goals simp only [Frame.drop (State.setPrb_frame _ _), Frame.drop (State.withdraw_frame _ _), Frame.refl, List.cons_subset, List.nil_subset, List.mem_cons, reduceCtorEq, true_or, or_true, false_or, and_true]

theorem State.probeAbort_frame (s : State) : Frame [.sel, .prb, .lnc] s s.probeAbort := by
  unfold State.probeAbort
  all_goals simp only [Frame.drop (State.abortInjection_frame _ _), Frame.drop (State.withdrawProbeOpen_frame _), Frame.refl, List.cons_subset, List.nil_subset, List.mem_cons, reduceCtorEq, true_or, or_true, false_or, and_true]

theorem State.probeStuck_frame (s : State) : Frame [.sel, .prb, .lnc] s s.probeStuck := by
  unfold State.probeStuck
  all_goals try simp only []
  all_goals repeat' split
  all_goals simp only [Frame.drop (State.setPrb_frame _ _), Frame.drop (State.withdraw_frame _ _), Frame.drop (State.windowLost_frame _), Frame.drop (State.withdrawProbeOpen_frame _), Frame.refl, List.cons_subset, List.nil_subset, List.mem_cons, reduceCtorEq, true_or, or_true, false_or, and_true]

theorem State.injectorStart_frame (s : State) (f : QueuedFrame) : Frame [.sel, .prb, .lnc] s (s.injectorStart f) := by
  unfold State.injectorStart
  repeat' split
  all_goals try simp only [Frame.drop (State.setPrb_frame _ _), Frame.refl, List.cons_subset, List.nil_subset, List.mem_cons, reduceCtorEq, true_or, or_true, false_or, and_true]
  all_goals repeat' split
  all_goals simp only [Frame.drop (State.setPrb_frame _ _), Frame.drop (State.probeAbort_frame _), Frame.drop (State.probeStuck_frame _), Frame.refl, List.cons_subset, List.nil_subset, List.mem_cons, reduceCtorEq, true_or, or_true, false_or, and_true]

theorem State.referenceHalfEnd_frame (s : State) : Frame [.sel, .prb, .lnc] s s.referenceHalfEnd := by
  unfold State.referenceHalfEnd
  repeat' split
  all_goals try simp only [Frame.drop (State.setPrb_frame _ _), Frame.refl, List.cons_subset, List.nil_subset, List.mem_cons, reduceCtorEq, true_or, or_true, false_or, and_true]
  all_goals repeat' split
  all_goals simp only [Frame.drop (State.setPrb_frame _ _), Frame.drop (State.closeInjection_frame _ _ _ _), Frame.refl, List.cons_subset, List.nil_subset, List.mem_cons, reduceCtorEq, true_or, or_true, false_or, and_true]

theorem State.injectionStart_frame (s : State) : Frame [.prb] s s.injectionStart := by
  unfold State.injectionStart
  repeat' split
  all_goals simp only [Frame.drop (State.setPrb_frame _ _), Frame.refl, List.cons_subset, List.nil_subset, List.mem_cons, true_or, and_true]

theorem State.injectionHalfEnd_frame (s : State) : Frame [.sel, .prb, .lnc] s s.injectionHalfEnd := by
  unfold State.injectionHalfEnd
  repeat' split
  all_goals try simp only [Frame.refl]
  all_goals repeat' split
  all_goals simp only [Frame.drop (State.setPrb_frame _ _), Frame.drop (State.closeInjection_frame _ _ _ _), Frame.refl, List.cons_subset, List.nil_subset, List.mem_cons, reduceCtorEq, true_or, or_true, false_or, and_true]

theorem State.injectorEnd_frame (s : State) : Frame [.sel, .prb, .lnc] s s.injectorEnd := by
  unfold State.injectorEnd
  repeat' split
  all_goals simp only [Frame.drop (State.setPrb_frame _ _), Frame.drop (State.windowReport_frame _ _), Frame.drop (State.windowEndSeen_frame _ _), Frame.drop (State.considerReference_frame _ _ _ _), Frame.drop (State.discardWindow_frame _), Frame.refl, List.cons_subset, List.nil_subset, List.mem_cons, reduceCtorEq, true_or, or_true, false_or, and_true]

theorem State.probeOpenLost_frame (s : State) : Frame [.prb] s s.probeOpenLost := by
  unfold State.probeOpenLost
  repeat' split
  all_goals simp only [Frame.drop (State.setPrb_frame _ _), Frame.refl, List.cons_subset, List.nil_subset, List.mem_cons, true_or, and_true]

theorem State.probeOpenWithdrawn_frame (s : State) : Frame [.prb] s s.probeOpenWithdrawn := by
  unfold State.probeOpenWithdrawn
  repeat' split
  all_goals simp only [Frame.drop (State.setPrb_frame _ _), Frame.refl, List.cons_subset, List.nil_subset, List.mem_cons, true_or, and_true]

theorem State.probeCloseLost_frame (s : State) : Frame [.sel, .prb, .lnc] s s.probeCloseLost := by
  unfold State.probeCloseLost
  repeat' split
  all_goals simp only [Frame.drop (State.windowLost_frame _), Frame.refl, List.cons_subset, List.nil_subset, List.mem_cons, reduceCtorEq, true_or, or_true, false_or, and_true]

theorem State.enterListening_frame (s : State) (f : Received) : Frame [.prb] s (s.enterListening f) := by
  unfold State.enterListening
  all_goals simp only [Frame.drop (State.setPrb_frame _ _), Frame.refl, List.cons_subset, List.nil_subset, List.mem_cons, true_or, and_true]

theorem State.probeOpenDelivered_frame (s : State) (f : Received) : Frame [.sel, .prb, .lnc] s (s.probeOpenDelivered f) := by
  unfold State.probeOpenDelivered
  repeat' split
  all_goals try simp only [Frame.drop (State.abortInjection_frame _ _), Frame.drop (State.enterListening_frame _ _), Frame.refl, List.cons_subset, List.nil_subset, List.mem_cons, reduceCtorEq, true_or, or_true, false_or, and_true]
  all_goals repeat' split
  all_goals simp only [Frame.drop (State.withdrawProbeOpen_frame _), Frame.drop (State.enterListening_frame _ _), Frame.refl, List.cons_subset, List.nil_subset, List.mem_cons, reduceCtorEq, true_or, or_true, false_or, and_true]

theorem State.probeOpenTaken_frame (s : State) (f : Received) : Frame [.sel, .prb, .lnc] s (s.probeOpenTaken f) := by
  unfold State.probeOpenTaken
  repeat' split
  all_goals simp only [Frame.drop (State.probeOpenDelivered_frame _ _), Frame.refl, List.cons_subset, List.nil_subset, List.mem_cons, reduceCtorEq, true_or, or_true, false_or, and_true]

theorem State.probeDisturbed_frame (s : State) : Frame [.sel, .prb, .lnc] s s.probeDisturbed := by
  unfold State.probeDisturbed
  repeat' split
  all_goals simp only [Frame.drop (State.setWindow_frame _ _), Frame.drop (State.abortInjection_frame _ _), Frame.refl, List.cons_subset, List.nil_subset, List.mem_cons, reduceCtorEq, true_or, or_true, false_or, and_true]

theorem State.listenerEnd_frame (s : State) (w : Window) (b : Bool) (c : Option (Bool × Nat)) : Frame [.sel, .prb, .lnc] s (s.listenerEnd w b c) := by
  unfold State.listenerEnd
  repeat' split
  all_goals simp only [Frame.drop (State.windowReport_frame _ _), Frame.drop (State.windowEndSeen_frame _ _), Frame.drop (State.discardWindow_frame _), Frame.refl, List.cons_subset, List.nil_subset, List.mem_cons, reduceCtorEq, true_or, or_true, false_or, and_true]

theorem State.listenerMatched_frame (s : State) (w : Window) (x : WindowStatus) (h r : Nat) : Frame [.sel, .prb, .lnc] s (s.listenerMatched w x h r) := by
  unfold State.listenerMatched
  repeat' split
  all_goals simp only [Frame.drop (State.windowReport_frame _ _), Frame.drop (State.windowEndSeen_frame _ _), Frame.drop (State.considerReference_frame _ _ _ _), Frame.drop (State.discardWindow_frame _), Frame.refl, List.cons_subset, List.nil_subset, List.mem_cons, reduceCtorEq, true_or, or_true, false_or, and_true]

theorem State.probeCloseDelivered_frame (s : State) (f : Received) : Frame [.sel, .prb, .lnc] s (s.probeCloseDelivered f) := by
  unfold State.probeCloseDelivered
  repeat' split
  all_goals simp only [Frame.drop (State.windowEndSeen_frame _ _), Frame.drop (State.listenerEnd_frame _ _ _ _), Frame.drop (State.listenerMatched_frame _ _ _ _ _), Frame.refl, List.cons_subset, List.nil_subset, List.mem_cons, reduceCtorEq, true_or, or_true, false_or, and_true]

theorem State.wMax_frame (s : State) : Frame [.sel, .prb, .lnc] s s.wMax := by
  unfold State.wMax
  repeat' split
  all_goals simp only [Frame.drop (State.listenerEnd_frame _ _ _ _), Frame.refl, List.cons_subset, List.nil_subset, List.mem_cons, reduceCtorEq, true_or, or_true, false_or, and_true]

theorem State.probeBarred_frame (s : State) : Frame [.sel, .prb, .lnc] s s.probeBarred := by
  unfold State.probeBarred
  repeat' split
  all_goals simp only [Frame.drop (State.probeAbort_frame _), Frame.drop (State.listenerEnd_frame _ _ _ _), Frame.refl, List.cons_subset, List.nil_subset, List.mem_cons, reduceCtorEq, true_or, or_true, false_or, and_true]

theorem State.balanceCount_frame (s : State) : Frame [.prb] s s.balanceCount := by
  unfold State.balanceCount
  repeat' split
  all_goals simp only [Frame.drop (State.setPrb_frame _ _), Frame.refl, List.cons_subset, List.nil_subset, List.mem_cons, true_or, and_true]

theorem State.probeInterval_frame (s : State) : Frame [.prb] s s.probeInterval := by
  unfold State.probeInterval
  all_goals try simp only []
  all_goals repeat' split
  all_goals simp only [Frame.drop (State.setPrb_frame _ _), Frame.drop (State.setWindow_frame _ _), Frame.drop (State.balanceCount_frame _), Frame.refl, List.cons_subset, List.nil_subset, List.mem_cons, true_or, and_true]

theorem State.halfExpiry_frame (s : State) : Frame [.prb] s s.halfExpiry := by
  unfold State.halfExpiry
  repeat' split
  all_goals simp only [Frame.drop (State.setWindow_frame _ _), Frame.refl, List.cons_subset, List.nil_subset, List.mem_cons, true_or, and_true]

theorem State.kickMemo_frame (s : State) : Frame [.smu] s s.kickMemo := by
  unfold State.kickMemo
  repeat' split
  all_goals simp only [Frame.drop (State.setSmu_frame _ _), Frame.refl, List.cons_subset, List.nil_subset, List.mem_cons, true_or, and_true]

theorem State.askMemo_frame (s : State) (k : StringNo) (v : MemoValue) : Frame [.smu] s (s.askMemo k v) := by
  unfold State.askMemo
  all_goals simp only [Frame.drop (State.setSmu_frame _ _), Frame.drop (State.kickMemo_frame _), Frame.refl, List.cons_subset, List.nil_subset, List.mem_cons, true_or, and_true]

theorem State.memoFailed_frame (s : State) (w : MemoWrite) : Frame [.smu] s (s.memoFailed w) := by
  unfold State.memoFailed
  repeat' split
  all_goals simp only [Frame.drop (State.setSmu_frame _ _), Frame.drop (State.kickMemo_frame _), Frame.refl, List.cons_subset, List.nil_subset, List.mem_cons, true_or, and_true]

theorem State.memoDone_frame (s : State) (v h l : Byte) : Frame [.smu] s (s.memoDone v h l) := by
  unfold State.memoDone
  repeat' split
  all_goals simp only [Frame.drop (State.setSmu_frame _ _), Frame.drop (State.kickMemo_frame _), Frame.drop (State.memoFailed_frame _ _), Frame.refl, List.cons_subset, List.nil_subset, List.mem_cons, true_or, and_true]

theorem State.memoTimeout_frame (s : State) : Frame [.free, .smu] s s.memoTimeout := by
  unfold State.memoTimeout
  repeat' split
  all_goals first | exact Frame.refl _ _ | refine Frame.andThen (State.memoFailed_frame _ _) ?_ (by decide)
  exact ⟨rfl, rfl, fun b hb => by cases b <;> first | rfl | simp at hb⟩

theorem State.beginPulse_frame (s : State) (k : StringNo) (d : Direction) : Frame [.swc] s (s.beginPulse k d) := by
  unfold State.beginPulse
  all_goals simp only [Frame.drop (State.setString_frame _ _ _), frame_swc, Frame.refl, List.cons_subset, List.nil_subset, List.mem_cons, true_or, and_true]

theorem State.kickDrive_frame (s : State) : Frame [.swc] s s.kickDrive := by
  unfold State.kickDrive
  repeat' split
  all_goals simp only [Frame.drop (State.beginPulse_frame _ _ _), frame_swc, Frame.refl, List.cons_subset, List.nil_subset, List.mem_cons, true_or, and_true]

theorem State.queueOpen_frame (s : State) (k : StringNo) (c : OpenCause) (d : HoldDetail) : Frame [.swc, .rsl] s (s.queueOpen k c d) := by
  unfold State.queueOpen
  all_goals simp only [Frame.drop (State.setString_frame _ _ _), Frame.drop (State.setRelease_frame _ _ _), Frame.drop (State.kickDrive_frame _), frame_swc, Frame.refl, List.cons_subset, List.nil_subset, List.mem_cons, reduceCtorEq, true_or, or_true, false_or, and_true]

theorem State.queueClose_frame (s : State) (k : StringNo) : Frame [.swc] s (s.queueClose k) := by
  unfold State.queueClose
  all_goals simp only [Frame.drop (State.setString_frame _ _ _), Frame.drop (State.kickDrive_frame _), frame_swc, Frame.refl, List.cons_subset, List.nil_subset, List.mem_cons, true_or, and_true]

theorem State.updateMemo_frame (s : State) (k : StringNo) : Frame [.swc, .smu] s (s.updateMemo k) := by
  unfold State.updateMemo
  all_goals try simp only []
  all_goals repeat' split
  all_goals simp only [Frame.drop (State.setString_frame _ _ _), Frame.drop (State.askMemo_frame _ _ _), Frame.refl, List.cons_subset, List.nil_subset, List.mem_cons, reduceCtorEq, true_or, or_true, false_or, and_true]

theorem State.addHold_frame (s : State) (k : StringNo) (h : HoldRequest) : Frame [.swc, .smu, .rsl] s (s.addHold k h) := by
  unfold State.addHold
  repeat' split
  all_goals simp only [Frame.drop (State.setString_frame _ _ _), Frame.drop (State.queueOpen_frame _ _ _ _), Frame.drop (State.updateMemo_frame _ _), frame_swc, Frame.refl, List.cons_subset, List.nil_subset, List.mem_cons, reduceCtorEq, true_or, or_true, false_or, and_true]

theorem State.releaseHold_frame (s : State) (k : StringNo) (x : Release) : Frame [.swc, .smu] s (s.releaseHold k x) := by
  unfold State.releaseHold
  repeat' split
  all_goals try simp only [Frame.refl]
  all_goals repeat' split
  all_goals simp only [Frame.drop (State.setString_frame _ _ _), Frame.drop (State.queueClose_frame _ _), Frame.drop (State.updateMemo_frame _ _), Frame.refl, List.cons_subset, List.nil_subset, List.mem_cons, reduceCtorEq, true_or, or_true, false_or, and_true]

theorem State.recordIsolation_frame (s : State) (k : StringNo) (c : OpenCause) (d : HoldDetail) : Frame [.swc, .lnc] s (s.recordIsolation k c d) := by
  unfold State.recordIsolation
  repeat' split
  all_goals simp only [Frame.drop (State.setString_frame _ _ _), Frame.drop (State.queueFrame_frame _ _), Frame.refl, List.cons_subset, List.nil_subset, List.mem_cons, reduceCtorEq, true_or, or_true, false_or, and_true]

theorem State.startReclose_frame (s : State) (k : StringNo) : Frame [.rsl] s (s.startReclose k) := by
  unfold State.startReclose
  repeat' split
  all_goals simp only [Frame.drop (State.setRelease_frame _ _ _), Frame.refl, List.cons_subset, List.nil_subset, List.mem_cons, true_or, and_true]

theorem State.openConfirmed_frame (s : State) (k : StringNo) (q : Request) : Frame [.smu, .sel, .prb, .lnc, .swc, .rsl] s (s.openConfirmed k q) := by
  unfold State.openConfirmed
  all_goals try simp only []
  all_goals repeat' split
  all_goals simp only [Frame.drop (State.setString_frame _ _ _), Frame.drop (State.selOpened_frame _ _), Frame.drop (State.probeDisturbed_frame _), Frame.drop (State.queueClose_frame _ _), Frame.drop (State.updateMemo_frame _ _), Frame.drop (State.recordIsolation_frame _ _ _ _), Frame.drop (State.startReclose_frame _ _), Frame.refl, List.cons_subset, List.nil_subset, List.mem_cons, reduceCtorEq, true_or, or_true, false_or, and_true]

theorem State.takenClosed_frame (s : State) (k : StringNo) : Frame [.smu, .eve, .swc, .rsl] s (s.takenClosed k) := by
  unfold State.takenClosed
  all_goals simp only [Frame.drop (State.setString_frame _ _ _), Frame.drop (State.setRelease_frame _ _ _), Frame.drop (State.setEvidence_frame _ _ _), Frame.drop (State.askMemo_frame _ _ _), Frame.refl, List.cons_subset, List.nil_subset, List.mem_cons, reduceCtorEq, true_or, or_true, false_or, and_true]

theorem State.closeConfirmed_frame (s : State) (k : StringNo) : Frame [.smu, .eve, .swc, .rsl] s (s.closeConfirmed k) := by
  unfold State.closeConfirmed
  all_goals try simp only []
  all_goals repeat' split
  all_goals simp only [Frame.drop (State.queueOpen_frame _ _ _ _), Frame.drop (State.takenClosed_frame _ _), Frame.refl, List.cons_subset, List.nil_subset, List.mem_cons, reduceCtorEq, true_or, or_true, false_or, and_true]

theorem State.engineIdle_frame (s : State) : Frame [.swc] s s.engineIdle := by
  unfold State.engineIdle
  all_goals exact ⟨rfl, rfl, fun b hb => by cases b <;> first | rfl | simp at hb⟩

theorem State.attemptConfirmed_frame (s : State) (k : StringNo) (d : Direction) : Frame [.smu, .eve, .sel, .prb, .lnc, .swc, .rsl] s (s.attemptConfirmed k d) := by
  unfold State.attemptConfirmed
  repeat' split
  all_goals try simp only []
  all_goals repeat' split
  all_goals simp only [Frame.drop (State.kickDrive_frame _), Frame.drop (State.openConfirmed_frame _ _ _), Frame.drop (State.closeConfirmed_frame _ _), Frame.drop (State.engineIdle_frame _), Frame.refl, List.cons_subset, List.nil_subset, List.mem_cons, reduceCtorEq, true_or, or_true, false_or, and_true]

theorem State.becomeStuck_frame (s : State) (k : StringNo) (x : StringState) : Frame [.smu, .sel, .lnc, .swc] s (s.becomeStuck k x) := by
  unfold State.becomeStuck
  all_goals simp only [Frame.drop (State.setString_frame _ _ _), Frame.drop (State.selStuck_frame _ _), Frame.drop (State.updateMemo_frame _ _), Frame.refl, List.cons_subset, List.nil_subset, List.mem_cons, reduceCtorEq, true_or, or_true, false_or, and_true]

theorem State.requeue_frame (s : State) (k : StringNo) (d : Direction) : Frame [.swc] s (s.requeue k d) := by
  unfold State.requeue
  repeat' split
  all_goals simp only [Frame.drop (State.setString_frame _ _ _), frame_swc, Frame.refl, List.cons_subset, List.nil_subset, List.mem_cons, true_or, and_true]

theorem State.attemptFailed_frame (s : State) (k : StringNo) (d : Direction) : Frame [.smu, .sel, .lnc, .swc] s (s.attemptFailed k d) := by
  unfold State.attemptFailed
  repeat' split
  all_goals try simp only []
  all_goals repeat' split
  all_goals simp only [Frame.drop (State.setString_frame _ _ _), Frame.drop (State.selReturned_frame _ _), Frame.drop (State.kickDrive_frame _), Frame.drop (State.updateMemo_frame _ _), Frame.drop (State.engineIdle_frame _), Frame.drop (State.becomeStuck_frame _ _ _), Frame.drop (State.requeue_frame _ _ _), Frame.refl, List.cons_subset, List.nil_subset, List.mem_cons, reduceCtorEq, true_or, or_true, false_or, and_true]

theorem State.pulseEnds_frame (s : State) : Frame [.swc] s s.pulseEnds := by
  unfold State.pulseEnds
  all_goals exact ⟨rfl, rfl, fun b hb => by cases b <;> first | rfl | simp at hb⟩

theorem State.mismatchTest_frame (s : State) (k : StringNo) : Frame [.smu, .sel, .lnc, .swc, .rsl] s (s.mismatchTest k) := by
  unfold State.mismatchTest
  repeat' split
  all_goals simp only [Frame.drop (State.setString_frame _ _ _), Frame.drop (State.setRelease_frame _ _ _), Frame.drop (State.becomeStuck_frame _ _ _), Frame.refl, List.cons_subset, List.nil_subset, List.mem_cons, reduceCtorEq, true_or, or_true, false_or, and_true]

theorem State.freshAttempt_frame (s : State) (k : StringNo) : Frame [.smu, .eve, .swc, .rsl] s (s.freshAttempt k) := by
  unfold State.freshAttempt
  repeat' split
  all_goals simp only [Frame.drop (State.setString_frame _ _ _), Frame.drop (State.queueOpen_frame _ _ _ _), Frame.drop (State.queueClose_frame _ _), Frame.drop (State.takenClosed_frame _ _), Frame.refl, List.cons_subset, List.nil_subset, List.mem_cons, reduceCtorEq, true_or, or_true, false_or, and_true]

theorem State.initialSetting_frame (s : State) (k : StringNo) (c : Bool) (v : Option MemoValue) : Frame [.smu, .swc, .rsl] s (s.initialSetting k c v) := by
  unfold State.initialSetting
  repeat' split
  all_goals simp only [Frame.drop (State.setString_frame _ _ _), Frame.drop (State.askMemo_frame _ _ _), Frame.drop (State.addHold_frame _ _ _), Frame.drop (State.startReclose_frame _ _), Frame.refl, List.cons_subset, List.nil_subset, List.mem_cons, reduceCtorEq, true_or, or_true, false_or, and_true]

theorem State.requestHold_frame (s : State) (x : IncidentKind) (k : StringNo) (h : FaultHold) : Frame [.smu, .sel, .lnc, .swc, .rsl] s (s.requestHold x k h) := by
  unfold State.requestHold
  repeat' split
  all_goals simp only [Frame.drop (State.closeIncident_frame _ _), Frame.drop (State.addHold_frame _ _ _), Frame.refl, List.cons_subset, List.nil_subset, List.mem_cons, reduceCtorEq, true_or, or_true, false_or, and_true]

theorem State.decideArc_frame (s : State) : Frame [.smu, .sel, .lnc, .swc, .rsl] s s.decideArc := by
  unfold State.decideArc
  repeat' split
  all_goals simp only [Frame.drop (State.setArc_frame _ _), Frame.drop (State.withdrawClaim_frame _ _), Frame.drop (State.requestHold_frame _ _ _ _), frame_sel, Frame.refl, List.cons_subset, List.nil_subset, List.mem_cons, reduceCtorEq, true_or, or_true, false_or, and_true]

theorem State.decideGround_frame (s : State) : Frame [.smu, .sel, .lnc, .swc, .rsl] s s.decideGround := by
  unfold State.decideGround
  repeat' split
  all_goals try simp only [Frame.drop (State.setSuspect_frame _ _ _), Frame.drop (State.closeIncident_frame _ _), Frame.refl, List.cons_subset, List.nil_subset, List.mem_cons, reduceCtorEq, true_or, or_true, false_or, and_true]
  all_goals repeat' split
  all_goals simp only [Frame.drop (State.setSuspect_frame _ _ _), Frame.drop (State.setGround_frame _ _), Frame.drop (State.withdrawClaim_frame _ _), Frame.drop (State.closeIncident_frame _ _), Frame.drop (State.requestHold_frame _ _ _ _), Frame.refl, List.cons_subset, List.nil_subset, List.mem_cons, reduceCtorEq, true_or, or_true, false_or, and_true]

theorem State.yieldExpiry_frame (s : State) : Frame [.sel, .lnc] s s.yieldExpiry := by
  unfold State.yieldExpiry
  repeat' split
  all_goals simp only [Frame.drop (State.withdrawClaim_frame _ _), Frame.drop (State.openRound_frame _ _), Frame.drop (State.closeIncident_frame _ _), Frame.refl, List.cons_subset, List.nil_subset, List.mem_cons, reduceCtorEq, true_or, or_true, false_or, and_true]

theorem State.setStopSet_frame (s : State) (xs : List Nat) : Frame [.pvw] s (s.setStopSet xs) := by
  unfold State.setStopSet
  all_goals exact ⟨rfl, rfl, fun b hb => by cases b <;> first | rfl | simp at hb⟩

theorem State.takeArrayStop_frame (s : State) (a : Nat) : Frame [.smu, .sel, .prb, .lnc, .pvw, .swc, .rsl] s (s.takeArrayStop a) := by
  unfold State.takeArrayStop
  simp only [Frame.drop (State.selSuperseded_frame _), Frame.drop (State.probeBarred_frame _), List.cons_subset, List.nil_subset, List.mem_cons, reduceCtorEq, true_or, or_true, false_or, and_true]
  refine Frame.trans ?_ (frame_forStrings _ fun t k => ?_)
  all_goals simp only [Frame.drop (State.addHold_frame _ _ _), Frame.drop (State.setStopSet_frame _ _), Frame.refl, List.cons_subset, List.nil_subset, List.mem_cons, reduceCtorEq, true_or, or_true, false_or, and_true]

theorem State.releaseStops_frame (s : State) : Frame [.swc, .smu] s s.releaseStops := by
  unfold State.releaseStops
  refine frame_forStrings _ fun t k => ?_
  simp only [Frame.drop (State.releaseHold_frame _ _ _), Frame.refl, List.cons_subset, List.nil_subset, List.mem_cons, reduceCtorEq, true_or, or_true, false_or, and_true]

theorem State.removeStop_frame (s : State) (a : Nat) : Frame [.pvw, .swc, .smu] s (s.removeStop a) := by
  unfold State.removeStop
  repeat' split
  all_goals try simp only [Frame.refl]
  all_goals repeat' split
  all_goals simp only [Frame.drop (State.setStopSet_frame _ _), Frame.drop (State.releaseStops_frame _), Frame.refl, List.cons_subset, List.nil_subset, List.mem_cons, reduceCtorEq, true_or, or_true, false_or, and_true]

theorem State.releaseRemembered_frame (s : State) : Frame [.swc, .smu] s s.releaseRemembered := by
  unfold State.releaseRemembered
  refine frame_forStrings _ fun t k => ?_
  simp only [Frame.drop (State.releaseHold_frame _ _ _), Frame.refl, List.cons_subset, List.nil_subset, List.mem_cons, reduceCtorEq, true_or, or_true, false_or, and_true]

theorem State.stopReclose_frame (s : State) (k : StringNo) : Frame [.rsl] s (s.stopReclose k) := by
  unfold State.stopReclose
  all_goals simp only [Frame.drop (State.setRelease_frame _ _ _), Frame.refl, List.cons_subset, List.nil_subset, List.mem_cons, true_or, and_true]

theorem State.releaseFault_frame (s : State) (k : StringNo) : Frame [.swc, .smu, .rsl] s (s.releaseFault k) := by
  unfold State.releaseFault
  repeat' split
  all_goals simp only [Frame.drop (State.releaseHold_frame _ _ _), Frame.drop (State.stopReclose_frame _ _), Frame.refl, List.cons_subset, List.nil_subset, List.mem_cons, reduceCtorEq, true_or, or_true, false_or, and_true]

theorem State.press_frame (s : State) : Frame [.smu, .eve, .swc, .rsl] s s.press := by
  unfold State.press
  refine Frame.trans (frame_forStrings (bs := [.smu, .eve, .swc, .rsl]) _ fun t k => ?_) (frame_forStrings _ fun t k => ?_)
  all_goals simp only [Frame.drop (State.releaseHold_frame _ _ _), Frame.drop (State.freshAttempt_frame _ _), Frame.drop (State.releaseFault_frame _ _), Frame.refl, List.cons_subset, List.nil_subset, List.mem_cons, reduceCtorEq, true_or, or_true, false_or, and_true]

theorem State.setButton_frame (s : State) (b : ButtonState) (x : Option Time) : Frame [.rsl] s (s.setButton b x) := by
  unfold State.setButton
  all_goals exact ⟨rfl, rfl, fun b hb => by cases b <;> first | rfl | simp at hb⟩

theorem State.buttonInput_frame (s : State) (b : Bool) : Frame [.rsl] s (s.buttonInput b) := by
  unfold State.buttonInput
  repeat' split
  all_goals try simp only [Frame.refl]
  all_goals repeat' split
  all_goals simp only [Frame.drop (State.setButton_frame _ _ _), frame_rsl, Frame.refl, List.cons_subset, List.nil_subset, List.mem_cons, true_or, and_true]

theorem State.buttonExpiry_frame (s : State) : Frame [.smu, .eve, .swc, .rsl] s s.buttonExpiry := by
  unfold State.buttonExpiry
  repeat' split
  all_goals simp only [Frame.drop (State.press_frame _), Frame.drop (State.setButton_frame _ _ _), Frame.refl, List.cons_subset, List.nil_subset, List.mem_cons, reduceCtorEq, true_or, or_true, false_or, and_true]

theorem State.recloseExpired_frame (s : State) (k : StringNo) : Frame [.swc, .smu, .rsl] s (s.recloseExpired k) := by
  unfold State.recloseExpired
  repeat' split
  all_goals try simp only [Frame.refl]
  all_goals repeat' split
  all_goals simp only [Frame.drop (State.setRelease_frame _ _ _), Frame.drop (State.releaseFault_frame _ _), Frame.refl, List.cons_subset, List.nil_subset, List.mem_cons, reduceCtorEq, true_or, or_true, false_or, and_true]

theorem State.closedExpired_frame (s : State) (k : StringNo) : Frame [.rsl] s (s.closedExpired k) := by
  unfold State.closedExpired
  repeat' split
  all_goals simp only [Frame.drop (State.setRelease_frame _ _ _), Frame.refl, List.cons_subset, List.nil_subset, List.mem_cons, true_or, and_true]

theorem State.announceStop_frame (s : State) : Frame [.lnc] s s.announceStop := by
  unfold State.announceStop
  repeat' split
  all_goals simp only [Frame.drop (State.countError_frame _), frame_lnc, Frame.refl, List.cons_subset, List.nil_subset, List.mem_cons, true_or, and_true]

theorem State.startRepeat_frame (s : State) : Frame [.rsl] s s.startRepeat := by
  unfold State.startRepeat
  repeat' split
  all_goals exact ⟨rfl, rfl, fun b hb => by cases b <;> first | rfl | simp at hb⟩

theorem State.stopKeyCloses_frame (s : State) : Frame [.smu, .sel, .prb, .lnc, .pvw, .swc, .rsl] s s.stopKeyCloses := by
  unfold State.stopKeyCloses
  all_goals simp only [Frame.drop (State.takeArrayStop_frame _ _), Frame.drop (State.announceStop_frame _), Frame.drop (State.startRepeat_frame _), Frame.refl, List.cons_subset, List.nil_subset, List.mem_cons, reduceCtorEq, true_or, or_true, false_or, and_true]

theorem State.stopKeyOpens_frame (s : State) : Frame [.smu, .lnc, .pvw, .swc, .rsl] s s.stopKeyOpens := by
  unfold State.stopKeyOpens
  all_goals simp only [Frame.drop (State.queueFrame_frame _ _), Frame.drop (State.removeStop_frame _ _), frame_rsl, Frame.refl, List.cons_subset, List.nil_subset, List.mem_cons, reduceCtorEq, true_or, or_true, false_or, and_true]

theorem State.lockKeyCloses_frame (s : State) : Frame [.smu, .sel, .prb, .lnc, .swc, .rsl] s s.lockKeyCloses := by
  unfold State.lockKeyCloses
  simp only [Frame.drop (State.selSuperseded_frame _), Frame.drop (State.probeBarred_frame _), List.cons_subset, List.nil_subset, List.mem_cons, reduceCtorEq, true_or, or_true, false_or, and_true]
  refine Frame.trans ?_ (frame_forStrings _ fun t k => ?_)
  all_goals simp only [Frame.drop (State.addHold_frame _ _ _), Frame.refl, List.cons_subset, List.nil_subset, List.mem_cons, reduceCtorEq, true_or, or_true, false_or, and_true]

theorem State.lockKeyOpens_frame (s : State) : Frame [.smu, .swc] s s.lockKeyOpens := by
  unfold State.lockKeyOpens
  refine frame_forStrings _ fun t k => ?_
  simp only [Frame.drop (State.releaseHold_frame _ _ _), Frame.refl, List.cons_subset, List.nil_subset, List.mem_cons, reduceCtorEq, true_or, or_true, false_or, and_true]

theorem State.setKey_frame (s : State) (k : Key) (x : KeyState) : Frame [.rsl] s (s.setKey k x) := by
  unfold State.setKey
  repeat' split
  all_goals exact ⟨rfl, rfl, fun b hb => by cases b <;> first | rfl | simp at hb⟩

theorem State.keyInput_frame (s : State) (k : Key) (b : Bool) : Frame [.rsl] s (s.keyInput k b) := by
  unfold State.keyInput
  repeat' split
  all_goals try simp only []
  all_goals repeat' split
  all_goals simp only [Frame.drop (State.setKey_frame _ _ _), Frame.refl, List.cons_subset, List.nil_subset, List.mem_cons, true_or, and_true]

theorem State.keyAccepted_frame (s : State) (k : Key) : Frame [.smu, .sel, .prb, .lnc, .pvw, .swc, .rsl] s (s.keyAccepted k) := by
  unfold State.keyAccepted
  all_goals try simp only []
  all_goals repeat' split
  all_goals simp only [Frame.drop (State.stopKeyCloses_frame _), Frame.drop (State.stopKeyOpens_frame _), Frame.drop (State.lockKeyCloses_frame _), Frame.drop (State.lockKeyOpens_frame _), Frame.drop (State.setKey_frame _ _ _), Frame.refl, List.cons_subset, List.nil_subset, List.mem_cons, reduceCtorEq, true_or, or_true, false_or, and_true]

theorem State.stopRepeat_frame (s : State) : Frame [.lnc, .rsl] s s.stopRepeat := by
  unfold State.stopRepeat
  repeat' split
  all_goals simp only [Frame.drop (State.announceStop_frame _), Frame.drop (State.startRepeat_frame _), Frame.refl, List.cons_subset, List.nil_subset, List.mem_cons, reduceCtorEq, true_or, or_true, false_or, and_true]

theorem State.beginWatching_frame (s : State) : Frame [.rsl] s s.beginWatching := by
  unfold State.beginWatching
  repeat' split
  all_goals exact ⟨rfl, rfl, fun b hb => by cases b <;> first | rfl | simp at hb⟩

theorem State.formInterval_frame (s : State) (x : IntervalSamples) : Frame [.ssu] s (s.formInterval x) := by
  unfold State.formInterval
  refine Frame.trans ?_ (frame_forStrings _ fun t k => ?_)
  all_goals simp only [frame_ssu, Frame.refl, List.mem_cons, true_or]

theorem State.observeAll_frame (s : State) : Frame [.eve] s s.observeAll := by
  unfold State.observeAll
  refine frame_forStrings _ fun t k => ?_
  simp only [Frame.drop (State.setEvidence_frame _ _ _), Frame.refl, List.cons_subset, List.nil_subset, List.mem_cons, true_or, and_true]

theorem State.evidenceUpdate_frame (s : State) : Frame [.eve] s s.evidenceUpdate := by
  unfold State.evidenceUpdate
  refine Frame.trans ?_ (frame_forStrings _ fun t k => ?_)
  all_goals simp only [Frame.drop (State.setEvidence_frame _ _ _), Frame.drop (State.observeAll_frame _), Frame.refl, List.cons_subset, List.nil_subset, List.mem_cons, true_or, and_true]

theorem State.handTrips_frame (s : State) (e : PerString Evidence) : Frame [.smu, .swc, .rsl] s (s.handTrips e) := by
  unfold State.handTrips
  refine frame_forStrings _ fun t k => ?_
  split
  all_goals simp only [Frame.drop (State.addHold_frame _ _ _), Frame.refl, List.cons_subset, List.nil_subset, List.mem_cons, reduceCtorEq, true_or, or_true, false_or, and_true]

theorem State.arcOnset_frame (s : State) (k : StringNo) : Frame [.sel, .prb, .lnc] s (s.arcOnset k) := by
  unfold State.arcOnset
  all_goals simp only [Frame.drop (State.openArc_frame _ _ _), Frame.drop (State.probeAbort_frame _), Frame.refl, List.cons_subset, List.nil_subset, List.mem_cons, reduceCtorEq, true_or, or_true, false_or, and_true]

theorem State.eveInterval_frame (s : State) : Frame [.smu, .eve, .sel, .prb, .lnc, .swc, .rsl] s s.eveInterval := by
  unfold State.eveInterval
  repeat' split
  all_goals try simp only [Frame.drop (State.evidenceUpdate_frame _), Frame.drop (State.handTrips_frame _ _), Frame.refl, List.cons_subset, List.nil_subset, List.mem_cons, reduceCtorEq, true_or, or_true, false_or, and_true]
  all_goals repeat' split
  all_goals simp only [Frame.drop (State.evidenceUpdate_frame _), Frame.drop (State.handTrips_frame _ _), Frame.drop (State.arcOnset_frame _ _), Frame.refl, List.cons_subset, List.nil_subset, List.mem_cons, reduceCtorEq, true_or, or_true, false_or, and_true]

theorem State.settle_frame (s : State) : Frame [.swc, .rpt] s s.settle := by
  unfold State.settle
  all_goals exact ⟨rfl, rfl, fun b hb => by cases b <;> first | rfl | simp at hb⟩

theorem State.buildStatus_frame (s : State) : Frame [.lnc] s s.buildStatus := by
  unfold State.buildStatus
  all_goals simp only [Frame.drop (State.queueFrame_frame _ _), Frame.refl, List.cons_subset, List.nil_subset, List.mem_cons, true_or, and_true]

theorem State.lineRelease_frame (s : State) (k : StringNo) : Frame [.smu, .swc, .rsl] s (s.lineRelease k) := by
  unfold State.lineRelease
  all_goals simp only [Frame.drop (State.releaseHold_frame _ _ _), Frame.drop (State.releaseFault_frame _ _), Frame.refl, List.cons_subset, List.nil_subset, List.mem_cons, reduceCtorEq, true_or, or_true, false_or, and_true]

theorem State.serviceRestore_frame (s : State) (ks : List StringNo) : Frame [.smu, .swc, .rsl] s (s.serviceRestore ks).1 := by
  unfold State.serviceRestore
  refine frame_forStrings _ fun t k => ?_
  simp only [Frame.drop (State.lineRelease_frame _ _), Frame.refl, List.cons_subset, List.nil_subset, List.mem_cons, reduceCtorEq, true_or, or_true, false_or, and_true]

theorem State.serviceOpen_frame (s : State) (ks : List StringNo) : Frame [.smu, .swc, .rsl] s (s.serviceOpen ks).1 := by
  unfold State.serviceOpen
  refine frame_forStrings _ fun t k => ?_
  simp only [Frame.drop (State.addHold_frame _ _ _), Frame.refl, List.cons_subset, List.nil_subset, List.mem_cons, reduceCtorEq, true_or, or_true, false_or, and_true]

theorem State.carryOut_frame (s : State) (o : Operation) (h l : Byte) : Frame [.smu, .prb, .lnc, .swc, .rsl] s (s.carryOut o h l).1 := by
  unfold State.carryOut
  repeat' split
  all_goals simp only [Frame.drop (State.serviceTrigger_frame _), Frame.drop (State.serviceRestore_frame _ _), Frame.drop (State.serviceOpen_frame _ _), Frame.refl, List.cons_subset, List.nil_subset, List.mem_cons, reduceCtorEq, true_or, or_true, false_or, and_true]

theorem State.serviceDelivered_frame (s : State) (f : Received) : Frame [.smu, .prb, .lnc, .swc, .rsl] s (s.serviceDelivered f) := by
  unfold State.serviceDelivered
  all_goals try simp only []
  all_goals repeat' split
  all_goals simp only [Frame.drop (State.queueFrame_frame _ _), Frame.drop (State.carryOut_frame _ _ _ _), Frame.refl, List.cons_subset, List.nil_subset, List.mem_cons, reduceCtorEq, true_or, or_true, false_or, and_true]

theorem State.statusCompleted_frame (s : State) (f : QueuedFrame) : Frame [.sel] s (s.statusCompleted f) := by
  unfold State.statusCompleted
  repeat' split
  all_goals exact ⟨rfl, rfl, fun b hb => by cases b <;> first | rfl | simp at hb⟩

theorem State.reportOutcome_frame (s : State) (f : QueuedFrame) (o : FrameOutcome) : Frame [.sel, .prb, .lnc] s (s.reportOutcome f o) := by
  unfold State.reportOutcome
  repeat' split
  all_goals simp only [Frame.drop (State.claimReport_frame _ _ _), Frame.drop (State.injectorStart_frame _ _), Frame.drop (State.injectorEnd_frame _), Frame.drop (State.probeOpenLost_frame _), Frame.drop (State.probeOpenWithdrawn_frame _), Frame.drop (State.probeCloseLost_frame _), Frame.drop (State.statusCompleted_frame _ _), Frame.refl, List.cons_subset, List.nil_subset, List.mem_cons, reduceCtorEq, true_or, or_true, false_or, and_true]

theorem State.takePending_frame (s : State) : Frame [.lnc] s s.takePending := by
  unfold State.takePending
  repeat' split
  all_goals simp only [Frame.drop (State.setLnc_frame _ _), Frame.drop (State.makeRoomAndEnter_frame _ _), Frame.refl, List.cons_subset, List.nil_subset, List.mem_cons, true_or, and_true]

theorem State.attemptEnded_frame (s : State) (f : QueuedFrame) : Frame [.sel, .prb, .lnc] s (s.attemptEnded f) := by
  unfold State.attemptEnded
  repeat' split
  all_goals simp only [Frame.drop (State.setLnc_frame _ _), Frame.drop (State.removeEntry_frame _ _), Frame.drop (State.enterFrame_frame _ _), Frame.drop (State.reportOutcome_frame _ _ _), Frame.refl, List.cons_subset, List.nil_subset, List.mem_cons, reduceCtorEq, true_or, or_true, false_or, and_true]

theorem State.afterLeaving_frame (s : State) (f : QueuedFrame) : Frame [.lnc] s (s.afterLeaving f) := by
  unfold State.afterLeaving
  repeat' split
  all_goals simp only [Frame.drop (State.takePending_frame _), Frame.refl, List.cons_subset, List.nil_subset, List.mem_cons, true_or, and_true]

theorem State.startAttempt_frame (s : State) : Frame [.lnc] s s.startAttempt := by
  unfold State.startAttempt
  repeat' split
  all_goals simp only [Frame.drop (State.setLnc_frame _ _), Frame.refl, List.cons_subset, List.nil_subset, List.mem_cons, true_or, and_true]

theorem State.idleGap_frame (s : State) : Frame [.lnc] s s.idleGap := by
  unfold State.idleGap
  repeat' split
  all_goals simp only [Frame.drop (State.setLnc_frame _ _), Frame.drop (State.startAttempt_frame _), Frame.refl, List.cons_subset, List.nil_subset, List.mem_cons, true_or, and_true]

theorem State.loseAttempt_frame (s : State) : Frame [.sel, .prb, .lnc] s s.loseAttempt := by
  unfold State.loseAttempt
  repeat' split
  all_goals simp only [Frame.drop (State.setLnc_frame _ _), Frame.drop (State.attemptEnded_frame _ _), Frame.refl, List.cons_subset, List.nil_subset, List.mem_cons, reduceCtorEq, true_or, or_true, false_or, and_true]

theorem State.arbitrationLoss_frame (s : State) (read : List Level) : Frame [.sel, .prb, .lnc] s (s.arbitrationLoss read) := by
  unfold State.arbitrationLoss
  split
  · exact s.loseAttempt_frame
  · exact Frame.refl _ _

theorem State.failAttempt_frame (s : State) (b : Bool) : Frame [.sel, .prb, .lnc] s (s.failAttempt b) := by
  unfold State.failAttempt
  repeat' split
  all_goals simp only [Frame.drop (State.setLnc_frame _ _), Frame.drop (State.removeEntry_frame _ _), Frame.drop (State.countError_frame _), Frame.drop (State.reportOutcome_frame _ _ _), Frame.drop (State.attemptEnded_frame _ _), Frame.drop (State.afterLeaving_frame _ _), Frame.refl, List.cons_subset, List.nil_subset, List.mem_cons, reduceCtorEq, true_or, or_true, false_or, and_true]

theorem State.bitError_frame (s : State) (read : List Level) (b : Bool) : Frame [.sel, .prb, .lnc] s (s.bitError read b) := by
  unfold State.bitError
  split
  · exact s.failAttempt_frame b
  · exact Frame.refl _ _

theorem State.completeAttempt_frame (s : State) : Frame [.sel, .prb, .lnc] s s.completeAttempt := by
  unfold State.completeAttempt
  repeat' split
  all_goals simp only [Frame.drop (State.setLnc_frame _ _), Frame.drop (State.removeEntry_frame _ _), Frame.drop (State.reportOutcome_frame _ _ _), Frame.drop (State.afterLeaving_frame _ _), Frame.refl, List.cons_subset, List.nil_subset, List.mem_cons, reduceCtorEq, true_or, or_true, false_or, and_true]

theorem State.transmitCompleted_frame (s : State) (read : List Level) : Frame [.sel, .prb, .lnc] s (s.transmitCompleted read) := by
  unfold State.transmitCompleted
  split
  · exact s.completeAttempt_frame
  · exact Frame.refl _ _

theorem State.appendChar_frame (s : State) (c : Byte) : Frame [.lnc] s (s.appendChar c) := by
  unfold State.appendChar
  all_goals try simp only []
  all_goals repeat' split
  all_goals simp only [Frame.drop (State.setLnc_frame _ _), Frame.drop (State.countError_frame _), Frame.refl, List.cons_subset, List.nil_subset, List.mem_cons, true_or, and_true]

theorem State.characterTaken_frame (s : State) (c : Byte) (m p : Level) : Frame [.lnc] s (s.characterTaken c m p) := by
  unfold State.characterTaken
  repeat' split
  all_goals simp only [Frame.drop (State.setLnc_frame _ _), Frame.drop (State.countError_frame _), Frame.drop (State.appendChar_frame _ _), Frame.refl, List.cons_subset, List.nil_subset, List.mem_cons, true_or, and_true]

theorem State.characterGap_frame (s : State) : Frame [.lnc] s s.characterGap := by
  unfold State.characterGap
  repeat' split
  all_goals simp only [Frame.drop (State.setLnc_frame _ _), Frame.drop (State.countError_frame _), Frame.refl, List.cons_subset, List.nil_subset, List.mem_cons, true_or, and_true]

theorem State.setPeer_frame (s : State) (p : PeerNo) (e : PeerEntry) : Frame [.pvw] s (s.setPeer p e) := by
  unfold State.setPeer
  all_goals exact ⟨rfl, rfl, fun b hb => by cases b <;> first | rfl | simp at hb⟩

theorem State.heard_frame (s : State) (p : PeerNo) : Frame [.pvw, .lnc] s (s.heard p) := by
  unfold State.heard
  all_goals try simp only []
  all_goals repeat' split
  all_goals simp only [Frame.drop (State.setLnc_frame _ _), Frame.drop (State.setPeer_frame _ _ _), Frame.refl, List.cons_subset, List.nil_subset, List.mem_cons, reduceCtorEq, true_or, or_true, false_or, and_true]

theorem State.statusDelivered_frame (s : State) (f : Received) : Frame [.pvw, .swc, .smu] s (s.statusDelivered f) := by
  unfold State.statusDelivered
  repeat' split
  all_goals simp only [Frame.drop (State.removeStop_frame _ _), Frame.refl, List.cons_subset, List.nil_subset, List.mem_cons, reduceCtorEq, true_or, or_true, false_or, and_true]

theorem State.deliver_frame (s : State) (k : Kind) (f : Received) : Frame [.smu, .sel, .prb, .lnc, .pvw, .swc, .rsl] s (s.deliver k f) := by
  unfold State.deliver
  repeat' split
  all_goals simp only [Frame.drop (State.claimDelivered_frame _ _), Frame.drop (State.probeOpenTaken_frame _ _), Frame.drop (State.probeDisturbed_frame _), Frame.drop (State.probeCloseDelivered_frame _ _), Frame.drop (State.takeArrayStop_frame _ _), Frame.drop (State.removeStop_frame _ _), Frame.drop (State.serviceDelivered_frame _ _), Frame.drop (State.statusDelivered_frame _ _), Frame.refl, List.cons_subset, List.nil_subset, List.mem_cons, reduceCtorEq, true_or, or_true, false_or, and_true]

theorem State.sortFrame_frame (s : State) (f : Received) : Frame [.smu, .sel, .prb, .lnc, .pvw, .swc, .rsl] s (s.sortFrame f) := by
  unfold State.sortFrame
  repeat' split
  all_goals simp only [Frame.drop (State.setLnc_frame _ _), Frame.drop (State.heard_frame _ _), Frame.drop (State.deliver_frame _ _ _), Frame.refl, List.cons_subset, List.nil_subset, List.mem_cons, reduceCtorEq, true_or, or_true, false_or, and_true]

theorem State.frameCompleted_frame (s : State) : Frame [.smu, .sel, .prb, .lnc, .pvw, .swc, .rsl] s s.frameCompleted := by
  unfold State.frameCompleted
  repeat' split
  all_goals try simp only [Frame.refl]
  all_goals repeat' split
  all_goals simp only [Frame.drop (State.setLnc_frame _ _), Frame.drop (State.countError_frame _), Frame.drop (State.sortFrame_frame _ _), Frame.refl, List.cons_subset, List.nil_subset, List.mem_cons, reduceCtorEq, true_or, or_true, false_or, and_true]

theorem State.healthPeriodEnd_frame (s : State) : Frame [.lnc] s s.healthPeriodEnd := by
  unfold State.healthPeriodEnd
  repeat' split
  all_goals simp only [Frame.drop (State.setLnc_frame _ _), Frame.refl, List.cons_subset, List.nil_subset, List.mem_cons, true_or, and_true]

theorem State.silence_frame (s : State) : Frame [.lnc] s s.silence := by
  unfold State.silence
  repeat' split
  all_goals simp only [Frame.drop (State.setLnc_frame _ _), Frame.refl, List.cons_subset, List.nil_subset, List.mem_cons, true_or, and_true]

theorem State.peerSilence_frame (s : State) (p : PeerNo) : Frame [.pvw] s (s.peerSilence p) := by
  unfold State.peerSilence
  all_goals try simp only []
  all_goals repeat' split
  all_goals simp only [Frame.drop (State.setPeer_frame _ _ _), Frame.refl, List.cons_subset, List.nil_subset, List.mem_cons, true_or, and_true]

theorem State.lineStuck_frame (s : State) : Frame [.sel, .prb, .lnc] s s.lineStuck := by
  unfold State.lineStuck
  all_goals simp only [Frame.drop (State.setLnc_frame _ _), Frame.drop (State.probeStuck_frame _), Frame.refl, List.cons_subset, List.nil_subset, List.mem_cons, reduceCtorEq, true_or, or_true, false_or, and_true]

theorem State.stuckLine_frame (s : State) (run : Nat) : Frame [.sel, .prb, .lnc] s (s.stuckLine run) := by
  unfold State.stuckLine
  dsimp only
  split
  all_goals simp only [Frame.drop (State.setLnc_frame _ _), Frame.drop (State.lineStuck_frame _), Frame.refl, List.cons_subset, List.nil_subset, List.mem_cons, reduceCtorEq, true_or, or_true, false_or, and_true]

theorem State.lineFreed_frame (s : State) : Frame [.lnc] s s.lineFreed := by
  unfold State.lineFreed
  repeat' split
  all_goals simp only [Frame.drop (State.setLnc_frame _ _), Frame.drop (State.startAttempt_frame _), Frame.refl, List.cons_subset, List.nil_subset, List.mem_cons, true_or, and_true]

theorem State.flush_frame (s : State) : Frame [.sel, .prb, .lnc] s s.flush := by
  unfold State.flush
  have key : ∀ (fs : List QueuedFrame) (u : State), Frame [.sel, .prb, .lnc] u (fs.foldl (fun u f => u.reportOutcome f .removedByBreak) u) := by
    intro fs
    induction fs with
    | nil => exact fun u => Frame.refl _ _
    | cons f fs ih => exact fun u => (State.reportOutcome_frame u f .removedByBreak).trans (ih _)
  exact Frame.trans (Frame.mono (State.setLnc_frame _ _) (by decide)) (key _ _)

theorem State.breakRecognised_frame (s : State) (r : Nat) : Frame [.sel, .prb, .lnc] s (s.breakRecognised r) := by
  unfold State.breakRecognised
  repeat' split
  all_goals simp only [Frame.drop (State.setLnc_frame _ _), Frame.drop (State.flush_frame _), Frame.refl, List.cons_subset, List.nil_subset, List.mem_cons, reduceCtorEq, true_or, or_true, false_or, and_true]

theorem State.breakDriveEnd_frame (s : State) : Frame [.sel, .prb, .lnc] s s.breakDriveEnd := by
  unfold State.breakDriveEnd
  repeat' split
  all_goals try simp only [Frame.refl]
  all_goals repeat' split
  all_goals simp only [Frame.drop (State.setLnc_frame _ _), Frame.drop (State.queueFrame_frame _ _), Frame.drop (State.flush_frame _), Frame.refl, List.cons_subset, List.nil_subset, List.mem_cons, reduceCtorEq, true_or, or_true, false_or, and_true]

theorem State.readConfig_frame (s : State) (a : Bool) : Frame [.smu] s (s.readConfig a) := by
  unfold State.readConfig
  repeat' split
  all_goals exact ⟨rfl, rfl, fun b hb => by cases b <;> first | rfl | simp at hb⟩

theorem State.startReading_frame (s : State) (a n : Nat) (b : StartPins) (c : Bool) : Frame [.smu, .lnc] s (s.startReading a n b c) := by
  unfold State.startReading
  repeat' split
  all_goals simp only [Frame.drop (State.setSmu_frame _ _), Frame.drop (State.setLnc_frame _ _), Frame.drop (State.readConfig_frame _ _), Frame.refl, List.cons_subset, List.nil_subset, List.mem_cons, reduceCtorEq, true_or, or_true, false_or, and_true]

theorem State.readContacts_frame (s : State) (c : List Bool) : Frame [.swc] s (s.readContacts c) := by
  unfold State.readContacts
  refine frame_forStrings _ fun t k => ?_
  simp only [frame_swc, Frame.refl, List.mem_cons, true_or]

theorem State.beginListening_frame (s : State) : Frame [.smu, .ssu, .lnc, .swc, .rsl] s s.beginListening := by
  unfold State.beginListening
  all_goals simp only [Frame.drop (State.setSmu_frame _ _), Frame.drop (State.setLnc_frame _ _), Frame.drop (State.kickDrive_frame _), Frame.drop (State.beginWatching_frame _), frame_ssu, Frame.refl, List.cons_subset, List.nil_subset, List.mem_cons, reduceCtorEq, true_or, or_true, false_or, and_true]

theorem State.handOver_frame (s : State) (c a : List Bool) : Frame [.smu, .ssu, .lnc, .swc, .rsl] s (s.handOver c a) := by
  unfold State.handOver
  split
  · simp only [Frame.drop (State.beginListening_frame _), List.cons_subset, List.nil_subset, List.mem_cons, reduceCtorEq, true_or, or_true, false_or, and_true]
    refine Frame.trans ?_ (frame_forStrings _ fun t k => ?_)
    all_goals simp only [Frame.drop (State.initialSetting_frame _ _ _ _), Frame.drop (State.readContacts_frame _ _), Frame.refl, List.cons_subset, List.nil_subset, List.mem_cons, reduceCtorEq, true_or, or_true, false_or, and_true]
  · exact Frame.refl _ _

theorem State.leaveListen_frame (s : State) : Frame [.lnc] s s.leaveListen := by
  unfold State.leaveListen
  repeat' split
  all_goals simp only [Frame.drop (State.setLnc_frame _ _), Frame.refl, List.cons_subset, List.nil_subset, List.mem_cons, true_or, and_true]

theorem State.probeListenEnd_frame (s : State) : Frame [.prb] s s.probeListenEnd := by
  unfold State.probeListenEnd
  repeat' split
  all_goals simp only [Frame.drop (State.setPrb_frame _ _), Frame.refl, List.cons_subset, List.nil_subset, List.mem_cons, true_or, and_true]

theorem State.scheduleStatus_frame (s : State) : Frame [.rpt] s s.scheduleStatus := by
  unfold State.scheduleStatus
  repeat' split
  all_goals exact ⟨rfl, rfl, fun b hb => by cases b <;> first | rfl | simp at hb⟩

theorem State.listenEnd_frame (s : State) : Frame [.smu, .prb, .lnc, .rpt] s s.listenEnd := by
  unfold State.listenEnd
  repeat' split
  all_goals simp only [Frame.drop (State.setSmu_frame _ _), Frame.drop (State.leaveListen_frame _), Frame.drop (State.probeListenEnd_frame _), Frame.drop (State.scheduleStatus_frame _), Frame.refl, List.cons_subset, List.nil_subset, List.mem_cons, reduceCtorEq, true_or, or_true, false_or, and_true]

theorem State.rememberedExpiry_frame (s : State) : Frame [.smu, .swc] s s.rememberedExpiry := by
  unfold State.rememberedExpiry
  repeat' split
  all_goals simp only [Frame.drop (State.setSmu_frame _ _), Frame.drop (State.releaseRemembered_frame _), Frame.refl, List.cons_subset, List.nil_subset, List.mem_cons, reduceCtorEq, true_or, or_true, false_or, and_true]

theorem State.supplyLow_frame (s : State) : Frame [.smu, .sel, .prb, .lnc] s s.supplyLow := by
  unfold State.supplyLow
  repeat' split
  all_goals simp only [Frame.drop (State.setSmu_frame _ _), Frame.drop (State.probeAbort_frame _), Frame.refl, List.cons_subset, List.nil_subset, List.mem_cons, reduceCtorEq, true_or, or_true, false_or, and_true]

theorem State.supplyRun_frame (s : State) : Frame [.smu, .swc] s s.supplyRun := by
  unfold State.supplyRun
  repeat' split
  all_goals simp only [Frame.drop (State.setSmu_frame _ _), Frame.drop (State.kickMemo_frame _), Frame.drop (State.kickDrive_frame _), Frame.refl, List.cons_subset, List.nil_subset, List.mem_cons, reduceCtorEq, true_or, or_true, false_or, and_true]

theorem State.intervalCompletion_frame (s : State) (x : IntervalSamples) : Frame [.smu, .ssu, .eve, .sel, .prb, .lnc, .swc, .rsl] s (s.intervalCompletion x) := by
  unfold State.intervalCompletion
  split
  · refine Frame.trans ?_ (frame_forStrings _ fun t k => ?_)
    all_goals simp only [Frame.drop (State.probeInterval_frame _), Frame.drop (State.mismatchTest_frame _ _), Frame.drop (State.formInterval_frame _ _), Frame.drop (State.eveInterval_frame _), Frame.refl, List.cons_subset, List.nil_subset, List.mem_cons, reduceCtorEq, true_or, or_true, false_or, and_true]
  · exact Frame.refl _ _

theorem State.claimExpiry_frame (s : State) (a : Nat) (k : ClaimKind) : Frame [.sel] s (s.claimExpiry a k) := by
  unfold State.claimExpiry
  all_goals exact ⟨rfl, rfl, fun b hb => by cases b <;> first | rfl | simp at hb⟩

theorem State.recentExpiry_frame (s : State) : Frame [.sel] s s.recentExpiry := by
  unfold State.recentExpiry
  repeat' split
  all_goals exact ⟨rfl, rfl, fun b hb => by cases b <;> first | rfl | simp at hb⟩

theorem State.probeDue_frame (s : State) : Frame [.prb, .lnc] s s.probeDue := by
  unfold State.probeDue
  repeat' split
  all_goals simp only [Frame.drop (State.setPrb_frame _ _), Frame.drop (State.dueTrigger_frame _), Frame.refl, List.cons_subset, List.nil_subset, List.mem_cons, reduceCtorEq, true_or, or_true, false_or, and_true]

theorem State.dueRetry_frame (s : State) : Frame [.prb, .lnc] s s.dueRetry := by
  unfold State.dueRetry
  repeat' split
  all_goals simp only [Frame.drop (State.dueTrigger_frame _), Frame.refl, List.cons_subset, List.nil_subset, List.mem_cons, reduceCtorEq, true_or, or_true, false_or, and_true]

theorem State.stagger_frame (s : State) : Frame [.prb, .lnc] s s.stagger := by
  unfold State.stagger
  repeat' split
  all_goals simp only [Frame.drop (State.setPrb_frame _ _), Frame.drop (State.balanceTrigger_frame _), Frame.refl, List.cons_subset, List.nil_subset, List.mem_cons, reduceCtorEq, true_or, or_true, false_or, and_true]

theorem State.sourceReady_frame (s : State) : Frame [.swc] s s.sourceReady := by
  unfold State.sourceReady
  all_goals simp only [Frame.drop (State.kickDrive_frame _), frame_swc, Frame.refl, List.cons_subset, List.nil_subset, List.mem_cons, true_or, and_true]

theorem State.rechargeExpiry_frame (s : State) : Frame [.swc] s s.rechargeExpiry := by
  unfold State.rechargeExpiry
  repeat' split
  all_goals exact ⟨rfl, rfl, fun b hb => by cases b <;> first | rfl | simp at hb⟩

theorem State.coilOver_frame (s : State) : Frame [.smu, .sel, .lnc, .swc] s s.coilOver := by
  unfold State.coilOver
  repeat' split
  all_goals simp only [Frame.drop (State.attemptFailed_frame _ _ _), Frame.drop (State.pulseEnds_frame _), Frame.refl, List.cons_subset, List.nil_subset, List.mem_cons, reduceCtorEq, true_or, or_true, false_or, and_true]

theorem State.pulseEnd_frame (s : State) (r : CoilReading) : Frame [.smu, .eve, .sel, .prb, .lnc, .swc, .rsl] s (s.pulseEnd r) := by
  unfold State.pulseEnd
  repeat' split
  all_goals try simp only [Frame.drop (State.attemptFailed_frame _ _ _), Frame.drop (State.pulseEnds_frame _), Frame.refl, List.cons_subset, List.nil_subset, List.mem_cons, reduceCtorEq, true_or, or_true, false_or, and_true]
  all_goals repeat' split
  all_goals simp only [Frame.drop (State.attemptConfirmed_frame _ _ _), Frame.drop (State.pulseEnds_frame _), frame_swc, Frame.refl, List.cons_subset, List.nil_subset, List.mem_cons, reduceCtorEq, true_or, or_true, false_or, and_true]

theorem State.contactChange_frame (s : State) (k : StringNo) (c : Bool) : Frame [.smu, .eve, .sel, .prb, .lnc, .swc, .rsl] s (s.contactChange k c) := by
  unfold State.contactChange
  all_goals try simp only []
  all_goals repeat' split
  all_goals simp only [Frame.drop (State.attemptConfirmed_frame _ _ _), frame_swc, Frame.refl, List.cons_subset, List.nil_subset, List.mem_cons, reduceCtorEq, true_or, or_true, false_or, and_true]

theorem State.confirmExpiry_frame (s : State) : Frame [.smu, .sel, .lnc, .swc] s s.confirmExpiry := by
  unfold State.confirmExpiry
  repeat' split
  all_goals simp only [Frame.drop (State.attemptFailed_frame _ _ _), Frame.refl, List.cons_subset, List.nil_subset, List.mem_cons, reduceCtorEq, true_or, or_true, false_or, and_true]

theorem State.statusPoint_frame (s : State) : Frame [.lnc, .rpt] s s.statusPoint := by
  unfold State.statusPoint
  repeat' split
  all_goals simp only [Frame.drop (State.buildStatus_frame _), frame_rpt, Frame.refl, List.cons_subset, List.nil_subset, List.mem_cons, reduceCtorEq, true_or, or_true, false_or, and_true]
end Sys2Proof.Machine
end

