-- ==== Sys2Proof/Laws/Strings.lean ====
section
/-! SUPPORT. What doing the same for each string leaves at one string, and which strings the list of the fitted ones holds. -/

namespace Sys2Proof.Machine

theorem mem_allStrings (k : StringNo) : k ∈ allStrings := by revert k; decide

theorem nodup_allStrings : allStrings.Nodup := by decide

theorem State.mem_fittedStrings (s : State) (k : StringNo) : k ∈ s.fittedStrings ↔ k.val < s.smu.strings := by
  simp [State.fittedStrings, State.fitted, mem_allStrings]

theorem State.nodup_fittedStrings (s : State) : s.fittedStrings.Nodup := nodup_allStrings.filter _

/-- Doing the same for each string of a list without repeats leaves a string outside it as it was, and at a string of the
list does it once, to a state that has that string as it was and meets every property the operation keeps. -/
theorem forStrings_at {α : Type} (get : State → StringNo → α) (P : State → Prop) (f : State → StringNo → State)
    (other : ∀ t k j, P t → j ≠ k → get (f t k) j = get t j) (keep : ∀ t k, P t → P (f t k))
    (ks : List StringNo) (hk : ks.Nodup) (s : State) (hs : P s) (j : StringNo) :
    P (forStrings ks f s) ∧ (j ∉ ks → get (forStrings ks f s) j = get s j) ∧
    (j ∈ ks → ∃ t, P t ∧ get t j = get s j ∧ get (forStrings ks f s) j = get (f t j) j) := by
  unfold forStrings
  induction ks generalizing s with
  | nil => exact ⟨hs, fun _ => rfl, fun h => absurd h (by simp)⟩
  | cons k ks ih =>
    rw [List.nodup_cons] at hk
    obtain ⟨h1, h2, h3⟩ := ih hk.2 (f s k) (keep s k hs)
    refine ⟨h1, fun hj => ?_, fun hj => ?_⟩
    · rw [List.mem_cons, not_or] at hj
      exact (h2 hj.2).trans (other s k j hs hj.1)
    · rcases List.mem_cons.1 hj with rfl | hj
      · exact ⟨s, hs, rfl, h2 hk.1⟩
      · obtain ⟨t, ht, hg, he⟩ := h3 hj
        have hne : j ≠ k := fun e => hk.1 (e ▸ hj)
        exact ⟨t, ht, hg.trans (other s k j hs hne), he⟩

/-! ### What the engine's service leaves of a string -/

/-- The engine's service of the queue changes nothing of a string but whether its request is held. -/
theorem State.kickDrive_string (s : State) (k : StringNo) :
    (s.kickDrive.string k).state = (s.string k).state ∧ (s.kickDrive.string k).holds = (s.string k).holds ∧
    (s.kickDrive.string k).iso = (s.string k).iso ∧ (s.kickDrive.string k).memo = (s.string k).memo ∧
    (s.kickDrive.string k).mismatch = (s.string k).mismatch := by
  have key : ∀ (t : State) (j : StringNo) (d : Direction), t.swc.str = s.swc.str →
      ((t.beginPulse j d).string k).state = (s.string k).state ∧ ((t.beginPulse j d).string k).holds = (s.string k).holds ∧
      ((t.beginPulse j d).string k).iso = (s.string k).iso ∧ ((t.beginPulse j d).string k).memo = (s.string k).memo ∧
      ((t.beginPulse j d).string k).mismatch = (s.string k).mismatch := by
    intro t j d e
    show ((t.setString j StringRecord.holdRequest).string k).state = _ ∧ ((t.setString j StringRecord.holdRequest).string k).holds = _ ∧
      ((t.setString j StringRecord.holdRequest).string k).iso = _ ∧ ((t.setString j StringRecord.holdRequest).string k).memo = _ ∧
      ((t.setString j StringRecord.holdRequest).string k).mismatch = _
    have hk : t.string k = s.string k := congrArg (fun v : PerString StringRecord => v[k]) e
    by_cases h : k = j
    · subst h
      rw [State.setString_string, ← hk]
      exact ⟨rfl, rfl, rfl, rfl, rfl⟩
    · rw [State.setString_other _ _ _ _ h, hk]
      exact ⟨rfl, rfl, rfl, rfl, rfl⟩
  unfold State.kickDrive
  split
  · split
    · exact key _ _ _ rfl
    · split
      · exact key _ _ _ rfl
      · exact ⟨rfl, rfl, rfl, rfl, rfl⟩
  · exact ⟨rfl, rfl, rfl, rfl, rfl⟩

/-- The engine's service of the queue leaves a string's request, but for whether it is held. -/
theorem State.kickDrive_request {s : State} {k : StringNo} {q : Request} (h : (s.string k).request = some q) :
    ∃ b, (s.kickDrive.string k).request = some { q with held := b } := by
  have key : ∀ (t : State) (j : StringNo) (d : Direction), t.swc.str = s.swc.str →
      ∃ b, ((t.beginPulse j d).string k).request = some { q with held := b } := by
    intro t j d e
    show ∃ b, ((t.setString j StringRecord.holdRequest).string k).request = _
    have hk : t.string k = s.string k := congrArg (fun v : PerString StringRecord => v[k]) e
    by_cases hh : k = j
    · subst hh
      rw [State.setString_string]
      exact ⟨true, by rw [hk]; simp only [StringRecord.holdRequest, h, Option.map]⟩
    · rw [State.setString_other _ _ _ _ hh, hk]
      exact ⟨q.held, h⟩
  unfold State.kickDrive
  repeat' split
  · exact key _ _ _ rfl
  · exact key _ _ _ rfl
  · exact ⟨q.held, h⟩
  · exact ⟨q.held, h⟩

/-- The request of an OPEN that has just been queued. -/
theorem State.queueOpen_request (s : State) (k : StringNo) (c : OpenCause) (d : HoldDetail) :
    ∃ b, ((s.queueOpen k c d).string k).request = some { dir := .toOpen, cause := some c, detail := d, failed := 0, held := b } := by
  unfold State.queueOpen
  exact State.kickDrive_request (q := { dir := .toOpen, cause := some c, detail := d, failed := 0, held := false })
    (congrArg StringRecord.request (State.setString_string s k fun r =>
      { r with state := .opening, mismatch := 0,
               request := some { dir := .toOpen, cause := some c, detail := d, failed := 0, held := false } }))

/-- Asking a memo write leaves every string. -/
theorem State.askMemo_string (s : State) (j k : StringNo) (v : MemoValue) : (s.askMemo j v).string k = s.string k :=
  congrArg (fun x : Swc => x.str[k]) ((State.askMemo_frame s j v).keeps .swc (by decide))

/-- Queuing an OPEN makes the string OPENING with a request of that cause; the other strings keep state and holds. -/
theorem State.queueOpen_string (s : State) (k j : StringNo) (c : OpenCause) (d : HoldDetail) :
    ((s.queueOpen k c d).string j).state = (if j = k then .opening else (s.string j).state) ∧
    ((s.queueOpen k c d).string j).holds = (s.string j).holds ∧ ((s.queueOpen k c d).string j).iso = (s.string j).iso ∧
    ((s.queueOpen k c d).string j).memo = (s.string j).memo := by
  unfold State.queueOpen
  obtain ⟨h1, h2, h3, h4, _⟩ := State.kickDrive_string _ j
  rw [h1, h2, h3, h4]
  show ((s.setString k _).string j).state = _ ∧ ((s.setString k _).string j).holds = _ ∧ ((s.setString k _).string j).iso = _ ∧
    ((s.setString k _).string j).memo = _
  by_cases h : j = k
  · subst h; rw [State.setString_string]; exact ⟨by simp, rfl, rfl, rfl⟩
  · rw [State.setString_other _ _ _ _ h, if_neg h]; exact ⟨rfl, rfl, rfl, rfl⟩

/-- Queuing a CLOSE makes the string CLOSING; the other strings keep state and holds. -/
theorem State.queueClose_string (s : State) (k j : StringNo) :
    ((s.queueClose k).string j).state = (if j = k then .closing else (s.string j).state) ∧
    ((s.queueClose k).string j).holds = (s.string j).holds ∧ ((s.queueClose k).string j).iso = (s.string j).iso ∧
    ((s.queueClose k).string j).memo = (s.string j).memo := by
  unfold State.queueClose
  obtain ⟨h1, h2, h3, h4, _⟩ := State.kickDrive_string _ j
  rw [h1, h2, h3, h4]
  show ((s.setString k _).string j).state = _ ∧ ((s.setString k _).string j).holds = _ ∧ ((s.setString k _).string j).iso = _ ∧
    ((s.setString k _).string j).memo = _
  by_cases h : j = k
  · subst h; rw [State.setString_string]; exact ⟨by simp, rfl, rfl, rfl⟩
  · rw [State.setString_other _ _ _ _ h, if_neg h]; exact ⟨rfl, rfl, rfl, rfl⟩

/-- Bringing a memo up to date leaves state and holds of every string. -/
theorem State.updateMemo_string (s : State) (k j : StringNo) :
    ((s.updateMemo k).string j).state = (s.string j).state ∧ ((s.updateMemo k).string j).holds = (s.string j).holds ∧
    ((s.updateMemo k).string j).iso = (s.string j).iso := by
  unfold State.updateMemo
  dsimp only
  split
  · rw [State.askMemo_string]
    by_cases h : j = k
    · subst h; rw [State.setString_string]; exact ⟨rfl, rfl, rfl⟩
    · rw [State.setString_other _ _ _ _ h]; exact ⟨rfl, rfl, rfl⟩
  · exact ⟨rfl, rfl, rfl⟩

/-- Bringing a memo up to date leaves the request of every string. -/
theorem State.updateMemo_request (s : State) (k j : StringNo) : ((s.updateMemo k).string j).request = (s.string j).request := by
  unfold State.updateMemo
  dsimp only
  split
  · rw [State.askMemo_string]
    by_cases h : j = k
    · subst h; rw [State.setString_string]
    · rw [State.setString_other _ _ _ _ h]
  · rfl

/-- Everything adding a hold can do to state and holds (R140): the string itself by its state, and no other string. -/
theorem State.addHold_string (s : State) (k j : StringNo) (h : HoldRequest) :
    ((s.addHold k h).string j).iso = (s.string j).iso ∧
    (j ≠ k → ((s.addHold k h).string j).state = (s.string j).state ∧ ((s.addHold k h).string j).holds = (s.string j).holds) ∧
    (j = k → match (s.string k).state with
      | .closed => ((s.addHold k h).string j).state = .opening ∧ ((s.addHold k h).string j).holds = (s.string k).holds.add h
      | .opening => ((s.addHold k h).string j).state = .opening ∧ ((s.addHold k h).string j).holds = (s.string k).holds.add h
      | .closing => ((s.addHold k h).string j).state = (if (s.string k).waiting then .opened else .closing) ∧
          ((s.addHold k h).string j).holds = (s.string k).holds.add h
      | .opened => ((s.addHold k h).string j).state = .opened ∧ ((s.addHold k h).string j).holds = (s.string k).holds.addIsolated h
      | .stuckClosed => ((s.addHold k h).string j).state = .stuckClosed ∧
          ((s.addHold k h).string j).holds = (s.string k).holds.addIsolated h
      | .stuckOpen => ((s.addHold k h).string j).state = .stuckOpen ∧
          ((s.addHold k h).string j).holds = (s.string k).holds.addIsolated h
      | .disabled => s.addHold k h = s) := by
  have set : ∀ (t : State) (f : StringRecord → StringRecord), (∀ r, (f r).iso = r.iso) →
      ((t.setString k f).string j).iso = (t.string j).iso ∧
      (j ≠ k → ((t.setString k f).string j).state = (t.string j).state ∧ ((t.setString k f).string j).holds = (t.string j).holds) ∧
      (j = k → (t.setString k f).string j = f (t.string k)) := by
    intro t f hf
    by_cases e : j = k
    · subst e; rw [State.setString_string]; exact ⟨hf _, fun h => absurd rfl h, fun _ => rfl⟩
    · rw [State.setString_other _ _ _ _ e]; exact ⟨rfl, fun _ => ⟨rfl, rfl⟩, fun h => absurd h e⟩
  unfold State.addHold
  cases hst : (s.string k).state <;> dsimp only
  · obtain ⟨q1, q2, q3, _⟩ := State.queueOpen_string (s.setString k fun r => { r with holds := r.holds.add h }) k j h.cause h.detail
    obtain ⟨a1, a2, a3⟩ := set s (fun r => { r with holds := r.holds.add h }) fun _ => rfl
    refine ⟨q3.trans a1, fun e => ⟨by rw [q1, if_neg e]; exact (a2 e).1, q2.trans (a2 e).2⟩, fun e => ⟨by rw [q1, if_pos e], ?_⟩⟩
    rw [q2, a3 e]
  · obtain ⟨a1, a2, a3⟩ := set s (fun r => { r with holds := r.holds.add h }) fun _ => rfl
    exact ⟨a1, a2, fun e => by rw [a3 e]; exact ⟨hst, rfl⟩⟩
  · obtain ⟨u1, u2, u3⟩ := State.updateMemo_string (s.setString k fun r => { r with holds := r.holds.addIsolated h }) k j
    obtain ⟨a1, a2, a3⟩ := set s (fun r => { r with holds := r.holds.addIsolated h }) fun _ => rfl
    exact ⟨u3.trans a1, fun e => ⟨u1.trans (a2 e).1, u2.trans (a2 e).2⟩, fun e => by rw [u1, u2, a3 e]; exact ⟨hst, rfl⟩⟩
  · by_cases hw : (s.string k).waiting = true
    · rw [if_pos hw, if_pos hw]
      obtain ⟨a1, a2, a3⟩ := set s (fun r => { r with holds := r.holds.add h, request := none, state := .opened }) fun _ => rfl
      obtain ⟨u1, u2, u3⟩ := State.updateMemo_string
        { s.setString k (fun r => { r with holds := r.holds.add h, request := none, state := .opened }) with
          swc := { (s.setString k fun r => { r with holds := r.holds.add h, request := none, state := .opened }).swc with
            closeQ := s.swc.closeQ.filter fun i => i != k } } k j
      refine ⟨u3.trans a1, fun e => ⟨u1.trans (a2 e).1, u2.trans (a2 e).2⟩, fun e => ⟨u1.trans ?_, u2.trans ?_⟩⟩
      · exact congrArg StringRecord.state (a3 e)
      · exact congrArg StringRecord.holds (a3 e)
    · rw [if_neg hw, if_neg hw]
      obtain ⟨a1, a2, a3⟩ := set s (fun r => { r with holds := r.holds.add h }) fun _ => rfl
      exact ⟨a1, a2, fun e => by rw [a3 e]; exact ⟨hst, rfl⟩⟩
  · obtain ⟨u1, u2, u3⟩ := State.updateMemo_string (s.setString k fun r => { r with holds := r.holds.addIsolated h }) k j
    obtain ⟨a1, a2, a3⟩ := set s (fun r => { r with holds := r.holds.addIsolated h }) fun _ => rfl
    exact ⟨u3.trans a1, fun e => ⟨u1.trans (a2 e).1, u2.trans (a2 e).2⟩, fun e => by rw [u1, u2, a3 e]; exact ⟨hst, rfl⟩⟩
  · obtain ⟨u1, u2, u3⟩ := State.updateMemo_string (s.setString k fun r => { r with holds := r.holds.addIsolated h }) k j
    obtain ⟨a1, a2, a3⟩ := set s (fun r => { r with holds := r.holds.addIsolated h }) fun _ => rfl
    exact ⟨u3.trans a1, fun e => ⟨u1.trans (a2 e).1, u2.trans (a2 e).2⟩, fun e => by rw [u1, u2, a3 e]; exact ⟨hst, rfl⟩⟩
  · exact ⟨rfl, fun _ => ⟨rfl, rfl⟩, fun _ => rfl⟩

/-! ### The memo of a string (R153, R184) -/

theorem HoldSet.wantsMemo_iff (h : HoldSet) (v : MemoValue) : Safety.WantsMemo h v ↔ v = h.wanted := by
  unfold Safety.WantsMemo HoldSet.wanted
  cases hf : h.fault with
  | none => cases h.service <;> cases h.stop <;> simp
  | some f => cases hc : f.cause <;> simp [hc]

theorem putPending_eq (q : List (StringNo × MemoValue)) (k : StringNo) (v : MemoValue) :
    putPending q k v = if ∃ x ∈ q, x.1 = k then q.map fun x => if x.1 = k then (k, v) else x else q ++ [(k, v)] := by
  have e : (q.any fun x => x.1 == k) = true ↔ ∃ x ∈ q, x.1 = k := by simp
  unfold putPending
  simp only [e, beq_iff_eq]

/-- Everything that asking a memo write does. -/
theorem State.askMemo_asked (s : State) (k : StringNo) (v : MemoValue) : Safety.MemoAsked s (s.askMemo k v) s.now k v := by
  unfold Safety.MemoAsked
  dsimp only
  rw [← putPending_eq]
  generalize hq : putPending s.smu.memoQueue k v = asked
  have ne : asked ≠ [] := by
    rw [← hq, putPending]
    split
    · next h => intro e; simp [List.map_eq_nil_iff.1 e] at h
    · simp
  unfold State.askMemo State.kickMemo
  rw [hq]
  constructor
  · intro h
    rw [if_neg]
    · rfl
    · rcases h with h | h <;> simp [State.memoRuns, State.setSmu, h]
  · intro hp hr
    rw [if_pos (by simp [State.memoRuns, State.setSmu, hp, hr])]
    constructor
    · intro w hw
      simp only [State.setSmu, hw]
      split <;> simp_all
    · intro hw
      simp only [State.setSmu, hw]
      cases asked with
      | nil => exact absurd rfl ne
      | cons x rest => exact ⟨x.1, x.2, rest, rfl, rfl⟩

/-- What keeping a memo in step says of the state before rests on its SMU and that memo alone. -/
theorem memoInStep_before {s s' t : State} {now : Time} {k : StringNo} {h : HoldSet} (hs : s'.smu = s.smu)
    (hm : (s'.string k).memo = (s.string k).memo) (i : Safety.MemoInStep s' t now k h) : Safety.MemoInStep s t now k h := by
  unfold Safety.MemoInStep Safety.MemoAsked at *
  rwa [hs, hm] at i

/-- Bringing the memo of an OPEN or STUCK string up to date keeps it in step. -/
theorem State.updateMemo_inStep (s : State) (k : StringNo)
    (h : (s.string k).state = .opened ∨ (s.string k).state = .stuckClosed ∨ (s.string k).state = .stuckOpen) :
    Safety.MemoInStep s (s.updateMemo k) s.now k (s.string k).holds := by
  have hs : ((s.string k).state == .opened || (s.string k).state.stuck) = true := by rcases h with h | h | h <;> rw [h] <;> rfl
  unfold Safety.MemoInStep State.updateMemo
  rw [HoldSet.wantsMemo_iff]
  simp only [hs, Bool.true_and]
  by_cases hm : (s.string k).memo = (s.string k).holds.wanted
  · rw [if_neg (by rw [hm]; simp)]
    exact ⟨hm, fun _ => rfl, fun e => absurd rfl e⟩
  · rw [if_pos (by simpa using hm), State.askMemo_string, State.setString_string]
    exact ⟨rfl, fun e => absurd e hm, fun _ => State.askMemo_asked (s.setString k fun r => { r with memo := (s.string k).holds.wanted }) k _⟩

/-- What keeping a memo in step says of the state after rests on its SMU and that memo alone. -/
theorem memoInStep_after {s t t' : State} {now : Time} {k : StringNo} {h : HoldSet} (hs : t'.smu = t.smu)
    (hm : (t'.string k).memo = (t.string k).memo) (i : Safety.MemoInStep s t now k h) : Safety.MemoInStep s t' now k h := by
  unfold Safety.MemoInStep Safety.MemoAsked at *
  rwa [hs, hm]

theorem State.string_of_swc {s t : State} (h : t.swc = s.swc) (k : StringNo) : t.string k = s.string k :=
  congrArg (fun x : Swc => x.str[k]) h

/-! ### A STOP or LOCKOUT hold for every fitted string (R126, R173) -/

/-- The engine's service leaves every request but for whether it is held. -/
theorem State.kickDrive_unheld (s : State) (k : StringNo) :
    (s.kickDrive.string k).request.map (fun q => { q with held := false }) =
      (s.string k).request.map (fun q => { q with held := false }) := by
  cases h : (s.string k).request with
  | some q =>
    obtain ⟨b, e⟩ := State.kickDrive_request h
    rw [e]; rfl
  | none =>
    have key : ∀ (t : State) (j : StringNo) (d : Direction), t.swc.str = s.swc.str → ((t.beginPulse j d).string k).request = none := by
      intro t j d e
      have hk : t.string k = s.string k := congrArg (fun v : PerString StringRecord => v[k]) e
      show ((t.setString j StringRecord.holdRequest).string k).request = none
      by_cases hh : k = j
      · subst hh; rw [State.setString_string, StringRecord.holdRequest, hk, h]; rfl
      · rw [State.setString_other _ _ _ _ hh, hk, h]
    have : (s.kickDrive.string k).request = none := by
      unfold State.kickDrive
      repeat' split
      · exact key _ _ _ rfl
      · exact key _ _ _ rfl
      · exact h
      · exact h
    rw [this]

/-- With an OPEN queued, the engine's service leaves the strings that have none queued. -/
theorem State.kickDrive_notOpen {s : State} {k : StringNo} (hq : s.swc.openQ ≠ []) (hk : k ∉ s.swc.openQ) :
    s.kickDrive.string k = s.string k ∧ k ∉ s.kickDrive.swc.openQ := by
  unfold State.kickDrive
  split
  · split
    · next j rest e =>
      rw [e, List.mem_cons, not_or] at hk
      exact ⟨State.setString_other _ _ _ _ hk.1, hk.2⟩
    · next e => exact absurd e hq
  · exact ⟨rfl, hk⟩

/-- The engine's service puts no request back to waiting. -/
theorem State.kickDrive_waiting {s : State} {k : StringNo} (h : (s.kickDrive.string k).waiting = true) : (s.string k).waiting = true := by
  have key : ∀ (t : State) (j : StringNo) (d : Direction), t.swc.str = s.swc.str → ((t.beginPulse j d).string k).waiting = true →
      (s.string k).waiting = true := by
    intro t j d e hw
    have hk : t.string k = s.string k := congrArg (fun v : PerString StringRecord => v[k]) e
    change ((t.setString j StringRecord.holdRequest).string k).waiting = true at hw
    by_cases hh : k = j
    · subst hh
      rw [State.setString_string, StringRecord.waiting, StringRecord.holdRequest] at hw
      generalize (t.string k).request = o at hw
      cases o <;> exact Bool.noConfusion hw
    · rwa [State.setString_other _ _ _ _ hh, hk] at hw
  unfold State.kickDrive at h
  repeat' split at h
  · exact key _ _ .toOpen rfl h
  · exact key _ _ .toClose rfl h
  · exact h
  · exact h

theorem State.updateMemo_openQ (s : State) (k : StringNo) : (s.updateMemo k).swc.openQ = s.swc.openQ := by
  have ask : ∀ (t : State) (v : MemoValue), (t.askMemo k v).swc = t.swc := fun t v => (State.askMemo_frame t k v).keeps .swc (by decide)
  unfold State.updateMemo
  dsimp only
  split
  · rw [ask]; rfl
  · rfl

/-- What another string's taking a hold leaves of a string's request, and of one whose CLOSE waits. -/
theorem State.addHold_request_other (s : State) {k j : StringNo} (h : HoldRequest) (hj : j ≠ k) :
    ((s.addHold k h).string j).request.map (fun q => { q with held := false }) =
      (s.string j).request.map (fun q => { q with held := false }) ∧
    (j ∉ s.swc.openQ → ((s.addHold k h).string j).request = (s.string j).request ∧ j ∉ (s.addHold k h).swc.openQ) := by
  unfold State.addHold
  cases (s.string k).state <;> dsimp only
  case closed =>
    unfold State.queueOpen
    constructor
    · rw [State.kickDrive_unheld]
      show ((State.setString _ k _).string j).request.map _ = _
      rw [State.setString_other _ _ _ _ hj, State.setString_other _ _ _ _ hj]
    · intro hq
      obtain ⟨h1, h2⟩ := State.kickDrive_notOpen (k := j) (s := { ((s.setString k fun r => { r with holds := r.holds.add h }).setString k
          fun r => { r with state := .opening, mismatch := 0,
                            request := some { dir := .toOpen, cause := some h.cause, detail := h.detail, failed := 0, held := false } }).setRelease
          k (fun r => { r with closedAt := none }) with swc := { s.swc with
            str := ((s.setString k fun r => { r with holds := r.holds.add h }).setString k
              fun r => { r with state := .opening, mismatch := 0,
                                request := some { dir := .toOpen, cause := some h.cause, detail := h.detail, failed := 0, held := false } }).swc.str,
            openQ := s.swc.openQ ++ [k] } }) (by simp) (by simp [hq, hj])
      refine ⟨(congrArg StringRecord.request h1).trans ?_, h2⟩
      show ((State.setString _ k _).string j).request = _
      rw [State.setString_other _ _ _ _ hj, State.setString_other _ _ _ _ hj]
  case closing =>
    split
    · rw [State.updateMemo_request, State.updateMemo_openQ]
      have : ((s.setString k fun r => { r with holds := r.holds.add h, request := none, state := .opened }).string j) = s.string j :=
        State.setString_other _ _ _ _ hj
      exact ⟨congrArg (fun r : StringRecord => r.request.map fun q => { q with held := false }) this,
        fun hq => ⟨congrArg StringRecord.request this, hq⟩⟩
    · rw [State.setString_other _ _ _ _ hj]; exact ⟨rfl, fun hq => ⟨rfl, hq⟩⟩
  case opening => rw [State.setString_other _ _ _ _ hj]; exact ⟨rfl, fun hq => ⟨rfl, hq⟩⟩
  case disabled => exact ⟨rfl, fun hq => ⟨rfl, hq⟩⟩
  all_goals
    rw [State.updateMemo_request, State.updateMemo_openQ, State.setString_other _ _ _ _ hj]
    exact ⟨rfl, fun hq => ⟨rfl, hq⟩⟩

/-- A string's taking a hold puts no request of another string back to waiting. -/
theorem State.addHold_waiting_other (s : State) {k j : StringNo} (h : HoldRequest) (hj : j ≠ k)
    (hw : ((s.addHold k h).string j).waiting = true) : (s.string j).waiting = true := by
  have memo : ∀ (t : State), (t.string j).request = (s.string j).request → ((t.updateMemo k).string j).waiting = true →
      (s.string j).waiting = true := by
    intro t e ht
    rwa [StringRecord.waiting, State.updateMemo_request, e] at ht
  unfold State.addHold at hw
  cases hs : (s.string k).state <;> rw [hs] at hw <;> dsimp only at hw
  case closed =>
    have := State.kickDrive_waiting (k := j) hw
    change ((State.setString _ k _).string j).waiting = true at this
    rwa [State.setString_other _ _ _ _ hj, State.setString_other _ _ _ _ hj] at this
  case closing =>
    split at hw
    · refine memo _ ?_ hw
      exact congrArg StringRecord.request (State.setString_other s k j _ hj)
    · rwa [State.setString_other _ _ _ _ hj] at hw
  case opening => rwa [State.setString_other _ _ _ _ hj] at hw
  case disabled => exact hw
  all_goals exact memo _ (congrArg StringRecord.request (State.setString_other s k j _ hj)) hw

/-- Everything adding a hold can do to the request of the string itself (R140). -/
theorem State.addHold_request (s : State) (k : StringNo) (h : HoldRequest) :
    ((s.string k).state = .closed → ∃ b, ((s.addHold k h).string k).request =
      some { dir := .toOpen, cause := some h.cause, detail := h.detail, failed := 0, held := b }) ∧
    ((s.string k).state = .opening → ((s.addHold k h).string k).request = (s.string k).request) ∧
    ((s.string k).state = .closing → (s.string k).waiting = true → ((s.addHold k h).string k).request = none) := by
  unfold State.addHold
  cases hs : (s.string k).state <;> dsimp only <;> refine ⟨fun e => ?_, fun e => ?_, fun e hw => ?_⟩ <;> try exact StringState.noConfusion e
  · exact State.queueOpen_request _ _ _ _
  · rw [State.setString_string]
  · rw [if_pos hw, State.updateMemo_request]
    exact congrArg StringRecord.request (State.setString_string s k fun r => { r with holds := r.holds.add h, request := none, state := .opened })

theorem StringRecord.closeWaits_iff (r : StringRecord) : Safety.CloseWaits r ↔ r.state = .closing ∧ r.waiting = true := by
  unfold Safety.CloseWaits StringRecord.waiting
  cases r.request <;> simp

/-- Everything that asking a STOP or LOCKOUT hold for every fitted string does to the strings. -/
theorem State.addHold_all (s : State) (h : HoldRequest) (hh : h = .stop ∨ h = .lockout) :
    Safety.HoldTakenByAll s (forStrings s.fittedStrings (fun t k => t.addHold k h) s) (fun x => x.add h) h.cause := by
  have iso : ∀ x : HoldSet, x.addIsolated h = x.add h := by rcases hh with rfl | rfl <;> exact fun _ => rfl
  intro k
  dsimp only
  -- what the other strings' turns leave of a string
  let get := fun (t : State) (j : StringNo) =>
    ((t.string j).state, (t.string j).holds, (t.string j).request.map fun q => { q with held := false })
  have other : ∀ (t : State) (i j : StringNo), True → j ≠ i → get (t.addHold i h) j = get t j := by
    intro t i j _ hj
    obtain ⟨-, a, -⟩ := State.addHold_string t i j h
    simp only [get, (a hj).1, (a hj).2, (State.addHold_request_other t h hj).1]
  obtain ⟨-, out, inn⟩ := forStrings_at get (fun _ => True) (fun t j => t.addHold j h) other (fun _ _ _ => trivial) s.fittedStrings
    s.nodup_fittedStrings s trivial k
  -- a CLOSE waiting at the string's turn waited before, and one that waits, with no OPEN queued, waits till then
  have held := fun hw => (forStrings_at get (fun t => (t.string k).state = .closing → (t.string k).waiting = false) (fun t j => t.addHold j h)
    (fun t i j _ => other t i j trivial) (by
      intro t i ht hc
      obtain ⟨-, a, b⟩ := State.addHold_string t i k h
      by_cases e : k = i
      · subst e
        have b := b rfl
        cases hs : (t.string k).state <;> rw [hs] at b <;> try exact absurd (b.1.symm.trans hc) (by decide)
        · have hw := ht hs
          unfold State.addHold
          rw [hs]; dsimp only
          rw [if_neg (by rw [hw]; decide), State.setString_string]
          exact hw
        · rw [b] at hc; exact absurd (hs.symm.trans hc) (by decide)
      · refine Bool.eq_false_iff.2 fun hw => ?_
        have := ht ((a e).1 ▸ hc)
        rw [State.addHold_waiting_other t h e hw] at this
        exact absurd this (by decide)) s.fittedStrings s.nodup_fittedStrings s hw k).2.2
  have waits := fun hw => (forStrings_at get
    (fun t => (t.string k).state = .closing → (t.string k).waiting = true ∧ k ∉ t.swc.openQ) (fun t j => t.addHold j h)
    (fun t i j _ => other t i j trivial) (by
      intro t i ht hc
      obtain ⟨-, a, b⟩ := State.addHold_string t i k h
      by_cases e : k = i
      · subst e
        have b := b rfl
        cases hs : (t.string k).state <;> rw [hs] at b <;> try exact absurd (b.1.symm.trans hc) (by decide)
        · rw [(ht hs).1] at b; exact absurd (b.1.symm.trans hc) (by decide)
        · rw [b] at hc; exact absurd (hs.symm.trans hc) (by decide)
      · obtain ⟨h1, h2⟩ := ht ((a e).1 ▸ hc)
        obtain ⟨r1, r2⟩ := (State.addHold_request_other t h e).2 h2
        exact ⟨by rwa [StringRecord.waiting, r1], r2⟩) s.fittedStrings s.nodup_fittedStrings s hw k).2.2
  generalize hu : forStrings s.fittedStrings (fun t j => t.addHold j h) s = u at out inn held waits
  constructor
  · intro hk
    obtain ⟨t, -, e1, e2⟩ := inn ((s.mem_fittedStrings k).2 hk)
    simp only [get, Prod.mk.injEq] at e1 e2
    obtain ⟨s1, s2, s3⟩ := e1
    obtain ⟨u1, u2, u3⟩ := e2
    obtain ⟨-, -, own⟩ := State.addHold_string t k k h
    have own := own rfl
    obtain ⟨r1, r2, -⟩ := State.addHold_request t k h
    rw [s1] at own r1 r2
    refine ⟨fun hd => ?_, fun hc => ?_, fun ho => ?_, fun hw hq => ?_, fun hc hw => ?_, fun ho => ?_⟩
    · rw [u2, ← s2]
      cases hs : (s.string k).state <;> rw [hs] at own <;> first | exact absurd hs hd | simpa only [iso] using own.2
    · rw [hc] at own
      obtain ⟨b, e⟩ := r1 hc
      refine ⟨u1.trans own.1, ?_⟩
      rw [e] at u3
      cases hr : (u.string k).request with
      | none => rw [hr] at u3; simp at u3
      | some q =>
        rw [hr] at u3
        simp only [Option.map_some, Option.some.injEq, Request.mk.injEq] at u3
        exact ⟨q, rfl, u3.1, u3.2.1, u3.2.2.2.1⟩
    · rw [ho] at own
      refine ⟨u1.trans own.1, ?_⟩
      rw [r2 ho, s3] at u3
      have := congrArg (Option.map Request.cause) u3
      simpa only [Option.map_map, Function.comp_def] using this
    · obtain ⟨hc, hw⟩ := (StringRecord.closeWaits_iff _).1 hw
      obtain ⟨t, ht, e1, e2⟩ := waits (fun _ => ⟨hw, hq⟩) ((s.mem_fittedStrings k).2 hk)
      simp only [get, Prod.mk.injEq] at e1 e2
      obtain ⟨-, -, own⟩ := State.addHold_string t k k h
      have own := own rfl
      have tc := e1.1.trans hc
      have tw := (ht tc).1
      rw [tc] at own
      simp only [tw, if_true] at own
      refine ⟨e2.1.trans own.1, ?_⟩
      have := e2.2.2
      rw [(State.addHold_request t k h).2.2 tc tw] at this
      simpa using this
    · have hw : (s.string k).waiting = false := Bool.eq_false_iff.2 fun x => hw ((StringRecord.closeWaits_iff _).2 ⟨hc, x⟩)
      obtain ⟨t, ht, e1, e2⟩ := held (fun _ => hw) ((s.mem_fittedStrings k).2 hk)
      simp only [get, Prod.mk.injEq] at e1 e2
      obtain ⟨-, -, own⟩ := State.addHold_string t k k h
      have own := own rfl
      have tc := e1.1.trans hc
      rw [tc] at own
      simp only [ht tc, Bool.false_eq_true, if_false] at own
      exact e2.1.trans own.1
    · rcases ho with ho | ho | ho <;> rw [ho] at own <;> exact (u1.trans own.1).trans ho.symm
  · rintro (hk | hd)
    · have := out fun hm => absurd ((s.mem_fittedStrings k).1 hm) (by omega)
      simp only [get, Prod.mk.injEq] at this
      exact ⟨this.1, this.2.1⟩
    · by_cases hm : k ∈ s.fittedStrings
      · obtain ⟨t, -, e1, e2⟩ := inn hm
        simp only [get, Prod.mk.injEq] at e1 e2
        obtain ⟨-, -, own⟩ := State.addHold_string t k k h
        have own := own rfl
        rw [e1.1, hd] at own
        simp only at own
        rw [own] at e2
        exact ⟨e2.1.trans e1.1, e2.2.1.trans e1.2.1⟩
      · have := out hm
        simp only [get, Prod.mk.injEq] at this
        exact ⟨this.1, this.2.1⟩

/-- Everything releasing a hold can do to state and holds (R141): only the string itself, and only a hold it has. -/
theorem State.releaseHold_string (s : State) (k j : StringNo) (x : Release) :
    ((s.releaseHold k x).string j).iso = (s.string j).iso ∧
    ((s.releaseHold k x).string j).holds = (if j = k ∧ (s.string k).holds.has x = true then (s.string k).holds.remove x else (s.string j).holds) ∧
    ((s.releaseHold k x).string j).state =
      (if j = k ∧ (s.string k).holds.has x = true ∧ (s.string k).state = .opened ∧ ((s.string k).holds.remove x).isEmpty = true
        then .closing else (s.string j).state) := by
  unfold State.releaseHold
  by_cases hx : (s.string k).holds.has x = true
  · rw [if_pos hx]
    simp only [State.setString_string, hx, and_true, true_and]
    by_cases e : j = k
    · subst e
      split
      · next hc =>
        simp only [Bool.and_eq_true, beq_iff_eq] at hc
        obtain ⟨q1, q2, q3, _⟩ := State.queueClose_string (s.setString j fun r => { r with holds := r.holds.remove x }) j j
        rw [q1, q2, q3, State.setString_string, hc.1, hc.2]
        exact ⟨rfl, by rw [if_pos rfl], by rw [if_pos rfl, if_pos ⟨rfl, rfl, rfl⟩]⟩
      · next hc =>
        obtain ⟨u1, u2, u3⟩ := State.updateMemo_string (s.setString j fun r => { r with holds := r.holds.remove x }) j j
        rw [u1, u2, u3, State.setString_string]
        refine ⟨rfl, by rw [if_pos rfl], ?_⟩
        rw [if_neg]
        rintro ⟨_, h1, h2⟩
        exact hc (by rw [h1, h2]; rfl)
    · simp only [e, false_and, if_false]
      split
      · obtain ⟨q1, q2, q3, _⟩ := State.queueClose_string (s.setString k fun r => { r with holds := r.holds.remove x }) k j
        rw [q1, q2, q3, State.setString_other _ _ _ _ e, if_neg e]
        exact ⟨rfl, rfl, rfl⟩
      · obtain ⟨u1, u2, u3⟩ := State.updateMemo_string (s.setString k fun r => { r with holds := r.holds.remove x }) k j
        rw [u1, u2, u3, State.setString_other _ _ _ _ e]
        exact ⟨rfl, rfl, rfl⟩
  · rw [if_neg hx, if_neg fun h => hx h.2, if_neg fun h => hx h.2.1]
    exact ⟨rfl, rfl, rfl⟩

/-! ### Confirmations and releases keep the memo in step -/

/-- The confirmation of an OPEN keeps the memo in step with the holds (R150, R153). -/
theorem State.openConfirmed_memo (s : State) (k : StringNo) (q : Request) : Safety.MemoInStep s (s.openConfirmed k q) s.now k (s.string k).holds := by
  unfold State.openConfirmed
  dsimp only
  generalize hv : (State.setString s k fun r => { r with state := .opened, mismatch := 0, request := none }) = v
  have hvs : v.string k = { s.string k with state := .opened, mismatch := 0, request := none } := by rw [← hv, State.setString_string]
  have hvu : v.smu = s.smu := by rw [← hv]; rfl
  have hvn : v.now = s.now := by rw [← hv]; rfl
  generalize hu : v.recordIsolation k (q.cause.getD OpenCause.stop) ((v.string k).holds.openingDetail (q.cause.getD OpenCause.stop) q) = u
  have fu : u.smu = v.smu := by rw [← hu]; exact (State.recordIsolation_frame _ _ _ _).keeps .smu (by decide)
  have fs : (u.string k).state = .opened ∧ (u.string k).holds = (s.string k).holds ∧ (u.string k).memo = (s.string k).memo ∧ u.now = s.now := by
    rw [← hu]
    unfold State.recordIsolation
    split
    · rw [hvs]; exact ⟨rfl, rfl, rfl, hvn⟩
    · have : ∀ (x : State) (f : QueuedFrame), (x.queueFrame f).swc = x.swc := fun x f => (State.queueFrame_frame x f).keeps .swc (by decide)
      dsimp only
      rw [State.string_of_swc (this _ _), State.setString_string, hvs]
      exact ⟨rfl, rfl, rfl, ((State.queueFrame_frame _ _).2.1).trans hvn⟩
  have key := State.updateMemo_inStep u k (.inl fs.1)
  rw [fs.2.1, fs.2.2.2] at key
  have key := memoInStep_before (fu.trans hvu) fs.2.2.1 key
  have e1 : (((u.updateMemo k).selOpened k).probeDisturbed.startReclose k).smu = (u.updateMemo k).smu := by
    rw [(State.startReclose_frame _ _).keeps .smu (by decide), (State.probeDisturbed_frame _).keeps .smu (by decide), (State.selOpened_frame _ _).keeps .smu (by decide)]
  have e2 : (((u.updateMemo k).selOpened k).probeDisturbed.startReclose k).swc = (u.updateMemo k).swc := by
    rw [(State.startReclose_frame _ _).keeps .swc (by decide), (State.probeDisturbed_frame _).keeps .swc (by decide), (State.selOpened_frame _ _).keeps .swc (by decide)]
  have key := memoInStep_after e1 (congrArg StringRecord.memo (State.string_of_swc e2 k)) key
  split
  · exact memoInStep_after ((State.queueClose_frame _ _).keeps .smu (by decide)) (State.queueClose_string _ _ _).2.2.2 key
  · exact key

/-- A release that leaves an OPEN string held keeps its memo in step with the holds (R141, R153). -/
theorem State.releaseHold_memo (s : State) (k : StringNo) (h : (s.string k).state = .opened) (x : Release) (hx : (s.string k).holds.has x = true) (he : ((s.string k).holds.remove x).isEmpty = false) :
    Safety.MemoInStep s (s.releaseHold k x) s.now k ((s.releaseHold k x).string k).holds := by
  have hh := (State.releaseHold_string s k k x).2.1
  rw [if_pos ⟨rfl, hx⟩] at hh
  rw [hh]
  unfold State.releaseHold
  rw [if_pos hx]
  dsimp only
  rw [if_neg (by rw [State.setString_string]; simp only []; rw [h, he]; decide)]
  have := State.updateMemo_inStep (s.setString k fun r => { r with holds := r.holds.remove x }) k (.inl (by rw [State.setString_string]; exact h))
  rw [State.setString_string] at this
  exact memoInStep_before (s' := s.setString k fun r => { r with holds := r.holds.remove x }) rfl (by rw [State.setString_string]) this

/-! ### The details of an isolation (R150) -/

/-- The hold of the opening cause gives the details. -/
theorem HoldSet.openingDetail_of_hold {h : HoldSet} {f : FaultHold} (q : Request) (hf : h.fault = some f) :
    h.openingDetail (.fault f.cause) q = f.detail := by simp [HoldSet.openingDetail, hf]

/-- The request gives them when no hold of the opening cause is left. -/
theorem HoldSet.openingDetail_of_released {h : HoldSet} {c : OpenCause} (q : Request)
    (hf : ∀ f, h.fault = some f → c ≠ .fault f.cause) : h.openingDetail c q = q.detail := by
  unfold HoldSet.openingDetail
  split
  · next f e => rw [if_neg (hf f e)]
  · rfl

/-! ### Window reports during a stop or lockout (R46) -/

@[simp] theorem State.setSuspect_ground (s : State) (k : StringNo) (b : Bool) : (s.setSuspect k b).sel.ground = s.sel.ground := rfl

theorem State.keepSuspectOnly_ground (s : State) (k : StringNo) : (s.keepSuspectOnly k).sel.ground = s.sel.ground := by
  unfold State.keepSuspectOnly forStrings
  generalize allStrings = l
  induction l generalizing s with
  | nil => rfl
  | cons j rest ih =>
    rw [List.foldl_cons, ih]
    split <;> rfl

/-- While a stop or lockout stands, a window report opens, changes and closes no GROUND incident. -/
theorem State.windowReport_barred {s : State} (r : WindowReport) (h : s.probingBarred = true) :
    (s.windowReport r).sel.ground = s.sel.ground := by
  unfold State.windowReport
  repeat' split
  all_goals first
    | rfl
    | simp only [State.setSuspect_ground, State.keepSuspectOnly_ground]

end Sys2Proof.Machine
end

