-- ==== Sys2Proof/Laws/Claims.lean ====
section
/-! SUPPORT. What the operations on claims can do: the withdrawal of a claim, the comparison of an entry with an incident, an entry
made in the Claim Log; that ending a probe window by a frame leaves the incidents alone; and the terms of Safety.lean for a withdrawal and
for a string that leaves no opening to confirm. -/

namespace Sys2Proof.Machine

open Safety

/-! ### Withdrawal (R35, R110) -/

/-- With no frame of the claim queued, a withdrawal changes nothing. -/
theorem State.withdrawClaim_of_none {s : State} {k : IncidentKind} {i : Incident} (hi : s.incident k = some i)
    (h : i.claim ≠ .queued ∨ s.queuedOf k.frame = none) : s.withdrawClaim k = s := by
  rcases h with h | h
  · simp [State.withdrawClaim, hi, h]
  · simp only [State.withdrawClaim, hi, State.withdraw, h]; split <;> rfl

/-- A queued claim without an attempt in progress leaves the queue and is WITHDRAWN. -/
theorem State.withdrawClaim_of_waiting {s : State} {k : IncidentKind} {i : Incident} {g : QueuedFrame} (hi : s.incident k = some i)
    (hc : i.claim = .queued) (hg : s.queuedOf k.frame = some g) (h : s.lnc.sending ≠ some g.entry) :
    s.withdrawClaim k = (s.removeEntry g.entry).setIncident k (some { i with claim := .withdrawn }) := by
  simp [State.withdrawClaim, hi, hc, State.withdraw, hg, State.inAttempt, h]

/-- A claim with an attempt in progress stays, the withdrawal noted for its end. -/
theorem State.withdrawClaim_of_attempt {s : State} {k : IncidentKind} {i : Incident} {g : QueuedFrame} (hi : s.incident k = some i)
    (hc : i.claim = .queued) (hg : s.queuedOf k.frame = some g) (h : s.lnc.sending = some g.entry) :
    s.withdrawClaim k = s.setLnc { s.lnc with
      queue := s.lnc.queue.map fun h => if h.entry = g.entry then { h with withdrawAsked := true } else h } := by
  simp [State.withdrawClaim, hi, hc, State.withdraw, hg, State.inAttempt, h, State.setLnc]

/-- A withdrawal changes the queue alone. -/
theorem State.withdraw_lnc (s : State) (k : Kind) : (s.withdraw k).1 = { s with lnc := afterWithdrawal s.lnc k } := by
  cases h : s.lnc.queue.find? fun f => f.kind == k with
  | none => simp only [State.withdraw, afterWithdrawal, State.queuedOf, h]
  | some f =>
    by_cases hs : s.lnc.sending = some f.entry
    · simp [State.withdraw, afterWithdrawal, State.queuedOf, h, State.inAttempt, hs]
    · simp [State.withdraw, afterWithdrawal, State.queuedOf, h, State.inAttempt, hs, State.removeEntry]

/-- Asking again while the attempt lasts changes nothing more. -/
theorem afterWithdrawal_again {l : Lnc} {k : Kind} {g : QueuedFrame} (hg : l.queue.find? (fun f => f.kind == k) = some g)
    (hs : l.sending = some g.entry) : afterWithdrawal (afterWithdrawal l k) k = afterWithdrawal l k := by
  unfold afterWithdrawal
  rw [hg]
  simp only [hs, if_true]
  have : (l.queue.map fun h => if h.entry = g.entry then { h with withdrawAsked := true } else h).find? (fun f => f.kind == k) =
      some { g with withdrawAsked := true } := by
    rw [List.find?_map]
    have e : ((fun f : QueuedFrame => f.kind == k) ∘ fun h => if h.entry = g.entry then { h with withdrawAsked := true } else h) =
        fun f => f.kind == k := by
      funext h; simp only [Function.comp]; split <;> rfl
    rw [e, hg]; simp
  rw [this]
  simp only [if_true]
  congr 1
  rw [List.map_map]
  apply List.map_congr_left
  intro h _
  simp only [Function.comp]
  split <;> simp_all

/-- Setting an incident to what it is changes nothing. -/
theorem State.setIncident_self {s : State} {k : IncidentKind} {i : Incident} (h : s.incident k = some i) : s.setIncident k (some i) = s := by
  obtain ⟨_, _, _, _, _, _, ⟨_, _, _, _, _, _⟩, _, _, _, _, _, _⟩ := s
  cases k <;> cases (show _ = some i from h) <;> rfl

/-- Everything the withdrawal of a claim can do: the queue as after a withdrawal when the claim is QUEUED, and the claim state
WITHDRAWN exactly when its frame had no attempt in progress. -/
theorem State.withdrawClaim_whole {s : State} {k : IncidentKind} {i : Incident} (hi : s.incident k = some i) :
    ∃ c, s.withdrawClaim k = ({ s with lnc := if i.claim = ClaimState.queued then afterWithdrawal s.lnc k.frame else s.lnc }).setIncident k
        (some { i with claim := c }) ∧
      ((i.claim = .queued ∧ ∃ g, s.queuedOf k.frame = some g ∧ s.lnc.sending ≠ some g.entry) → c = .withdrawn) ∧
      (¬(i.claim = .queued ∧ ∃ g, s.queuedOf k.frame = some g ∧ s.lnc.sending ≠ some g.entry) → c = i.claim) := by
  by_cases hc : i.claim = .queued
  · rw [if_pos hc]
    cases hq : s.queuedOf k.frame with
    | none =>
      have hq' : List.find? (fun f => f.kind == k.frame) s.lnc.queue = none := hq
      have : afterWithdrawal s.lnc k.frame = s.lnc := by unfold afterWithdrawal; rw [hq']
      refine ⟨i.claim, ?_, by simp, by simp⟩
      rw [State.withdrawClaim_of_none hi (.inr hq), this]
      exact (State.setIncident_self hi).symm
    | some g =>
      have hq' : List.find? (fun f => f.kind == k.frame) s.lnc.queue = some g := hq
      by_cases hs : s.lnc.sending = some g.entry
      · refine ⟨i.claim, ?_, by simp [hs], by simp⟩
        rw [State.withdrawClaim_of_attempt hi hc hq hs, State.setIncident_self (by cases k <;> exact hi)]
        simp only [afterWithdrawal, hq', hs, if_true]
        rfl
      · refine ⟨.withdrawn, ?_, by simp, by simp [hc, hs]⟩
        rw [State.withdrawClaim_of_waiting hi hc hq hs]
        simp only [afterWithdrawal, hq', hs, if_false]
        rfl
  · refine ⟨i.claim, ?_, by simp [hc], by simp⟩
    rw [if_neg hc, State.withdrawClaim_of_none hi (.inl hc)]
    exact (State.setIncident_self hi).symm

/-! ### Hold requests that leave no opening (R44, R140) -/

/-- A CLOSING string's CLOSE waits exactly when its request is not held. -/
theorem StringRecord.waiting_iff {r : StringRecord} (h : r.state = .closing) : r.waiting = true ↔ CloseWaits r := by
  unfold StringRecord.waiting CloseWaits
  cases hr : r.request <;> simp [h]

/-- The states a request finds that close a DECIDED incident in its event. -/
theorem StringRecord.noOpening_iff (r : StringRecord) : r.noOpening = true ↔ NoOpeningComes r := by
  unfold StringRecord.noOpening NoOpeningComes
  by_cases h : r.state = .closing
  · have := StringRecord.waiting_iff h
    simp [h, StringState.stuck, this]
  · have : ¬ CloseWaits r := fun c => h c.1
    cases hr : r.state <;> simp_all [StringState.stuck]

/-- What asking a fault hold does to the string, by its state. -/
theorem State.addHold_faultTaken (s : State) (k : StringNo) (h : FaultHold) : FaultHoldTaken s (s.addHold k (.fault h)) k h := by
  have add : ∀ x : HoldSet, x.add (.fault h) = (if x.fault = none then { x with fault := some h } else
      if x.fault.map FaultHold.cause = some h.cause then x else { x with later := some h.cause }) := by
    intro x
    cases hx : x.fault <;> simp [HoldSet.add, HoldSet.recordLater, hx]
  have isolated : ∀ x : HoldSet, x.addIsolated (.fault h) =
      (if x.fault.map FaultHold.cause = some h.cause then x else { x with later := some h.cause }) := by
    intro x
    cases hx : x.fault <;> simp [HoldSet.addIsolated, HoldSet.recordLater, hx]
  have set : ∀ f : StringRecord → StringRecord, (s.setString k f).string k = f (s.string k) := State.setString_string s k
  obtain ⟨-, -, hk⟩ := State.addHold_string s k k (.fault h)
  have hk := hk rfl
  refine ⟨fun hs => ?_, fun hs => ?_, fun hs => ?_, fun hs hw => ?_, fun hs => ?_, fun j hj => (State.addHold_string s k j (.fault h)).2.1 hj⟩
  · rw [hs] at hk
    have e : s.addHold k (.fault h) =
        (s.setString k fun r => { r with holds := r.holds.add (.fault h) }).queueOpen k (.fault h.cause) h.detail := by
      unfold State.addHold; rw [hs]; rfl
    refine ⟨hk.1, by rw [hk.2, add], ?_, ?_⟩
    · rw [e]; exact (State.queueOpen_frame _ _ _ _).keeps .smu (by decide)
    · obtain ⟨b, hb⟩ := State.queueOpen_request (s.setString k fun r => { r with holds := r.holds.add (.fault h) }) k (.fault h.cause) h.detail
      rw [e]
      exact ⟨_, hb, rfl, rfl, rfl, rfl⟩
  · unfold State.addHold
    rw [hs, ← add]
    exact (set _).trans (by cases hr : s.string k; simp_all)
  · have hw := (StringRecord.waiting_iff hs.1).2 hs
    rw [hs.1] at hk
    simp only [hw, if_true] at hk
    refine ⟨hk.1, by rw [hk.2, add], ?_, ?_⟩ <;> (unfold State.addHold; rw [hs.1]; simp only [hw, if_true])
    · rw [State.updateMemo_request]
      exact congrArg StringRecord.request (set _)
    · have q : ∀ u : State, (u.updateMemo k).swc.closeQ = u.swc.closeQ := by
        intro u
        unfold State.updateMemo
        dsimp only
        split
        · have e : ((u.setString k fun r => { r with memo := r.holds.wanted }).askMemo k (u.string k).holds.wanted).swc =
              (u.setString k fun r => { r with memo := r.holds.wanted }).swc := (State.askMemo_frame _ k _).keeps .swc (by decide)
          exact (congrArg Swc.closeQ e).trans rfl
        · rfl
      rw [q]
      simp
  · have hw' : (s.string k).waiting ≠ true := fun e => hw ((StringRecord.waiting_iff hs).1 e)
    unfold State.addHold
    rw [hs, ← add]
    simp only [hw', if_false, Bool.false_eq_true]
    exact (set _).trans (by cases hr : s.string k; simp_all)
  · rcases hs with hs | hs | hs <;> rw [hs] at hk <;> refine ⟨by rw [hk.1, hs], by rw [hk.2, isolated], ?_⟩ <;>
      (unfold State.addHold; rw [hs, State.updateMemo_request]; exact Eq.trans (congrArg StringRecord.request (set _)) rfl)

/-! ### Comparison with an incident (R36, R37) -/

/-- A CLAIMING incident is compared by its rank: it yields to a relevant entry that outranks it, unless forced. -/
theorem State.compareEntry_of_claiming {s : State} {k : IncidentKind} {i : Incident} (e : ClaimEntry) (hi : s.incident k = some i)
    (hs : i.state = .claiming) :
    s.compareEntry k e = if relevant i e = true ∧ s.entryOutranks e i.rank = true ∧ s.forced i = false
      then (s.setIncident k (some { i with state := .yielded, beatenBy := some { source := e.source, rank := e.rank } })).withdrawClaim k
      else s := by
  by_cases h1 : relevant i e = true <;> by_cases h2 : s.entryOutranks e i.rank = true <;> by_cases h3 : s.forced i = true <;>
    simp [State.compareEntry, hi, hs, h1, h2, h3]

/-- A YIELDED arc incident takes a relevant entry that outranks its beaten-by. -/
theorem State.compareEntry_of_yielded {s : State} {k : IncidentKind} {i : Incident} {b : Beaten} (e : ClaimEntry)
    (hi : s.incident k = some i) (hs : i.state = .yielded) (hk : i.kind = .arc) (hb : i.beatenBy = some b) :
    s.compareEntry k e = if relevant i e = true ∧ outranks e.rank e.source b.rank b.source = true
      then s.setIncident k (some { i with beatenBy := some { source := e.source, rank := e.rank } }) else s := by
  by_cases h1 : relevant i e = true <;> by_cases h2 : outranks e.rank e.source b.rank b.source = true <;>
    simp [State.compareEntry, hi, hs, hk, hb, h1, h2]

/-- A DECIDED incident is not compared. -/
theorem State.compareEntry_of_decided {s : State} {k : IncidentKind} {i : Incident} (e : ClaimEntry) (hi : s.incident k = some i)
    (hs : i.state = .decided) : s.compareEntry k e = s := by
  simp [State.compareEntry, hi, hs]

/-- An entry that is not relevant to the incident changes nothing. -/
theorem State.compareEntry_of_irrelevant {s : State} {k : IncidentKind} {i : Incident} {e : ClaimEntry} (hi : s.incident k = some i)
    (h : relevant i e = false) : s.compareEntry k e = s := by
  simp [State.compareEntry, hi, h]

/-! ### The Claim Log (R27, R28) -/

theorem sameClaim_iff (x y : ClaimEntry) : sameClaim x y = true ↔ x.source = y.source ∧ x.kind = y.kind := by simp [sameClaim]

/-- The entry that leaves a full log is one of those that arrived earliest. -/
theorem eldest_arrival {now : Time} {es : List ClaimEntry} {o : ClaimEntry} (h : eldest now es = some o) :
    ∀ x ∈ es, now.since x.arrival ≤ now.since o.arrival := by
  have key : ∀ (es : List ClaimEntry) (b o : ClaimEntry), es.foldl (fun best e => match best with
      | none => some e
      | some b => if now.since b.arrival < now.since e.arrival then some e else some b) (some b) = some o →
      now.since b.arrival ≤ now.since o.arrival ∧ ∀ x ∈ es, now.since x.arrival ≤ now.since o.arrival := by
    intro es
    induction es with
    | nil => intro b o h; cases h; simp
    | cons y ys ih =>
      intro b o h
      rw [List.foldl_cons] at h
      by_cases hc : now.since b.arrival < now.since y.arrival
      · simp only [hc, if_true] at h
        obtain ⟨h1, h2⟩ := ih y o h
        exact ⟨by omega, List.forall_mem_cons.2 ⟨h1, h2⟩⟩
      · simp only [hc, if_false] at h
        obtain ⟨h1, h2⟩ := ih b o h
        exact ⟨h1, List.forall_mem_cons.2 ⟨by omega, h2⟩⟩
  cases es with
  | nil => simp
  | cons y ys => exact List.forall_mem_cons.2 (key ys y o h)

/-! ### The window of a probe and the incidents -/

@[simp] theorem State.windowReport_empty (s : State) (w : Window) : s.windowReport (emptyReport w) = s := rfl

@[simp] theorem State.windowLost_sel (s : State) : s.windowLost.sel = s.sel := by
  unfold State.windowLost; split
  · rfl
  · simp [State.discardWindow, State.windowEndSeen]

@[simp] theorem State.makeRoomAndEnter_sel (s : State) (f : QueuedFrame) : (s.makeRoomAndEnter f).1.sel = s.sel := by
  unfold State.makeRoomAndEnter; repeat' split
  all_goals rfl

@[simp] theorem State.enqueue_sel (s : State) (f : QueuedFrame) : (s.enqueue f).1.sel = s.sel := by
  unfold State.enqueue; repeat' split
  all_goals first | rfl | exact s.makeRoomAndEnter_sel f

@[simp] theorem State.closeInjection_sel (s : State) (w : Window) (st : WindowStatus) (r : Nat) :
    (s.closeInjection w st r).sel = s.sel := by
  unfold State.closeInjection; simp only []
  split <;> simp

@[simp] theorem State.abortInjection_sel (s : State) (st : WindowStatus) : (s.abortInjection st).sel = s.sel := by
  unfold State.abortInjection
  split
  · simp only []
    repeat' split
    all_goals simp
  all_goals rfl

@[simp] theorem State.probeDisturbed_sel (s : State) : s.probeDisturbed.sel = s.sel := by
  unfold State.probeDisturbed
  split <;> simp

/-- Only an injector queues a frame for a disturbed window. -/
theorem State.probeDisturbed_lnc {s : State} (h : s.prb.role ≠ .injecting) : s.probeDisturbed.lnc = s.lnc := by
  unfold State.probeDisturbed
  split <;> simp_all

end Sys2Proof.Machine
end

