-- ==== Sys2Proof/Laws/Memory.lean ====
section
/-! SUPPORT. The serial memory: every write keeps the canonical form, a read after a write gives what was written, and
every other address reads as before. -/

namespace Sys2Proof.Machine

theorem Memory.wfAbove_mono {low low' : Nat} {m : List Host.Cell} (h : low' ≤ low) (hm : Memory.wfAbove low m = true) :
    Memory.wfAbove low' m = true := by
  cases m with
  | nil => rfl
  | cons c rest =>
    simp only [Memory.wfAbove, Bool.and_eq_true, decide_eq_true_eq] at hm ⊢
    exact ⟨⟨by omega, hm.1.2⟩, hm.2⟩

theorem Memory.write_wfAbove {low : Nat} {m : List Host.Cell} (a : Nat) (x : Byte) (ha : low ≤ a)
    (hm : Memory.wfAbove low m = true) : Memory.wfAbove low (Memory.write m a x) = true := by
  induction m generalizing low with
  | nil =>
    unfold Memory.write
    split
    · rfl
    · next h => simpa [Memory.wfAbove, ha, bne] using h
  | cons c rest ih =>
    obtain ⟨b, y⟩ := c
    simp only [Memory.wfAbove, Bool.and_eq_true, decide_eq_true_eq] at hm
    unfold Memory.write
    split
    · next h =>
      simp only [Memory.wfAbove, Bool.and_eq_true, decide_eq_true_eq]
      exact ⟨hm.1, ih h hm.2⟩
    · split
      · next h h' =>
        have e : b = a := by simpa using h'
        subst e
        split
        · exact Memory.wfAbove_mono (by omega) hm.2
        · next hx =>
          simp only [Memory.wfAbove, Bool.and_eq_true, decide_eq_true_eq]
          exact ⟨⟨ha, by simpa [bne] using hx⟩, hm.2⟩
      · next h h' =>
        have hab : a + 1 ≤ b := by
          have : b ≠ a := by simpa using h'
          omega
        split
        · simp only [Memory.wfAbove, Bool.and_eq_true, decide_eq_true_eq]
          exact hm
        · next hx =>
          simp only [Memory.wfAbove, Bool.and_eq_true, decide_eq_true_eq]
          exact ⟨⟨ha, by simpa [bne] using hx⟩, ⟨⟨hab, hm.1.2⟩, hm.2⟩⟩

/-- A write keeps the canonical form. -/
theorem Memory.write_wf {m : List Host.Cell} (a : Nat) (x : Byte) (hm : Memory.wf m = true) : Memory.wf (Memory.write m a x) = true :=
  Memory.write_wfAbove a x (Nat.zero_le _) hm

/-- A slot write keeps the canonical form. -/
theorem Memory.writeSlot_wf {m : List Host.Cell} (k : StringNo) (v h l : Byte) (hm : Memory.wf m = true) :
    Memory.wf (Memory.writeSlot m k v h l) = true :=
  Memory.write_wf _ _ (Memory.write_wf _ _ (Memory.write_wf _ _ hm))

/-- Nothing is listed below the bound. -/
theorem Memory.read_below {low : Nat} {m : List Host.Cell} {a : Nat} (ha : a < low) (hm : Memory.wfAbove low m = true) :
    Memory.read m a = unlistedByte := by
  induction m generalizing low with
  | nil => rfl
  | cons c rest ih =>
    obtain ⟨b, y⟩ := c
    simp only [Memory.wfAbove, Bool.and_eq_true, decide_eq_true_eq] at hm
    have hb : (b == a) = false := by simp; omega
    simp only [Memory.read, hb]
    exact ih (by omega) hm.2

theorem Memory.read_write_sameAbove {low : Nat} {m : List Host.Cell} (a : Nat) (x : Byte) (hm : Memory.wfAbove low m = true) :
    Memory.read (Memory.write m a x) a = x := by
  induction m generalizing low with
  | nil =>
    unfold Memory.write
    split
    · next h => exact (by simpa using h : x = unlistedByte).symm
    · simp [Memory.read]
  | cons c rest ih =>
    obtain ⟨b, y⟩ := c
    simp only [Memory.wfAbove, Bool.and_eq_true, decide_eq_true_eq] at hm
    unfold Memory.write
    split
    · next h =>
      have hb : (b == a) = false := by simp; omega
      simp only [Memory.read, hb]
      exact ih hm.2
    · split
      · next h h' =>
        have e : b = a := by simpa using h'
        subst e
        split
        · next hx => rw [Memory.read_below (Nat.lt_succ_self b) hm.2]; exact (by simpa using hx : x = unlistedByte).symm
        · simp [Memory.read]
      · next h h' =>
        have hb : (b == a) = false := by simpa using h'
        have hab : a < b + 1 := by omega
        split
        · next hx =>
          simp only [Memory.read, hb]
          rw [if_neg (by simp), Memory.read_below hab hm.2]
          exact (by simpa using hx : x = unlistedByte).symm
        · simp [Memory.read]

/-- A read after a write of the same address gives the byte written. -/
theorem Memory.read_write_same {m : List Host.Cell} (a : Nat) (x : Byte) (hm : Memory.wf m = true) :
    Memory.read (Memory.write m a x) a = x := Memory.read_write_sameAbove a x hm

/-- A write leaves every other address as it was, in whatever form the memory is. -/
theorem Memory.read_write_other (m : List Host.Cell) (a b : Nat) (x : Byte) (h : b ≠ a) :
    Memory.read (Memory.write m a x) b = Memory.read m b := by
  have hab : (a == b) = false := by simpa using Ne.symm h
  induction m with
  | nil =>
    unfold Memory.write
    split
    · rfl
    · simp [Memory.read, hab]
  | cons c rest ih =>
    obtain ⟨d, y⟩ := c
    unfold Memory.write
    split
    · simp only [Memory.read, ih]
    · split
      · next h1 h2 =>
        have e : d = a := by simpa using h2
        subst e
        split
        · simp [Memory.read, hab]
        · simp [Memory.read, hab]
      · split
        · rfl
        · rw [Memory.read, hab, if_neg (by simp)]

/-- A slot write leaves every byte outside the slot's three as it was. -/
theorem Memory.read_writeSlot_other (m : List Host.Cell) (k : StringNo) (v h l : Byte) (a : Nat)
    (ha : a < slotAddress k ∨ slotAddress k + 2 < a) : Memory.read (Memory.writeSlot m k v h l) a = Memory.read m a := by
  unfold Memory.writeSlot
  rw [Memory.read_write_other _ _ _ _ (by omega), Memory.read_write_other _ _ _ _ (by omega), Memory.read_write_other _ _ _ _ (by omega)]

/-- A slot write is read back byte for byte. -/
theorem Memory.read_writeSlot_same {m : List Host.Cell} (k : StringNo) (v h l : Byte) (hm : Memory.wf m = true) :
    Memory.read (Memory.writeSlot m k v h l) (slotAddress k) = v ∧
    Memory.read (Memory.writeSlot m k v h l) (slotAddress k + 1) = h ∧
    Memory.read (Memory.writeSlot m k v h l) (slotAddress k + 2) = l := by
  unfold Memory.writeSlot
  have w1 := Memory.write_wf (slotAddress k) v hm
  have w2 := Memory.write_wf (slotAddress k + 1) h w1
  refine ⟨?_, ?_, Memory.read_write_same _ _ w2⟩
  · rw [Memory.read_write_other _ _ _ _ (by omega), Memory.read_write_other _ _ _ _ (by omega), Memory.read_write_same _ _ hm]
  · rw [Memory.read_write_other _ _ _ _ (by omega), Memory.read_write_same _ _ w1]

/-- The memory at reset has the canonical form. -/
theorem Memory.wf_reset : Memory.wf State.reset.smu.mem = true := rfl

end Sys2Proof.Machine
end

