-- ==== Sys2Proof/Laws/Probe.lean ====
section
/-! SUPPORT. Which half samples the insulation resistance of a window uses (R67, step 1). -/

namespace Sys2Proof.Machine

/-- Of samples numbered from an odd number on, the even halves are each second one. -/
theorem evenHalves_from (m k : Nat) (xs : List (Nat × Int)) (h : xs.length = 2 * m) :
    ((xs.zipIdx (2 * k + 1)).filterMap fun x => if x.2 != 1 && x.2 % 2 == 0 then some x.1 else none) =
      (List.range m).map fun j => xs.getD (2 * j + 1) (0, 0) := by
  induction m generalizing k xs with
  | zero => simp [List.length_eq_zero_iff.1 (by simpa using h)]
  | succ m ih =>
    match xs, h with
    | a :: b :: rest, h =>
      have := ih (k + 1) rest (by simp at h; omega)
      have e : 2 * k + 1 + 1 + 1 = 2 * (k + 1) + 1 := by omega
      have o : ((2 * k + 1 != 1 && (2 * k + 1) % 2 == 0) : Bool) = false := by simp
      have p : ((2 * k + 1 + 1 != 1 && (2 * k + 1 + 1) % 2 == 0) : Bool) = true := by simp; omega
      simp only [List.zipIdx_cons, List.filterMap_cons, o, p, e, this, List.range_succ_eq_map, List.map_cons, List.map_map, if_true,
        Bool.false_eq_true, if_false]
      rfl

/-- Of samples numbered from an odd number above 1 on, the odd halves are the first and each second one after it. -/
theorem oddHalves_from (m k : Nat) (xs : List (Nat × Int)) (h : xs.length = 2 * m) :
    ((xs.zipIdx (2 * k + 3)).filterMap fun x => if x.2 != 1 && x.2 % 2 == 1 then some x.1 else none) =
      (List.range m).map fun j => xs.getD (2 * j) (0, 0) := by
  induction m generalizing k xs with
  | zero => simp [List.length_eq_zero_iff.1 (by simpa using h)]
  | succ m ih =>
    match xs, h with
    | a :: b :: rest, h =>
      have := ih (k + 1) rest (by simp at h; omega)
      have e : 2 * k + 3 + 1 + 1 = 2 * (k + 1) + 3 := by omega
      have o : ((2 * k + 3 != 1 && (2 * k + 3) % 2 == 1) : Bool) = true := by simp
      have p : ((2 * k + 3 + 1 != 1 && (2 * k + 3 + 1) % 2 == 1) : Bool) = false := by simp; omega
      simp only [List.zipIdx_cons, List.filterMap_cons, o, p, e, this, List.range_succ_eq_map, List.map_cons, List.map_map, if_true,
        Bool.false_eq_true, if_false]
      rfl

/-- The used DOWN halves of an even number of halves are 2, 4, .. to the last. -/
theorem usedSamples_down (m : Nat) (xs : List (Nat × Int)) (h : xs.length = 2 * m) :
    usedSamples xs 0 = (List.range m).map fun j => xs.getD (2 * j + 1) (0, 0) := evenHalves_from m 0 xs h

/-- The used UP halves are 3, 5, .. to the last but one. -/
theorem usedSamples_up (m : Nat) (xs : List (Nat × Int)) (h : xs.length = 2 * m) :
    usedSamples xs 1 = (List.range (m - 1)).map fun j => xs.getD (2 * j + 2) (0, 0) := by
  match xs, h with
  | [_], h => exact absurd h (by simp; omega)
  | [], h => simp [usedSamples, show m = 0 by simpa using h.symm]
  | a :: b :: rest, h =>
    have := oddHalves_from (m - 1) 0 rest (by simp at h; omega)
    simp only [usedSamples, List.zipIdx_cons, List.filterMap_cons]
    exact this

end Sys2Proof.Machine
end

