-- ==== Sys2Proof/Laws/Supply.lean ====
section
/-! SUPPORT. The supply monitor in the terms of Safety.lean: when its tests have passed, when a course resets the part, when a reset
lasts, and everything that taking a course can do. -/

namespace Sys2Proof.Machine

open Safety

/-- A test has passed exactly when the levels have been of its kind for 10 ms without interruption. -/
theorem testPassed_iff (p : Nat → Bool) (course : List SupplySpan) :
    testPassed p course = true ↔ HeldTenMs (fun v => p v = true) course := by
  unfold testPassed
  rw [decide_eq_true_iff]
  constructor
  · intro h
    exact ⟨_, _, (List.takeWhile_append_dropWhile (p := fun x : SupplySpan => p x.millivolts)).symm,
      fun x hx => by simpa using List.mem_takeWhile_imp hx, h⟩
  · rintro ⟨newer, older, rfl, hp, hs⟩
    refine le_trans hs ?_
    rw [heldNow, List.takeWhile_append_of_pos hp, List.map_append, List.sum_append]
    exact Nat.le_add_right _ _

/-- The LOW test. -/
theorem testPassed_low (course : List SupplySpan) :
    testPassed (fun v => decide (v < supplyLowMv)) course = true ↔ HeldTenMs (fun v => v < 10500) course := by
  rw [testPassed_iff]
  simp only [decide_eq_true_iff]
  rfl

/-- The RUN test. -/
theorem testPassed_run (course : List SupplySpan) :
    testPassed (fun v => decide (supplyRunMv ≤ v)) course = true ↔ HeldTenMs (fun v => 11000 ≤ v) course := by
  rw [testPassed_iff]
  simp only [decide_eq_true_iff]
  rfl

/-- The model's test of a course for a reset. -/
theorem belowReset_iff (course : List SupplySpan) : belowReset course = true ↔ DropsToReset course := by
  simp only [belowReset, DropsToReset, List.any_eq_true, decide_eq_true_iff]
  rfl

/-- A reset by the supply lasts exactly when no level since the last one below 7.5 V has reached 8.5 V. -/
theorem supplyHoldsReset_iff (levels : List Nat) :
    supplyHoldsReset levels = true ↔ ∃ newer v older, levels = newer ++ v :: older ∧ v < 7500 ∧ ∀ u ∈ newer, u < 8500 := by
  induction levels with
  | nil => simp [supplyHoldsReset]
  | cons x xs ih =>
    have step : supplyHoldsReset (x :: xs) = if x < 7500 then true else if 8500 ≤ x then false else supplyHoldsReset xs := by
      simp only [supplyHoldsReset, supplyResetMv, supplyReleaseMv, List.find?_cons]
      by_cases h1 : x < 7500
      · simp [h1]
      · by_cases h2 : 8500 ≤ x <;> simp [h1, h2]
    rw [step]
    constructor
    · intro h
      by_cases h1 : x < 7500
      · exact ⟨[], x, xs, rfl, h1, by simp⟩
      · by_cases h2 : 8500 ≤ x
        · simp [h1, h2] at h
        · simp only [h1, h2, if_false] at h
          obtain ⟨newer, v, older, rfl, hv, hn⟩ := ih.1 h
          exact ⟨x :: newer, v, older, rfl, hv, List.forall_mem_cons.2 ⟨by omega, hn⟩⟩
    · rintro ⟨newer, v, older, e, hv, hn⟩
      cases newer with
      | nil => simp only [List.nil_append, List.cons.injEq] at e; simp [e.1, hv]
      | cons y ys =>
        simp only [List.cons_append, List.cons.injEq] at e
        have h2 : ¬ 8500 ≤ x := by have := hn y (by simp); omega
        by_cases h1 : x < 7500
        · simp [h1]
        · simp only [h1, h2, if_false]
          exact ih.2 ⟨ys, v, older, e.2, hv, fun u hu => hn u (List.mem_cons_of_mem _ hu)⟩

/-- What holds the part in reset. -/
theorem resetHeld_iff (p : StartPins) : resetHeld p = true ↔ ResetLasts p := by
  simp [resetHeld, ResetLasts, supplyHoldsReset_iff]

/-- A reset leaves the outputs at their conditions, and when station time was read before it does not matter. -/
theorem State.afterReset_settle (s : State) (dt : Nat) : (s.elapse dt).afterReset.settle = s.afterReset := by
  have trip : (s.elapse dt).afterReset.boxTripCondition = false := by
    simp [State.boxTripCondition, State.afterReset, Swc.atReset, StringRecord.atReset, State.elapse]
  have relay : (s.elapse dt).afterReset.relayCondition = false := rfl
  unfold State.settle
  rw [trip, relay]
  rfl

/-- Everything taking a course can do: nothing in reset, a reset below 7.5 V, the change once its test has passed, else nothing. -/
theorem State.watchSupply_eq (s : State) (course : List SupplySpan) (p : Nat → Bool) (change : State → State) :
    (s.smu.phase = .inReset → s.watchSupply course p change = s) ∧
    (s.smu.phase ≠ .inReset → DropsToReset course → s.watchSupply course p change = s.afterReset) ∧
    (s.smu.phase ≠ .inReset → ¬DropsToReset course → testPassed p course = true → s.watchSupply course p change = change s) ∧
    (¬DropsToReset course → ¬testPassed p course = true → s.watchSupply course p change = s) := by
  simp only [← belowReset_iff, State.watchSupply]
  exact ⟨fun h => by simp [h], fun h d => by simp [h, d], fun h d q => by simp [h, d, q], fun d q => by simp [d, q]⟩

end Sys2Proof.Machine
end

