-- ==== Sys2Proof/Tests/Slice0.lean ====
section
/-! SUPPORT. The model's own tests. Expected values are the worked cases of the chapters named, or computed from the rules by
hand. The `witness_` theorems show states and operands that meet the hypotheses of the statements, clause by clause. -/

namespace Sys2Proof.Tests

open Machine Safety

/-! ### Helpers -/

/-- A running station of address 5 with RUN supply on a line in UP, 10 s after its reset. -/
def base : State := { State.reset with
  now := 10000
  smu := { Smu.atReset with phase := .running, supply := .run, address := 5 }
  lnc := { Lnc.atReset with line := .up } }

/-- The base station with one string's record. -/
def withString (k : StringNo) (r : StringRecord) : State := base.setString k fun _ => r

/-- The base station with another LNC state. -/
def withLnc (l : Lnc) : State := { base with lnc := l }

/-- The base station with another PRB state. -/
def withPrb (p : Prb) : State := { base with prb := p }

/-- The base station with another RSL state. -/
def withRsl (r : Rsl) : State := { base with rsl := r }

/-- A healthy string. -/
def closed : StringRecord := { StringRecord.atReset with state := .closed }

/-- A string OPEN under one fault hold. -/
def heldBy (c : FaultCause) : StringRecord :=
  { StringRecord.atReset with state := .opened, holds := { HoldSet.empty with fault := some { cause := c, detail := HoldDetail.none } } }

/-- A string whose CLOSE waits or is held by the engine. -/
def closing (held : Bool) : StringRecord :=
  { StringRecord.atReset with state := .closing, request := some ⟨.toClose, none, HoldDetail.none, 0, held⟩ }

/-- The state after a command. -/
def after (c : Instr) (s : State) : State :=
  match exec c s with
  | .next t => t
  | .fault _ => s
  | .refused _ => s

/-- An arc incident of rank 120 in round 1. -/
def arc : Incident :=
  { kind := .arc, string := 3, rank := 120, round := 1, onset := 9950, decision := 10030, tag := none, response := none,
    riso := none, state := .claiming, claim := .sent, beatenBy := none }

/-- A ground incident of 144 kΩ. -/
def ground : Incident :=
  { kind := .ground, string := 3, rank := 29, round := 0, onset := 9800, decision := 10000, tag := some { injector := 7, sequence := 42 },
    response := some 59, riso := some 144, state := .claiming, claim := .sent, beatenBy := none }

/-- A queued frame of a kind. -/
def queued (k : Kind) (e : Nat) : QueuedFrame := { newFrame k 0 [] with entry := e }

/-- An injector's window that began at 9500. -/
def window : Window := { newWindow { injector := 5, sequence := 9 } 1000 4 300 9500 500 with phase := some .reference }

/-- The base station injecting in a window. -/
def injecting (w : Window) : State := withPrb { Prb.atReset with role := .injecting, window := some w }

/-- The base station listening to a window. -/
def listening (w : Window) : State := withPrb { Prb.atReset with role := .listening, window := some w }

/-! ### WellFormed refuses what cannot occur -/

theorem test_wait_of_2_31_refused : (Instr.idleGap (2 ^ 31)).wellFormed = false := by decide
theorem test_wait_below_2_31_accepted : (Instr.idleGap (2 ^ 31 - 1)).wellFormed = true := by decide
theorem test_hand_over_of_11_contacts_refused : (Instr.handOver 0 (List.replicate 11 true) (List.replicate 12 true)).wellFormed = false := by
  decide
theorem test_hand_over_of_11_answers_refused : (Instr.handOver 0 (List.replicate 12 true) (List.replicate 11 true)).wellFormed = false := by
  decide
theorem test_break_of_199_refused : (Instr.breakRecognised 0 199).wellFormed = false := by decide
theorem test_break_of_1500_refused : (Instr.breakRecognised 0 1500).wellFormed = false := by decide
theorem test_break_of_200_accepted : (Instr.breakRecognised 0 200).wellFormed = true := by decide

/-- 40 samples of each input of a string, all alike. -/
def flat (i : Int) (e : Nat) : StringSamples := ⟨List.replicate 40 i, List.replicate 40 e, List.replicate 40 0⟩

/-- The samples of a whole interval, all strings alike. -/
def interval (i : Int) (e : Nat) : IntervalSamples :=
  ⟨List.replicate 12 (flat i e), List.replicate 40 400, List.replicate 40 400, List.replicate 40 0, List.replicate 40 0⟩

theorem test_interval_accepted : (Instr.intervalCompletion 10 (interval 800 210)).wellFormed = true := by decide
theorem test_interval_of_11_strings_refused :
    (Instr.intervalCompletion 10 { interval 0 0 with strings := List.replicate 11 (flat 0 0) }).wellFormed = false := by decide
theorem test_interval_of_39_currents_refused :
    (Instr.intervalCompletion 10 { interval 0 0 with
      strings := { flat 0 0 with current := List.replicate 39 0 } :: List.replicate 11 (flat 0 0) }).wellFormed = false := by decide
theorem test_interval_of_39_energies_refused :
    (Instr.intervalCompletion 10 { interval 0 0 with
      strings := { flat 0 0 with energy := List.replicate 39 0 } :: List.replicate 11 (flat 0 0) }).wellFormed = false := by decide
theorem test_interval_of_39_residuals_refused :
    (Instr.intervalCompletion 10 { interval 0 0 with
      strings := { flat 0 0 with residual := List.replicate 39 0 } :: List.replicate 11 (flat 0 0) }).wellFormed = false := by decide
theorem test_interval_of_39_vpg_refused :
    (Instr.intervalCompletion 10 { interval 0 0 with vpg := List.replicate 39 0 }).wellFormed = false := by decide
theorem test_interval_of_41_vng_refused :
    (Instr.intervalCompletion 10 { interval 0 0 with vng := List.replicate 41 0 }).wellFormed = false := by decide
theorem test_interval_of_39_injector_refused :
    (Instr.intervalCompletion 10 { interval 0 0 with injector := List.replicate 39 0 }).wellFormed = false := by decide
theorem test_interval_of_39_sense_refused :
    (Instr.intervalCompletion 10 { interval 0 0 with sense := List.replicate 39 0 }).wellFormed = false := by decide

/-- No row of the table gives bits: every word decodes to none, and a fetch word changes nothing (log entries 4, 27). -/
theorem test_no_word_decodes : decodeTableWord 16 0x1234 = none ∧ (base.withFetchWord 16 0x1234).pending = [] := by decide

/-! ### Computations (the worked cases of chapters 1, 3, 4 and 10) -/

/-- The ARRAY-STOP of station 12 has the check E3A6 (the worked check of 10). -/
theorem test_check_of_array_stop : crc [0x02, 0xFF, 0x0C, 0x00] = 0xE3A6 := by decide +kernel

/-- Its six characters parse back, and with a wrong check they do not. -/
theorem test_array_stop_characters : frameChars .arrayStop 0 12 [] = [0x02, 0xFF, 0x0C, 0x00, 0xE3, 0xA6] := by decide +kernel
theorem test_wrong_check_refused : parseFrame [0x02, 0xFF, 0x0C, 0x00, 0xE3, 0xA7] = none := by decide +kernel

/-- The worked window of chapter 3: 144 kΩ at a reference of 520. -/
theorem test_insulation_worked_case :
    insulation [(605, 415), (491, -400), (612, 402), (490, -401), (610, 398), (492, -399), (611, 401), (491, -402)] 520 = 144 := by
  decide +kernel
theorem test_reference_worked_case : rawResistance (130, 104) (26, -96) = 520 := by decide
theorem test_no_current_is_out_of_range : rawResistance (611, 400) (491, 400) = 65535 := by decide

/-- The ranks of the table of R86: 59 gives 29, 2047 gives 255. -/
theorem test_locate_ranks : locateRank 59 = 29 ∧ locateRank 0 = 0 ∧ locateRank 2047 = 255 := by decide

/-- A half with one value for string 1. -/
def half (up : Bool) (v : Int) : Half :=
  { newHalf 0 up with valid := some true, acc := (newHalf 0 up).acc.set 0 { sum := v, count := 1 } }

/-- The faulted string of R86: +62 in UP halves, −58 in DOWN halves, NP = 8; half 1 is not used. -/
theorem test_response_of_faulted_string :
    responseOf [half true 9999, half false (-58), half true 62, half false (-58), half true 62, half false (-58), half true 62,
      half false (-58)] 0 = some 59 := by decide
/-- The string against the probe of R86 is clamped to 0; with one used half there is no response. -/
theorem test_response_against_the_probe :
    responseOf [half true 0, half false 4, half true (-4), half false 4] 0 = some 0 ∧ responseOf [half true 0, half false 4] 0 = none := by
  decide

/-- The scores 15, 14, 15, 92, 15, 15 have the lower median 15; one score has 10 (R14). -/
theorem test_lower_median : boxMedian [15, 14, 92, 16] = some 15 ∧ boxMedian [92] = some 10 ∧ boxMedian [] = none := by decide

/-- String 1 of the worked set of chapter 1: E 315 at baseline 3360 scores 15 and moves the baseline to 3386. -/
theorem test_baseline_worked_case : scoreOf 0 3360 315 = 15 ∧ baseStep 3360 315 = 3386 ∧ scoreOf 0 3360 1950 = 92 := by decide
theorem test_baseline_truncates_toward_zero : baseStep 3360 209 = 3360 ∧ baseStep 3360 0 = 3308 := by decide

/-- PROBE_HP 250, PROBE_NP 9 and PROBE_SETTLE 400 are used as 200, 8 and 100 (the worked record of 9.3). -/
theorem test_probe_settings_clamp : clampHp 250 = 200 ∧ clampNp 9 = 8 ∧ clampSettle 200 400 = 100 := by decide

/-- A slot holds ARC for string 4 with its check; one bit off is a bad slot (R180). -/
theorem test_slot_of_string_4 :
    slotValue 3 (slotBytes 3 .arc).1 (slotBytes 3 .arc).2.1 (slotBytes 3 .arc).2.2 = some .arc ∧
    slotValue 3 (slotBytes 3 .arc).1 (slotBytes 3 .arc).2.1 ((slotBytes 3 .arc).2.2 ^^^ 1) = none := by decide +kernel

/-- The memory keeps its form when a byte returns to what nothing reads as. -/
theorem test_memory_forgets_an_erased_byte : Memory.write (Memory.write [] 0x30 0x01) 0x30 0xFF = [] := by decide
theorem test_memory_unwritten_byte : Memory.read [] 0x30 = 0xFF := by decide

/-! ### Single commands -/

/-- An empty memory has no good record: the defaults with CONFIG_DEFAULT, and 0 on the count straps is twelve strings. -/
theorem test_reading_an_empty_memory :
    let t := after (.readingStart 0 5 0 ⟨false, 12000, []⟩ true) State.reset
    t.smu.configDefault = true ∧ t.smu.settings = Settings.atReset ∧ t.smu.strings = 12 ∧ t.smu.address = 5 := by decide +kernel

/-- The LOCKOUT key opens a CLOSED string 50 ms after it closed, and not 49 ms after. -/
theorem test_lockout_after_50_ms :
    let s := { withString 3 closed with rsl := { Rsl.atReset with lockKey := { input := true, accepted := false, testAt := some 10050 } } }
    ((after (.keyAcceptExpiry 50 .lockout) s).string 3).state = .opening ∧
    ((after (.keyAcceptExpiry 49 .lockout) s).string 3).state = .closed := by decide

/-- A character without mark in READY is passed over; a dominant stop bit counts an error. -/
theorem test_characters_in_ready :
    (after (.characterTaken 1 0x10 .dominant .recessive) (withLnc { Lnc.atReset with rx := .ready, line := .up })).lnc.rx = .ready ∧
    (after (.characterTaken 1 0x10 .recessive .dominant) (withLnc { Lnc.atReset with rx := .ready, line := .up })).lnc.errors = 1 := by
  decide

/-- A second failed OPEN pulse makes the string STUCK-CLOSED and asserts BOX TRIP (R148, R157). -/
theorem test_second_failed_open_trips_the_box :
    let r := { heldBy .arc with state := .opening, request := some ⟨.toOpen, some (.fault .arc), HoldDetail.none, 1, true⟩ }
    let s := { withString 2 r with swc := { (withString 2 r).swc with engine := .pulsing 2 .toOpen, pulseEndAt := some 10020 } }
    ((after (.pulseEnd 20 .none) s).string 2).state = .stuckClosed ∧ (after (.pulseEnd 20 .none) s).swc.boxTrip = true := by decide

/-- Station time wraps: an expiry set before the wrap is reached after it (00_scope.md, Time). -/
theorem test_time_wraps :
    (after (.rechargeExpiry 20) { base with now := 0xFFFFFFF0, swc := { Swc.atReset with rechargeAt := some 0x4 } }).swc.driveSupply = true := by
  decide

/-! ### Witnesses: the machine as a whole -/

theorem witness_StepRunsFrontCommand : ({ base with pending := [.idleGap 1] } : State).pending = .idleGap 1 :: [] ∧ base.pending = [] := by
  decide
theorem witness_CommandsCompleteInTheirTime : base.smu.phase ≠ .inReset ∧ DropsToReset [⟨12000, 5⟩, ⟨7499, 1⟩] ∧ ¬DropsToReset [⟨7500, 9⟩] := by
  simp [base, DropsToReset]
theorem witness_BlocksIdleBeforeHandOver : State.reset.started = false ∧ runsBeforeHandOver (.idleGap 0) = false := by decide

/-- A command in front, a listed byte and two entries in the log. -/
def stored : State := { base with
  pending := [.claimExpiry 0 6 .arcClaim]
  smu := { base.smu with mem := [(0x30, 1)] }
  sel := { Sel.atReset with claimLog := [⟨.arcClaim, 7, 120, none, none, 9000⟩, ⟨.locate, 7, 30, none, none, 9000⟩] } }

theorem witness_StoresStaySound : StoresSound stored ∧ ∃ t, step stored = .next t := ⟨by unfold StoresSound; decide, _, rfl⟩

/-- Two queued frames in queue order. -/
def twoFrames : Lnc := { Lnc.atReset with line := .up, queue := [queued .arcClaim 1, queued .status 0], nextEntry := 2 }

theorem twoFrames_sound : QueueSound twoFrames := by
  refine ⟨by decide, by decide, by decide, by decide, ?_, fun p h => (nomatch h), by decide⟩
  rintro k (rfl | rfl | rfl | rfl) <;> decide

theorem witness_QueueStaysSound : QueueSound ({ withLnc twoFrames with pending := [.idleGap 1] } : State).lnc ∧
    ∃ t, step { withLnc twoFrames with pending := [.idleGap 1] } = .next t := ⟨twoFrames_sound, _, rfl⟩
theorem witness_OutputsSettleAtEveryCommand : ∃ t, exec (.idleGap 1) base = .next t := ⟨_, rfl⟩

/-- A station that has taken two stops, with a command waiting. -/
def stopped : State := { base with pvw := { Pvw.atReset with stopSet := [3, 9] }, pending := [.keyInputChange 1 .lockout true] }

theorem witness_StopSetStaysSound : StopSetSound stopped ∧ ∃ t, step stopped = .next t := ⟨by unfold StopSetSound; decide, _, rfl⟩

/-- A pulse in progress, with a command waiting. -/
def pulsing : State := { base with
  pending := [.pulseEnd 20 .normal]
  swc := { Swc.atReset with
    str := Swc.atReset.str.set 2 { heldBy .arc with state := .opening, request := some ⟨.toOpen, some (.fault .arc), HoldDetail.none, 0, true⟩ }
    engine := .pulsing 2 .toOpen, coil := some (2, .toOpen), pulseEndAt := some 10020 } }

theorem witness_OutputPinsStaySound : CoilMatchesEngine pulsing ∧ ProbeSound pulsing ∧ ∃ t, step pulsing = .next t :=
  ⟨by unfold CoilMatchesEngine; decide, by unfold ProbeSound; decide, _, rfl⟩
theorem witness_EvidenceStaysInRange : (Instr.idleGap 1).wellFormed = true ∧ (∀ k : StringNo, EvidenceInRange base.eve[k]) ∧
    ∃ t, exec (.idleGap 1) base = .next t :=
  ⟨by decide, fun k => by simp [base, State.reset, EvidenceInRange, Evidence.atReset], _, rfl⟩

/-! ### Witnesses: start-up, supply and memos -/

/-- A memo write in the memory of a box that runs. -/
def writing (failed : Nat) : State := { base with smu := { base.smu with writer := some ⟨3, .arc, failed, true, 10000⟩ } }

theorem witness_ResetLosesVolatileState : (writing 0).smu.writer = some ⟨3, .arc, 0, true, 10000⟩ ∧ Memory.wf (writing 0).smu.mem = true ∧
    (0x38 < slotAddress 3 ∧ slotAddress 3 + 2 < 0x3C) ∧ (writing 0).swc.coil = none ∧ pulsing.swc.coil = some (2, .toOpen) := by decide
/-- A supply at 7.5 V is no reset, one that was below must reach 8.5 V, and the pin holds the reset at any level. -/
theorem witness_ReadingTakesStrapsAndRecord : State.reset.smu.phase = .inReset ∧ base.smu.phase ≠ .inReset ∧
    ¬ResetLasts ⟨false, 7500, [12000]⟩ ∧ ¬ResetLasts ⟨false, 8500, [7499]⟩ ∧ ¬ResetLasts ⟨false, 8000, [8600, 0]⟩ ∧
    ResetLasts ⟨false, 8499, [7499]⟩ ∧ ResetLasts ⟨true, 12000, []⟩ := by
  simp only [← resetHeld_iff]
  decide
theorem witness_ReadingLeavesUsableSettings : State.reset.smu.phase = .inReset ∧ ¬ResetLasts ⟨false, 12000, []⟩ ∧ ∃ t, exec (.readingStart 0 31 12 ⟨false, 12000, []⟩ true) State.reset = .next t :=
  ⟨by decide, by simp only [← resetHeld_iff]; decide, _, rfl⟩

/-- A box that has read its straps: eleven strings fitted. -/
def reading : State := { State.reset with smu := { Smu.atReset with phase := .reading, strings := 11 } }

theorem witness_HandOverSetsStrings : reading.smu.phase = .reading ∧ (∀ k : StringNo, reading.string k = StringRecord.atReset) ∧
    reading.smu.strings ≤ (11 : StringNo).val ∧ (10 : StringNo).val < reading.smu.strings :=
  ⟨by decide, fun k => by simp [reading, State.reset, Swc.atReset], by decide, by decide⟩
theorem witness_HandOverSetsStrings_writes : reading.smu.memoQueue = [] ∧ reading.smu.writer = none ∧ reading.smu.supply = .low ∧
    reading.readSlot 0 false = none ∧ reading.rsl.str[(0 : StringNo)].reclose < reading.smu.settings.recloseMax ∧
    ({ reading with smu := { reading.smu with supply := .run } } : State).smu.supply = .run := by decide
theorem witness_HandOverSetsStrings_opens : reading.swc.openQ = [] ∧ reading.swc.closeQ = [] ∧ reading.swc.engine = .idle ∧
    reading.swc.ready = false ∧ reading.rsl.buttonIn = false ∧
    ({ reading with rsl := { reading.rsl with buttonIn := true, stopKey := ⟨true, false, none⟩ } } : State).rsl.stopKey.input = true := by decide

/-- A box that has read its straps under RUN with the source ready, its memory holding ARC for string 1. -/
def remembering : State := { reading with
  smu := { reading.smu with supply := .run, mem := Memory.writeSlot [] 0 (slotBytes 0 .arc).1 (slotBytes 0 .arc).2.1 (slotBytes 0 .arc).2.2 }
  swc := { reading.swc with ready := true } }

/-- A closed contact and an ARC memo: the OPEN of string 1 is driven at the hand-over. -/
theorem witness_HandOverSetsStrings_driven : remembering.swc.ready = true ∧ remembering.smu.supply = .run ∧
    remembering.readSlot 0 true = some .arc ∧
    (after (.handOver 0 (List.replicate 12 true) (List.replicate 12 true)) remembering).swc.coil = some (0, .toOpen) := by decide +kernel

/-- The listen period, with its end at 5000. -/
def listen (now : Time) : State := { State.reset with now := now, smu := { Smu.atReset with phase := .listening, listenEndAt := some 5000 } }

theorem witness_ListenEndStartsOperation : (listen 4990).smu.phase = .listening ∧
    expired ((listen 4990).now.plus 10) (listen 4990).smu.listenEndAt = true ∧
    expired ((listen 4990).now.plus 9) (listen 4990).smu.listenEndAt = false := by decide

/-- A string remembered as stopped. -/
def rememberedStop : State := { withString 3 { heldBy .arc with holds := { HoldSet.empty with stop := some .remembered } } with
  smu := { base.smu with rememberedAt := some 10000 } }

theorem witness_RememberedStopsAreReleased : rememberedStop.started = true ∧
    expired (rememberedStop.now.plus 0) rememberedStop.smu.rememberedAt = true ∧ (rememberedStop.string 3).holds.stop = some .remembered := by
  decide
/-- The monitor's two tests at their boundaries: 10 ms without interruption, and a ripple that breaks one. -/
theorem witness_SupplyTests : HeldTenMs (fun v => v < 10500) [⟨10499, 4⟩, ⟨7500, 6⟩, ⟨12000, 90⟩] ∧
    ¬HeldTenMs (fun v => v < 10500) [⟨10499, 9⟩, ⟨10500, 1⟩, ⟨10000, 90⟩] ∧ HeldTenMs (fun v => 11000 ≤ v) [⟨11000, 10⟩] ∧
    ¬HeldTenMs (fun v => 11000 ≤ v) [⟨11000, 9⟩, ⟨10999, 50⟩] := by
  simp only [← testPassed_low, ← testPassed_run]
  decide
/-- 10 ms below 10.5 V make RUN LOW, 9 ms do not, and a level below 7.5 V resets the part. -/
theorem test_supply_monitor : (after (.supplyLow ⟨20, [⟨10499, 10⟩]⟩) base).smu.supply = .low ∧
    (after (.supplyLow ⟨20, [⟨10499, 9⟩, ⟨10500, 1⟩]⟩) base).smu.supply = .run ∧
    (after (.supplyLow ⟨20, [⟨7499, 1⟩]⟩) base).smu.phase = .inReset := by decide
/-- READING begins in LOW below 11.0 V, and not at all below 8.5 V after a reset by the supply. -/
theorem test_reading_start_by_the_supply : (after (.readingStart 0 5 0 ⟨false, 10999, [0]⟩ true) State.reset).smu.supply = .low ∧
    (after (.readingStart 0 5 0 ⟨false, 11000, [0]⟩ true) State.reset).smu.supply = .run ∧
    (after (.readingStart 0 5 0 ⟨false, 8499, [0]⟩ true) State.reset).smu.phase = .inReset := by decide +kernel
theorem witness_SupplyLow_apart : base.smu.phase ≠ .inReset ∧ base.smu.supply = .run ∧ base.prb.role = .none := by decide

/-- A station with its PROBE-OPEN queued. -/
def waiting : State := { withLnc { Lnc.atReset with line := .up, queue := [queued .probeOpen 0], nextEntry := 1 } with
  prb := { Prb.atReset with role := .pending } }

theorem witness_SupplyLow_pending : waiting.smu.supply = .run ∧ waiting.prb.role = .pending ∧
    waiting.queuedOf .probeOpen = some (queued .probeOpen 0) ∧ waiting.lnc.sending ≠ some (queued .probeOpen 0).entry := by decide
theorem witness_SupplyLow_injecting : (injecting window).smu.supply = .run ∧ (injecting window).prb.role = .injecting ∧
    (injecting window).prb.window = some window ∧ window.phase ≠ some .closing ∧ (injecting window).listenOnly = false ∧
    (injecting window).lnc.queue.length < 16 := by decide

/-- A box without supply, whose drive and memo queues are given. -/
def unsupplied (os cs : List StringNo) (q : List (StringNo × MemoValue)) : State := { base with
  smu := { base.smu with supply := .low, memoQueue := q }
  swc := { Swc.atReset with openQ := os, closeQ := cs, ready := true } }

theorem witness_SupplyRun_open_first : (unsupplied [2] [3] []).smu.phase ≠ .inReset ∧ (unsupplied [2] [3] []).smu.supply = .low ∧
    (unsupplied [2] [3] []).started = true ∧ (unsupplied [2] [3] []).swc.engine = .idle ∧ (unsupplied [2] [3] []).swc.ready = true ∧
    (unsupplied [2] [3] []).swc.openQ = [2] := by decide
theorem witness_SupplyRun_close : (unsupplied [] [3] []).smu.supply = .low ∧ (unsupplied [] [3] []).swc.openQ = [] ∧
    (unsupplied [] [3] []).swc.closeQ = [3] := by decide
theorem witness_SupplyRun_idle : (unsupplied [] [] [(3, .arc)]).smu.supply = .low ∧
    ((unsupplied [] [] [(3, .arc)]).swc.openQ = [] ∧ (unsupplied [] [] [(3, .arc)]).swc.closeQ = []) ∧
    (unsupplied [] [] [(3, .arc)]).smu.writer = none ∧ (unsupplied [] [] [(3, .arc)]).smu.memoQueue = [(3, .arc)] := by decide
theorem witness_SupplyRun_retry :
    let s : State := { unsupplied [] [] [] with smu := { (unsupplied [] [] []).smu with writer := some ⟨3, .arc, 1, false, 9000⟩ } }
    s.smu.supply = .low ∧ s.smu.writer = some ⟨3, .arc, 1, false, 9000⟩ ∧ (after (.supplyRun ⟨7, [⟨11000, 10⟩]⟩) s).smu.writer = some ⟨3, .arc, 1, true, 10007⟩ := by
  decide

theorem witness_MemoWriteIsVerified : (writing 3).smu.phase ≠ .inReset ∧ (writing 3).smu.supply = .run ∧ (writing 3).smu.memoQueue = [] ∧
    Memory.wf (writing 3).smu.mem = true ∧ (writing 3).smu.writer = some ⟨3, .arc, 3, true, 10000⟩ ∧
    ((0, 0, 0) : Byte × Byte × Byte) ≠ slotBytes 3 .arc := by decide
theorem witness_MemoWriteIsVerified_retry : (writing 2).smu.writer = some ⟨3, .arc, 2, true, 10000⟩ ∧ 2 < 3 := by decide
theorem witness_MemoTimeoutFailsAttempt : (writing 3).smu.phase ≠ .inReset ∧ reached ((writing 3).now.plus 10) ((10000 : Time).plus 10) = true ∧
    (writing 3).smu.memoQueue = [] ∧
    ({ writing 0 with smu := { (writing 0).smu with memoQueue := [(3, .none)] } } : State).smu.memoQueue = [(3, .none)] := by decide
theorem witness_MemoSlotRoundTrip : Memory.wf [(0x30, 1), (0x39, 2)] = true := by decide

/-! ### Witnesses: sensing and arc evidence -/

theorem witness_RecordLiesInRange : (flat 2001 4096).wellFormed = true := by decide
theorem witness_RecordLiesInRange_ground : (List.replicate 40 1501).length = 40 ∧ (List.replicate 40 0).length = 40 ∧
    (groundRecord (List.replicate 40 1501) (List.replicate 40 0)).vpg ≠ 0 ∧
    (groundRecord (List.replicate 40 0) (List.replicate 40 0)).vpg = 0 := by decide

/-- A saturated and an unsaturated record. -/
def record (saturated : Bool) : IntervalRecord := ⟨800, 210, 0, saturated⟩

theorem witness_SensorFaultSetsAndClears :
    (List.replicate 3 (record true)).length = 3 ∧ (∀ r ∈ List.replicate 3 (record true), r.saturated = true) ∧
    ({ SenseString.atReset with sensorFault := true } : SenseString).sensorFault = true ∧ (List.replicate 100 (record false)).length ≤ 100 ∧
    (∀ x ∈ List.replicate 100 (record false), x.saturated = false) ∧ SenseString.atReset.sensorFault = false ∧
    SenseString.atReset.satRun < 2 := by decide

/-- A station with eleven strings, 10 ms into an interval. -/
def sensing : State := { base with smu := { base.smu with strings := 11 }, ssu := { Ssu.atReset with intervalStart := some 9990 } }

theorem witness_IntervalFormsRecordsAndEvidence : sensing.started = true ∧ sensing.ssu.intervalStart = some 9990 ∧
    reached (sensing.now.plus 0) ((9990 : Time).plus 10) = true ∧ reached ((sensing.now.plus 0)) ((9991 : Time).plus 10) = false ∧
    sensing.smu.strings ≤ (11 : StringNo).val ∧ (10 : StringNo).val < sensing.smu.strings := by decide
theorem witness_ObservationFollowsLearningAndScore : Evidence.atReset.learnPending = true ∧
    ({ Evidence.atReset with learnPending := false } : Evidence).learnPending = false := by decide
theorem witness_BoxMedianIsLowerMedian : 2 ≤ [15, 14].length := by decide
theorem witness_EvidenceIsScoreAboveMedian : ({ Evidence.atReset with score := 92, eligible := true } : Evidence).eligible = true ∧
    Evidence.atReset.eligible = false := by decide
theorem witness_TripsOpenAndMismatchSticks_reverse :
    ({ Evidence.atReset with qr := 9 } : Evidence).qr + 1 = Settings.atReset.revQual ∧
    ({ Evidence.atReset with qr := 10 } : Evidence).qr = Settings.atReset.revQual ∧
    ({ Evidence.atReset with qo := 19 } : Evidence).qo + 1 = Settings.atReset.ocQual ∧
    ({ Evidence.atReset with qo := 20 } : Evidence).qo = Settings.atReset.ocQual := by decide

/-- A CLOSED string 4 whose reverse counter has just reached REV_QUAL. -/
def tripping : State := { withString 3 closed with eve := base.eve.set 3 { Evidence.atReset with qr := 10 } }

theorem witness_TripsOpenAndMismatchSticks_trip :
    tripOf (base.eve.set 3 { Evidence.atReset with qr := 9 })[(3 : StringNo)] tripping.eve[(3 : StringNo)] tripping.smu.settings = some .reverse ∧
    (tripping.string 3).state = .closed ∧ (tripping.string 3).holds.fault = none ∧ (3 : StringNo).val < tripping.smu.strings ∧
    tripOf base.eve[(4 : StringNo)] tripping.eve[(4 : StringNo)] tripping.smu.settings = none := by decide

/-- An OPEN string with two intervals of current behind it and 0.2 A in the last record. -/
def leaking (i : Int) : State := { withString 3 { heldBy .arc with mismatch := 2 } with
  ssu := { Ssu.atReset with str := Ssu.atReset.str.set 3 { SenseString.atReset with record := ⟨i, 0, 0, false⟩ } } }

theorem witness_TripsOpenAndMismatchSticks_mismatch : ((leaking (-20)).string 3).state = .opened ∧
    20 ≤ (leaking (-20)).ssu.str[(3 : StringNo)].record.current.natAbs ∧ ((leaking (-20)).string 3).mismatch = 2 ∧
    (leaking 19).ssu.str[(3 : StringNo)].record.current.natAbs < 20 := by decide

theorem witness_TripsOpenAndMismatchSticks_count :
    (({ leaking 20 with swc := (withString 3 { heldBy .arc with mismatch := 1 }).swc } : State).string 3).state = .opened ∧
    20 ≤ (leaking 20).ssu.str[(3 : StringNo)].record.current.natAbs ∧
    (({ leaking 20 with swc := (withString 3 { heldBy .arc with mismatch := 1 }).swc } : State).string 3).mismatch < 2 := by decide

/-! ### Witnesses: incidents -/

theorem witness_StrongestClaimIsUnbeaten : State.reset.smu.address = 0 ∧ outranks 120 7 120 9 = true ∧ outranks 120 9 60 3 = true ∧
    ([⟨.arcClaim, 7, 120, none, none, 9000⟩] : List ClaimEntry) ≠ [] := by decide

/-- An entry that is SEL_WIN old and beats an incident of rank 120 at address 5. -/
def claim : ClaimEntry := ⟨.arcClaim, 4, 120, none, none, 9920⟩

theorem witness_ArcOnsetClaimsOrYields_yields : base.smu.settings.arcRounds ≠ 1 ∧
    claim ∈ ({ base with sel := { Sel.atReset with claimLog := [claim] } } : State).sel.claimLog ∧ claim.kind = .arcClaim ∧
    base.now.since claim.arrival ≤ base.smu.settings.selWin ∧ (claim.rank = 120 ∧ claim.source < base.smu.address) := by decide
theorem witness_ArcOnsetClaimsOrYields_claims : base.sel.claimLog = [] ∧ base.smu.address ≠ 0 ∧ base.queuedOf .arcClaim = none ∧
    base.lnc.queue.length < 16 := by decide
theorem witness_ArcOnsetClaimsOrYields_drops :
    16 ≤ (withLnc { Lnc.atReset with queue := (List.range 16).map (queued .isolated) }).lnc.queue.length ∧
    (∀ f ∈ (List.range 16).map (queued .isolated), f.kind ≠ .status ∧ f.kind ≠ .answer) := by decide
/-- Strings 4 and 6 qualify with equal run peaks, string 5 with a lower one. -/
def qualifying : State :=
  let e := fun p => { Evidence.atReset with eligible := true, q := 5, peak := p }
  { base with eve := ((base.eve.set 3 (e 120)).set 4 (e 119)).set 5 (e 120) }

theorem witness_ArcOnsetClaimsOrYields_winner : qualifying.candidates qualifying.eve = [3, 4, 5] ∧
    qualifying.winner (qualifying.candidates qualifying.eve) = some 3 ∧ base.candidates base.eve = [] ∧ qualifying.sel.arc = none ∧
    tripOf qualifying.eve[(3 : StringNo)] qualifying.eve[(3 : StringNo)] qualifying.smu.settings = none ∧ base.prb.role = .none ∧
    waiting.prb.role = .pending ∧ waiting.lnc.queue.length < 16 := by decide
theorem witness_ClaimMemoryLapses : base.started = true ∧
    ({ base with sel := { Sel.atReset with recent := some (120, 0) } } : State).sel.recent = some (120, 0) := by decide
/-- The pending station's attempt in progress, and an injector with a frame queued, that has closed its window or not. -/
theorem witness_ArcOnsetClaimsOrYields_probe :
    waiting.queuedOf .probeOpen = some (queued .probeOpen 0) ∧ waiting.lnc.sending ≠ some (queued .probeOpen 0).entry ∧
    ({ waiting with lnc := { waiting.lnc with sending := some 0 } } : State).lnc.sending = some (queued .probeOpen 0).entry ∧
    (injecting window).prb.role = .injecting ∧ (injecting window).prb.window = some window ∧ window.phase ≠ some .closing ∧
    ({ window with phase := some .closing } : Window).phase = some .closing ∧ (injecting window).smu.address ≠ 0 ∧
    (injecting window).lnc.queue.length < 15 ∧ (listening window).prb.role = .listening ∧ State.reset.smu.address = 0 := by decide

/-- A station with an arc incident on a CLOSED string 4. -/
def withArc (i : Incident) : State := { withString 3 closed with sel := { Sel.atReset with arc := some i } }

theorem witness_DecisionPointAddsArcHold : (withArc arc).started = true ∧ (withArc arc).sel.arc = some arc ∧ arc.state = .claiming ∧
    reached ((withArc arc).now.plus 30) arc.decision = true ∧ reached ((withArc arc).now.plus 29) arc.decision = false ∧
    ((withArc arc).string arc.string).state = .closed ∧ ((withArc arc).string arc.string).holds.fault = none := by decide
theorem witness_DecisionPointAddsArcHold_yielded : ({ arc with state := .yielded } : Incident).state ≠ .claiming := by decide

/-- The strings that leave no opening to confirm, and those that do. -/
theorem witness_NoOpeningComes : NoOpeningComes (heldBy .reverse) ∧ NoOpeningComes { heldBy .arc with state := .stuckOpen } ∧
    NoOpeningComes { heldBy .arc with state := .stuckClosed } ∧ NoOpeningComes (closing false) ∧ CloseWaits (closing false) ∧
    ¬NoOpeningComes (closing true) ∧ ¬NoOpeningComes closed := by
  refine ⟨.inl rfl, .inr (.inr (.inl rfl)), .inr (.inl rfl), .inr (.inr (.inr ⟨rfl, _, rfl, rfl⟩)), ⟨rfl, _, rfl, rfl⟩, ?_, ?_⟩
  · rintro (h | h | h | ⟨-, q, h, e⟩)
    all_goals first | cases h; cases e | cases h
  · rintro (h | h | h | ⟨h, -⟩) <;> cases h

/-- An incident with its claim frame queued, with or without an attempt of it. -/
def claimingOf (f : QueuedFrame) (attempt : Bool) (a g : Option Incident) : State := { withString 3 closed with
  lnc := { Lnc.atReset with line := .up, queue := [f], nextEntry := 1, sending := if attempt then some f.entry else none }
  sel := { Sel.atReset with arc := a, ground := g } }

theorem witness_DecisionPointAddsArcHold_claim :
    let i := { arc with claim := .queued }
    let s := claimingOf (queued .arcClaim 0) false (some i) none
    s.started = true ∧ s.sel.arc = some i ∧ s.queuedOf .arcClaim = some (queued .arcClaim 0) ∧ s.lnc.sending ≠ some 0 ∧
    (claimingOf (queued .arcClaim 0) true (some i) none).lnc.sending = some 0 ∧ i.state = .claiming ∧
    reached (s.now.plus 30) i.decision = true := by decide

/-- A station with a ground incident on a CLOSED string 4. -/
def withGround (i : Incident) : State := { withString 3 closed with sel := { Sel.atReset with ground := some i } }

theorem witness_GroundDecisionIsolatesOrMarks : (withGround ground).started = true ∧ (withGround ground).sel.ground = some ground ∧
    ground.riso = some 144 ∧ reached ((withGround ground).now.plus 0) ground.decision = true ∧
    ground.state = .claiming ∧ 144 < (withGround ground).smu.settings.gfTrip ∧ (withGround ground).smu.settings.gfAction = .isolate ∧
    ((withGround ground).string ground.string).state = .closed ∧ ((withGround ground).string ground.string).holds.fault = none := by decide
theorem witness_GroundDecisionIsolatesOrMarks_marks : ({ ground with riso := some 200 } : Incident).riso = some 200 ∧
    base.smu.settings.gfTrip ≤ 200 := by decide
theorem witness_GroundDecisionIsolatesOrMarks_claim :
    let i := { ground with claim := .queued }
    let s := claimingOf (queued .locate 0) false none (some i)
    s.started = true ∧ s.sel.ground = some i ∧ i.riso = some 144 ∧ s.queuedOf .locate = some (queued .locate 0) ∧ s.lnc.sending ≠ some 0 ∧
    (claimingOf (queued .locate 0) true none (some i)).lnc.sending = some 0 ∧ reached (s.now.plus 0) i.decision = true ∧
    ({ i with state := .yielded } : Incident).state = .yielded ∧ ({ i with state := .decided } : Incident).state = .decided ∧
    ¬reached (s.now.plus 0) 10001 = true := by decide
/-- A ground incident whose string is OPEN under another cause closes at its decision, a LOCATE still queued with it. -/
theorem test_ground_decision_of_an_open_string :
    let s := (claimingOf (queued .locate 0) false none (some { ground with claim := .queued })).setString 3 fun _ => heldBy .reverse
    (after (.groundDecision 0) s).sel.ground = none ∧ (after (.groundDecision 0) s).lnc.queue = [] ∧
    ((after (.groundDecision 0) s).string 3).holds.later = some .ground := by decide

/-- An arc that yielded so long ago that its hold ends at 10000. -/
def yielded : Incident := { arc with onset := 7920, decision := 8000, state := .yielded, claim := .none, beatenBy := some ⟨7, 130⟩ }

/-- That station with its string still qualifying, and some entries in its Claim Log. -/
def persisting (i : Incident) (es : List ClaimEntry) : State := { withArc i with
  eve := base.eve.set 3 { Evidence.atReset with q := 5, peak := 120 }
  sel := { Sel.atReset with arc := some i, claimLog := es } }

theorem witness_YieldHoldEndsInRoundOrClosing : (persisting yielded []).started = true ∧ (persisting yielded []).sel.arc = some yielded ∧
    yielded.kind = .arc ∧ yielded.state = .yielded ∧
    reached ((persisting yielded []).now.plus 0) (yielded.onset.plus
      ((persisting yielded []).smu.settings.selWin + (persisting yielded []).smu.settings.yieldHold)) = true ∧
    (withArc yielded).eve[yielded.string].q < (withArc yielded).smu.settings.arcQual ∧
    ¬((persisting yielded []).eve[yielded.string].q < (persisting yielded []).smu.settings.arcQual ∨
      (persisting yielded []).smu.settings.arcRounds ≤ yielded.round) ∧
    (withArc arc).smu.settings.arcRounds ≤ ({ yielded with round := 3 } : Incident).round ∧ arc.state ≠ .yielded := by decide
/-- The entry the incident yielded to 2 s ago stays in the log and beats no round now; one that is SEL_WIN old, of the earlier
winner or of equal rank and lower source, does. An ISOLATED of the earlier winner is not relevant. -/
theorem witness_YieldHoldEndsInRoundOrClosing_claims :
    (⟨.arcClaim, 7, 130, none, none, 7950⟩ : ClaimEntry) ∈ (persisting yielded [⟨.arcClaim, 7, 130, none, none, 7950⟩]).sel.claimLog ∧
    ¬(10000 : Time).since 7950 ≤ base.smu.settings.selWin ∧ (10000 : Time).since 9920 ≤ base.smu.settings.selWin ∧
    claim.rank = (persisting yielded [claim]).eve[yielded.string].peak ∧ claim.source < (persisting yielded [claim]).smu.address ∧
    yielded.round + 1 ≠ base.smu.settings.arcRounds ∧ ({ yielded with round := 2 } : Incident).round + 1 = base.smu.settings.arcRounds ∧
    (1 < yielded.round + 1 ∧ yielded.beatenBy = some ⟨7, 130⟩) := by decide
theorem witness_YieldHoldEndsInRoundOrClosing_queue :
    (withLnc { Lnc.atReset with queue := [queued .arcClaim 0] }).queuedOf .arcClaim = some (queued .arcClaim 0) ∧
    (withLnc { Lnc.atReset with queue := [queued .arcClaim 0], sending := some 0 }).lnc.sending = some (queued .arcClaim 0).entry ∧
    (persisting yielded []).queuedOf .arcClaim = none ∧ (persisting yielded []).lnc.queue.length < 16 ∧ yielded.claim ≠ .queued ∧
    16 ≤ ((List.range 16).map (queued .answer)).length ∧ (queued .answer 3).kind = .answer ∧ (queued .isolated 3).kind ≠ .answer ∧
    base.smu.address ≠ 0 ∧ State.reset.smu.address = 0 := by decide

/-! ### Witnesses: the ground probe -/

/-- All three triggers are due at 10000. -/
def due : State := withPrb { Prb.atReset with dueAt := some 10000, duePending := true, retryAt := some 10000, staggerAt := some 10000 }

theorem witness_ProbeTriggersQueueProbeOpen : due.started = true ∧ expired (due.now.plus 0) due.prb.dueAt = true ∧
    due.prb.duePending = true ∧ expired (due.now.plus 0) due.prb.retryAt = true ∧ expired (due.now.plus 0) due.prb.staggerAt = true ∧
    due.prb.fault = false ∧
    (due.prb.role = .none ∧ (due.lnc.line = .up ∨ due.lnc.line = .degraded) ∧ due.smu.phase = .running ∧ due.sel.arc = none ∧
      due.smu.supply = .run ∧ (∀ e, due.prb.lastEnd = some e → 30000 ≤ (due.now.plus 0).since e) ∧ due.smu.address ≠ 0 ∧
      due.pvw.stopSet = [] ∧ due.rsl.lockKey.accepted = false) ∧
    due.queuedOf .probeOpen = none ∧ due.lnc.queue.length < 16 :=
  ⟨by decide, by decide, by decide, by decide, by decide, by decide,
    ⟨by decide, by decide, by decide, by decide, by decide, (fun e h => nomatch h), by decide, by decide, by decide⟩, by decide, by decide⟩
theorem witness_ProbeTriggersQueueProbeOpen_refused :
    ({ due with smu := { due.smu with supply := .low } } : State).smu.supply ≠ .run ∧
    ({ due with prb := { due.prb with fault := true } } : State).prb.fault = true ∧ (30000 : Nat) ≤ (30000 : Time).since 0 := by decide
theorem witness_ProbeTriggersQueueProbeOpen_balance :
    let away : State := { due with prb := { Prb.atReset with alarmArmed := true, alarmCount := 98, balRef := 450 } }
    (away.smu.settings.balShift : Int) ≤ |(away.ssu.ground.balance : Int) - away.prb.balRef| ∧ away.prb.role = .none ∧
    away.prb.alarmArmed = true ∧ away.prb.alarmCount < 99 ∧ 99 ≤ 99 ∧ ¬((50 : Int) ≤ |(500 : Int) - 451|) ∧ due.prb.alarmArmed = false ∧
    waiting.prb.role = .pending := by decide

theorem witness_ReferenceHalvesCheckInjector : (injecting window).started = true ∧ (injecting window).prb.role = .injecting ∧
    (injecting window).prb.window = some window ∧ window.phase = some .reference ∧ window.refUp = none ∧
    reached ((injecting window).now.plus 0) (window.start.plus 200) = true := by decide

/-- The window after its UP reference half, and a box whose last interval gives the DOWN pair of the worked window. -/
def window2 : Window := { window with refUp := some (130, 104) }

/-- The box at the end of the DOWN reference half. -/
def reference (v : Nat) : State := { injecting window2 with ssu := { Ssu.atReset with probeV := v, probeI := -96 } }

theorem witness_ReferenceHalvesCheckInjector_check : (reference 26).prb.window = some window2 ∧ window2.refUp = some (130, 104) ∧
    reached ((reference 26).now.plus 0) (window2.start.plus 400) = true ∧
    rawResistance (130, 104) ((reference 26).ssu.probeV, (reference 26).ssu.probeI) = 520 ∧
    rawResistance (130, 104) ((reference 19).ssu.probeV, (reference 19).ssu.probeI) = 555 ∧
    (reference 19).smu.address ≠ 0 ∧ (reference 19).lnc.queue.length < 16 := by decide

/-- The window in its injection, with n halves injected of 4. -/
def injection (n : Nat) : Window := { window with phase := some .injection, halvesInjected := n, halfCount := n + 1, halves := [newHalf 9500 true] }

theorem witness_InjectionRunsItsHalves : ({ window with phase := some .transfer } : Window).phase = some .transfer ∧
    reached ((10000 : Time).plus 0) (window.start.plus 500) = true ∧ (injection 0).phase = some .injection ∧
    reached ((10000 : Time).plus 1000) ((injection 0).start.plus (500 + ((injection 0).halvesInjected + 1) * (injection 0).hp)) = true ∧
    (injection 0).halvesInjected + 1 < (injection 0).np ∧ (injection 3).np ≤ (injection 3).halvesInjected + 1 ∧
    (injecting (injection 3)).smu.address ≠ 0 ∧ (injecting (injection 3)).lnc.queue.length < 16 := by decide

/-- A listener's window in half 1 of 4, begun at 8750, and ended by W_MAX at 10000. -/
def heard : Window := { window with
  phase := none, tracker := .upHalf, halfCount := 1, halves := [newHalf 8750 true], wMaxAt := some 10000 }

theorem witness_ListenerTimeouts : (listening heard).started = true ∧ (listening heard).prb.role = .listening ∧
    (listening heard).prb.window = some heard ∧ heard.halves = [] ++ [newHalf 8750 true] ∧ heard.tracker = .upHalf ∧
    heard.halfCount < heard.np ∧ reached ((listening heard).now.plus 0) ((8750 : Time).plus (5 * heard.hp / 4)) = true ∧
    expired ((listening heard).now.plus 0) heard.wMaxAt = true := by decide
theorem witness_ListenerTimeouts_tracker :
    (9899 : Time).since window.start < 400 ∧ 400 ≤ (9900 : Time).since window.start ∧ window.tracker = .waiting ∧
    500 + window.hp / 2 < (10501 : Time).since window.start ∧ (10500 : Time).since window.start ≤ 500 + window.hp / 2 ∧
    ({ window with tracker := .first, low := 400, high := 405 } : Window).low + 10 ≤ 410 ∧
    395 + 10 ≤ ({ window with tracker := .first, low := 400, high := 405 } : Window).high ∧ (396 < 400 + 10 ∧ 405 < 396 + 10) ∧
    (heard.tracker = .upHalf ∧ ({ heard with tracker := .downHalf, halfCount := 4 } : Window).tracker = .downHalf) ∧ heard.np ≤ 4 ∧
    ({ heard with tracker := .ended } : Window).tracker = .ended := by decide
theorem witness_ListenerTimeouts_span : heard.halves = [] ++ [newHalf 8750 true] ∧ heard.settle + 10 ≤ (9060 : Time).since 8750 ∧
    (9730 : Time).since 8750 + 20 ≤ heard.hp ∧ (9059 : Time).since 8750 < heard.settle + 10 ∧ heard.hp < (9731 : Time).since 8750 + 20 ∧
    (listening heard).prb.role = .listening ∧ (injecting window).prb.role = .injecting ∧ window.halves = [] := by decide
theorem witness_InsulationScalesByReference : (400 : Int) ≤ 400 ∧ ((400 : Int) < 401 ∧ 1000 * |(611 : Int) - 491| / (401 - 400) > 65535) ∧
    ((-400 : Int) < 400 ∧ 1000 * |(611 : Int) - 491| / (400 - -400) ≤ 65535) ∧ (150 < 65535 ∧ 450 ≤ 450 ∧ 550 ≤ 550) ∧
    (List.replicate 4 ((0 : Nat), (0 : Int))).length = 4 ∧ 4 % 2 = 0 ∧ 4 ≤ 4 := by decide
theorem witness_BestStringHasHighestRank :
    base.bestString [half true 0, half false (-58), half true 62] = some (0, 30, 60) ∧
    responseOf [half true 0, half false (-58), half true 62] 0 = some 60 ∧ ground.kind = .ground := by decide
/-- Two used halves, and one beside an invalid one. -/
theorem witness_BestStringHasHighestRank_response :
    let used := fun hs : List Half => (hs.drop 1).filter fun h => decide (h.valid = some true ∧ h.acc[(0 : StringNo)].count ≠ 0)
    (used [half true 0, half false (-58), half true 62]).length = 2 ∧
    (used [half true 0, half false (-58), { half true 62 with valid := some false }]).length = 1 := by decide
/-- A window report with a best string of rank 10, LOC_MIN exactly. -/
def reported : WindowReport := ⟨⟨7, 42⟩, some .ok, false, some (3, 10, 20), 144⟩

theorem witness_BestStringHasHighestRank_report : reported.status = some .ok ∧ reported.disturbed = false ∧
    reported.result = some (3, 10, 20) ∧ base.smu.settings.locMin ≤ 10 ∧ 9 < base.smu.settings.locMin ∧ base.sel.ground = none ∧
    (withGround ground).sel.ground ≠ none ∧ base.pvw.stopSet = [] ∧ base.rsl.lockKey.accepted = false ∧ stopped.pvw.stopSet ≠ [] ∧
    ({ reported with disturbed := true } : WindowReport).disturbed = true ∧ base.queuedOf .locate = none ∧ base.lnc.queue.length < 16 ∧
    base.smu.address ≠ 0 ∧ base.sel.claimLog = [] := by decide
theorem witness_BestStringHasHighestRank_beaten :
    let e : ClaimEntry := ⟨.locate, 4, 10, none, some ⟨7, 42⟩, 10000⟩
    e ∈ ({ base with sel := { Sel.atReset with claimLog := [e] } } : State).sel.claimLog ∧ e.kind = .locate ∧ e.tag = some reported.tag ∧
    (e.rank = 10 ∧ e.source < base.smu.address) := by decide

/-! ### Witnesses: the peer line -/

/-- An attempt of a frame in progress, on the line as station 5 sends it. -/
def sendingOf (f : QueuedFrame) : State := withLnc { Lnc.atReset with
  line := .up, queue := [f], nextEntry := 1, sending := some f.entry, tx := frameLevels (frameChars f.kind f.rank 5 f.payload) }

/-- An attempt of the same kind with levels that are recessive in bits 29 and 31 only: a data bit of character 3 and its mark bit. -/
def contending : State := { sendingOf (queued .status 0) with
  lnc := { (sendingOf (queued .status 0)).lnc with tx := List.replicate 29 .dominant ++ [.recessive, .dominant, .recessive] } }

/-- A receiver in a state, with some characters of a frame. -/
def receiving (r : RxState) (xs : List Byte) : State := withLnc { Lnc.atReset with line := .up, rx := r, rxChars := xs }

theorem witness_CharactersAssembleFrames : (receiving .frame [2, 255, 12]).started = true ∧ (receiving .frame [2, 255, 12]).lnc.breakEndAt = none ∧
    (receiving .frame [2, 255, 12]).lnc.line ≠ .stuck ∧ (receiving .frame [2, 255, 12]).lnc.rx = .frame ∧
    ((receiving .frame [2, 255, 12]).lnc.rxChars ++ [17]).length = 4 ∧ 16 < (17 : Byte).toNat ∧ (16 : Byte).toNat ≤ 16 ∧
    ((receiving .frame [2, 255, 12, 0, 0xE3]).lnc.rxChars ++ [0xA6]).length =
      (((receiving .frame [2, 255, 12, 0, 0xE3]).lnc.rxChars ++ [0xA6]).getD 3 0).toNat + 6 ∧
    ((receiving .frame [2, 255]).lnc.rxChars ++ [12]).length < 4 ∧ (receiving .frame []).lnc.sending = none ∧
    (receiving .ready []).lnc.rx ≠ .frame ∧ (receiving .ready []).lnc.rx ≠ .sync := by decide
theorem witness_FramesReadBackAsSent : 255 ≤ 255 ∧ (List.replicate 16 (0 : Byte)).length ≤ 16 := by decide

/-- A frame of 6 characters taken to its end. -/
def complete (xs : List Byte) : State := withLnc { Lnc.atReset with line := .down, rxDone := some xs }

theorem witness_FrameCompletionSortsFrames : (complete [0x02, 0xFF, 0x0C, 0, 0xE3, 0xA6]).started = true ∧
    (complete [0x02, 0xFF, 0x0C, 0, 0xE3, 0xA6]).lnc.sending = none ∧
    parseFrame [0x02, 0xFF, 0x0C, 0, 0xE3, 0xA6] = some ⟨2, 0, 12, []⟩ ∧ parseFrame [0x02, 0xFF, 0x0C, 0, 0, 0] = none ∧
    12 = (11 : PeerNo).val + 1 ∧ 12 ≠ base.smu.address ∧ Kind.ofCode 2 = some .arrayStop ∧ encodingFits .arrayStop [] = true ∧
    encodingFits .arcClaim [] = false ∧ Kind.ofCode 3 = none := by decide +kernel
theorem witness_FrameCompletionSortsFrames_sources :
    parseFrame (frameChars .arrayStop 0 0 []) = some ⟨2, 0, 0, []⟩ ∧ parseFrame (frameChars .arrayStop 0 32 []) = some ⟨2, 0, 32, []⟩ ∧
    parseFrame (frameChars .arrayStop 0 5 []) = some ⟨2, 0, 5, []⟩ ∧ base.smu.address = 5 ∧
    parseFrame (frameChars .arrayStop 0 31 []) = some ⟨2, 0, 31, []⟩ := by decide +kernel

/-- A payload that passes the checks of R189 and one that fails them by one in each number tested, for each kind. -/
theorem witness_FrameCompletionSortsFrames_form :
    (∀ x ∈ ([(.arrayStop, []), (.arrayResume, []), (.arcClaim, [99, 0]), (.isolated, [4, 1, 1, 0, 0]), (.isolated, [4, 2, 0, 1, 9]),
      (.isolated, [4, 2, 0, 31, 9]), (.isolated, [4, 5, 0, 0, 0]), (.locate, [1, 9, 4, 0x07, 0xFF]), (.locate, [31, 9, 4, 0, 0]),
      (.probeOpen, [0, 0, 0, 0]), (.probeClose, [9, 1, 4, 0, 0]), (.probeClose, [9, 4, 4, 0, 0]), (.service, [31, 31, 1, 0xF0, 0]),
      (.service, [0, 0, 4, 0, 12]), (.answer, [5, 1]), (.status, [0x47, 0, 0, 0, 0]), (.status, [0x8F, 0, 0, 0, 0, 0x11, 0xCE])] :
      List (Kind × List Byte)), ¬FormFails x.1 x.2) ∧
    (∀ x ∈ ([(.arrayStop, [0]), (.arrayResume, [0]), (.arcClaim, [4]), (.isolated, [4, 1, 1, 0]), (.isolated, [4, 0, 0, 0, 0]),
      (.isolated, [4, 6, 0, 0, 0]), (.isolated, [4, 2, 0, 0, 9]), (.isolated, [4, 2, 0, 32, 9]), (.locate, [0, 9, 4, 0, 0]),
      (.locate, [32, 9, 4, 0, 0]), (.locate, [1, 9, 4, 0x08, 0]), (.probeOpen, [0, 0, 0]), (.probeClose, [9, 0, 4, 0, 0]),
      (.probeClose, [9, 5, 4, 0, 0]), (.service, [32, 0, 1, 0, 0]), (.service, [0, 32, 1, 0, 0]), (.service, [0, 0, 0, 0, 0]),
      (.service, [0, 0, 5, 0, 0]), (.service, [0, 0, 4, 0, 0]), (.service, [0, 0, 4, 0, 13]), (.answer, [5]), (.status, [0x10, 0, 0, 0]),
      (.status, [0x50, 0, 0, 0, 0]), (.status, [0x10, 0, 0, 0, 0, 0x01]), (.status, [0x10, 0, 0, 0, 0, 0xD1]),
      (.status, [0x10, 0, 0, 0, 0, 0x10]), (.status, [0x10, 0, 0, 0, 0, 0x1F])] : List (Kind × List Byte)), FormFails x.1 x.2) := by
  simp only [← encodingFits_false]
  decide +kernel

theorem witness_StopFramesMoveTheStopSet : ((withString 3 closed).string 3).state = .closed ∧ (3 : StringNo).val < base.smu.strings ∧
    (9 ∉ ([3] : List Nat)) ∧ (∃ a ∈ ([3, 9] : List Nat), a ≠ 9) ∧ (∀ a ∈ ([9] : List Nat), a = 9) ∧
    (([0x10, 0x80] : List Byte).getD 1 0).getLsbD 7 = true ∧ (([0x10, 0x7F] : List Byte).getD 1 0).getLsbD 7 = false := by decide
theorem witness_StopFramesMoveTheStopSet_release :
    ((withString 3 { heldBy .arc with holds := { HoldSet.empty with stop := some .tied } }).string 3).state = .opened ∧
    ((withString 3 { heldBy .arc with holds := { HoldSet.empty with stop := some .tied } }).string 3).holds =
      { HoldSet.empty with stop := some .tied } := by decide

theorem waiting_sound : QueueSound waiting.lnc :=
  ⟨by decide, by decide, by decide, by decide, by rintro k (rfl | rfl | rfl | rfl) <;> decide, fun p h => (nomatch h), by decide⟩

/-- The stop ends every part in a window: a PENDING station's, its attempt in progress or not, a listener's and an injector's. -/
theorem witness_StopFramesMoveTheStopSet_probe : QueueSound waiting.lnc ∧ QueueSound (injecting window).lnc ∧
    waiting.prb.role = .pending ∧ waiting.queuedOf .probeOpen = some (queued .probeOpen 0) ∧
    QueueSound { waiting.lnc with sending := some 0, tx := [.dominant] } ∧
    (listening heard).prb.role = .listening ∧
    (injecting window).prb.window = some window ∧ window.phase ≠ some .closing ∧ (injecting window).smu.address ≠ 0 ∧
    (injecting window).lnc.queue.length < 16 :=
  ⟨waiting_sound,
    ⟨by decide, by decide, by decide, by decide, by rintro k (rfl | rfl | rfl | rfl) <;> decide, fun p h => (nomatch h), by decide⟩,
    by decide, by decide, (let ⟨a, b, c, d, e, f, _⟩ := waiting_sound; ⟨a, b, c, d, e, f, by decide⟩),
    by decide, by decide, by decide, by decide, by decide⟩
theorem witness_ClaimFramesAreLoggedAndCompared : (withArc arc).sel.arc = some arc ∧ arc.kind = .arc ∧ arc.state = .claiming ∧
    (arc.rank = 120 ∧ 4 < (withArc arc).smu.address) ∧ arc.round ≠ (withArc arc).smu.settings.arcRounds ∧ arc.claim ≠ .queued ∧
    (120 = arc.rank ∧ (withArc arc).smu.address ≤ 5) ∧ (withArc arc).sel.claimLog.length < 16 := by decide
theorem witness_ClaimFramesAreLoggedAndCompared_queued :
    (withLnc { Lnc.atReset with queue := [queued .arcClaim 0] }).queuedOf .arcClaim = some (queued .arcClaim 0) ∧
    (withLnc { Lnc.atReset with queue := [queued .arcClaim 0] }).lnc.sending ≠ some (queued .arcClaim 0).entry ∧
    ({ base with sel := { Sel.atReset with recent := some (120, 9000) } } : State).sel.recent = some (120, 9000) ∧
    (120 = 120 ∧ base.smu.address ≤ 5) ∧ (([4, 1, 1, 0, 0] : List Byte).getD 1 0).toNat = 1 := by decide

/-- A log of 16 entries, one of each source 1 to 16. -/
def fullLog : List ClaimEntry := (List.range 16).map fun n => ⟨.arcClaim, n + 1, 60, none, none, BitVec.ofNat 32 (9000 + n)⟩

theorem witness_ClaimFramesAreLoggedAndCompared_log : (∃ x ∈ fullLog, x.source = 16 ∧ x.kind = .arcClaim) ∧ fullLog.length = 16 ∧
    (∀ x ∈ fullLog, ¬(x.source = 17 ∧ x.kind = .arcClaim)) ∧ (∀ x ∈ fullLog, ¬(x.source = 16 ∧ x.kind = .locate)) ∧
    fullLog.tail.length < 16 := by decide
/-- A LOCATE of the GROUND incident's window, or of another; one that outranks it by source, and one of the own address that does
not; a claim whose attempt is in progress. -/
theorem witness_ClaimFramesAreLoggedAndCompared_locate : (withGround ground).sel.ground = some ground ∧ ground.kind = .ground ∧
    ground.state = .claiming ∧
    ground.tag = some { injector := (([7, 42] : List Byte).getD 0 0).toNat, sequence := (([7, 42] : List Byte).getD 1 0).toNat } ∧
    ground.tag ≠ some { injector := 7, sequence := 43 } ∧ (29 = ground.rank ∧ 4 < (withGround ground).smu.address) ∧
    ¬(ground.rank < 29 ∨ (29 = ground.rank ∧ 5 < (withGround ground).smu.address)) ∧ base.sel.ground = none ∧
    (sendingOf (queued .locate 0)).queuedOf .locate = some (queued .locate 0) ∧
    (sendingOf (queued .locate 0)).lnc.sending = some (queued .locate 0).entry ∧
    (withLnc { Lnc.atReset with queue := [queued .locate 0] }).lnc.sending ≠ some (queued .locate 0).entry := by decide
theorem witness_ClaimFramesAreLoggedAndCompared_arc : (withArc yielded).sel.arc = some yielded ∧ yielded.state = .yielded ∧
    yielded.beatenBy = some ⟨7, 130⟩ ∧ (130 < 131 ∨ (131 = 130 ∧ 7 < 7)) ∧ ¬(130 < 130 ∨ (130 = 130 ∧ 7 < 7)) ∧
    ¬(1 < yielded.round) ∧ 1 < ({ yielded with round := 2 } : Incident).round ∧ ({ arc with state := .decided } : Incident).state = .decided ∧
    ({ arc with round := 3 } : Incident).round = (withArc arc).smu.settings.arcRounds ∧
    IsoCause.ofCode (([4, 1, 1, 0, 0] : List Byte).getD 1 0).toNat = some .arc ∧
    IsoCause.ofCode (([4, 2, 0, 7, 42] : List Byte).getD 1 0).toNat ≠ some .arc ∧ base.sel.arc = none ∧ base.prb.role ≠ .injecting := by
  decide
theorem witness_ProbeFramesOpenAndEndWindows : base.prb.role = .none ∧ base.pvw.stopSet = [] ∧ base.rsl.lockKey.accepted = false ∧
    base.smu.address ≠ 0 ∧ stopped.pvw.stopSet ≠ [] ∧ stopped.prb.role = .none ∧
    WindowStatus.ofCode (([42, 1, 8, 0, 144] : List Byte).getD 1 0).toNat = some .ok ∧ waiting.prb.role = .pending ∧
    waiting.queuedOf .probeOpen = some (queued .probeOpen 0) ∧ waiting.lnc.sending ≠ some (queued .probeOpen 0).entry ∧
    (injecting window).prb.window = some window ∧ window.phase ≠ some .closing ∧ (injecting window).lnc.queue.length < 16 ∧
    ({ window with phase := some .closing } : Window).phase = some .closing := by decide
/-- Announced parameters at the ends of their ranges, and others beyond them that are clamped as R76 says. -/
theorem witness_ProbeFramesOpenAndEndWindows_parameters : paramsUsable 200 4 50 = true ∧ paramsUsable 2000 16 1000 = true ∧
    paramsUsable 100 4 50 = false ∧ paramsUsable 200 5 50 = false ∧ paramsUsable 200 4 40 = false ∧ paramsUsable 200 4 110 = false ∧
    (max 200 (min 2000 100) = 200 ∧ max 4 (min 16 5) / 2 * 2 = 4 ∧ min (max 50 (min 1000 40)) (200 / 2) = 50 ∧
      min (max 50 (min 1000 110)) (200 / 2) = 100) := by decide
theorem witness_ProbeFramesOpenAndEndWindows_listener : (listening heard).prb.role = .listening ∧ (listening heard).prb.window = some heard ∧
    heard.tag = { injector := 5, sequence := (([9, 1, 4, 0, 200] : List Byte).getD 0 0).toNat } ∧
    heard.tag ≠ { injector := 6, sequence := 9 } ∧ (heard.usable = true ∧ heard.disturbed = false ∧ (4 : Byte).toNat = heard.np) ∧
    (listening heard).smu.settings.gfTrip ≤ 256 * (0 : Byte).toNat + (200 : Byte).toNat ∧
    heard.halves.getLast? = some (newHalf 8750 true) ∧ (newHalf 8750 true).valid = none ∧ State.reset.smu.address = 0 := by decide
/-- R73 and R92 at a listener: the reference of 500 is replaced by the capture after a whole window, and kept when the window
is disturbed, low or not OK, the last also when it is unusable or the count of halves differs. -/
theorem test_listener_replaces_balance_reference :
    let after := fun (w : Window) (st : WindowStatus) (halves riso : Nat) =>
      ((listening w).listenerMatched { w with capture := 470 } st halves riso).prb.balRef
    after heard .ok 4 200 = 470 ∧ after { heard with disturbed := true } .ok 4 200 = 500 ∧ after heard .ok 4 1 = 500 ∧
    after heard .aborted 4 200 = 500 ∧ after { heard with usable := false } .aborted 4 200 = 500 ∧
    after heard .disturbed 3 200 = 500 := by decide
/-- An OK, undisturbed window that is not low and has 3 halves of 4 leaves one of the two references, and no result. -/
theorem test_listener_reference_where_rules_differ :
    let t := (listening heard).listenerMatched { heard with capture := 470 } .ok 3 200
    (t.prb.balRef = 470 ∨ t.prb.balRef = 500) ∧ t.sel.ground = none ∧ t.prb.role = .none := by
  have h : (Config.takesCapture heard.usable (3 == heard.np)) = Config.takesCapture true false := rfl
  simp only [State.listenerMatched, h]
  generalize Config.takesCapture true false = b
  revert b; decide
theorem witness_ProbeFramesOpenAndEndWindows_isolated : (injecting window).prb.role = .injecting ∧
    (let w := { window with phase := some .closing, status := some .ok }; w.phase = some .closing ∧ w.status ≠ none) ∧
    (injecting window).smu.address ≠ 0 ∧
    16 ≤ ((List.range 16).map (queued .isolated)).length ∧ (∀ g ∈ (List.range 16).map (queued .isolated), g.kind ≠ .status ∧ g.kind ≠ .answer) := by
  decide

theorem witness_IdleLineBeginsAttempts : (withLnc twoFrames).started = true ∧ (withLnc twoFrames).lnc.sending = none ∧
    (withLnc twoFrames).lnc.breakEndAt = none ∧ (withLnc twoFrames).lnc.line ≠ .stuck ∧
    (withLnc twoFrames).lnc.queue = queued .arcClaim 1 :: [queued .status 0] ∧ (withLnc twoFrames).smu.phase = .running ∧
    (listen 0).started = true ∧ (listen 0).lnc.queue = [] ∧ (listen 0).smu.phase = .listening ∧
    (queued .arcClaim 1).kind ≠ .arrayStop ∧ (queued .arcClaim 1).kind ≠ .arrayResume := by decide
theorem witness_IdleLineBeginsAttempts_stuck : (withLnc { twoFrames with line := .stuck }).lnc.line = .stuck ∧
    (withLnc { twoFrames with line := .stuck }).lnc.queue = queued .arcClaim 1 :: [queued .status 0] ∧
    (withLnc { Lnc.atReset with line := .stuck }).lnc.queue = [] ∧
    (withLnc { twoFrames with breakEndAt := some 10300 }).lnc.breakEndAt ≠ none := by decide

theorem witness_AttemptsEndAsReported : (sendingOf (queued .isolated 0)).started = true ∧
    (sendingOf (queued .isolated 0)).sendingFrame = some (queued .isolated 0) ∧ (queued .isolated 0).withdrawAsked = false ∧
    (sendingOf (queued .isolated 0)).lnc.pendingStatus = none ∧ (queued .isolated 0).failed < 2 ∧
    2 ≤ ({ queued .isolated 0 with failed := 2 } : QueuedFrame).failed ∧ (queued .status 0).kind = .status ∧
    (queued .probeOpen 0).kind = .probeOpen := by decide
theorem witness_AttemptsEndAsReported_claim :
    (sendingOf { queued .arcClaim 0 with failed := 2 }).sendingFrame = some { queued .arcClaim 0 with failed := 2 } ∧
    ({ sendingOf (queued .arcClaim 0) with sel := { Sel.atReset with arc := some { arc with claim := .queued } } } : State).sel.arc =
      some { arc with claim := .queued } ∧
    (sendingOf { queued .arcClaim 0 with withdrawAsked := true }).sendingFrame = some { queued .arcClaim 0 with withdrawAsked := true } ∧
    ({ sendingOf (queued .locate 0) with sel := { Sel.atReset with ground := some { ground with claim := .queued } } } : State).sel.ground =
      some { ground with claim := .queued } := by decide
theorem witness_AttemptsEndAsReported_pending :
    let s := withLnc { (sendingOf { queued .status 0 with flagNote := true }).lnc with pendingStatus := some (newFrame .status 0 [16]) }
    s.started = true ∧ s.sendingFrame = some { queued .status 0 with flagNote := true } ∧
    s.lnc.pendingStatus = some (newFrame .status 0 [16]) ∧ (queued .status 0).kind = .status ∧ (queued .status 0).withdrawAsked = false ∧
    (queued .status 0).failed < 2 ∧ (s.lnc.queue.filter fun g => g.entry != (queued .status 0).entry).length < 16 := by decide
theorem witness_AttemptsEndAsReported_probe :
    let s : State := { sendingOf (queued .probeClose 0) with prb := (injecting window).prb }
    s.sendingFrame = some (queued .probeClose 0) ∧ (queued .probeClose 0).kind = .probeClose ∧ s.prb.role = .injecting ∧
    s.prb.window = some window ∧ ({ sendingOf (queued .probeOpen 0) with prb := waiting.prb } : State).prb.role = .pending ∧
    (waiting.prb.byDue = false ∧ ({ waiting.prb with byDue := true } : Prb).byDue = true) ∧
    ({ window with status := some .ok } : Window).status = some .ok ∧ s.smu.settings.gfTrip ≤ window.riso := by decide
/-- Each kind that can be withdrawn with an attempt in progress and the withdrawal asked, its owner waiting for it or no longer. -/
theorem witness_AttemptsEndAsReported_withdrawn :
    let f := fun k => { queued k 0 with withdrawAsked := true }
    let s := fun k : Kind => { sendingOf (f k) with sel := { Sel.atReset with arc := some { arc with claim := .queued }, ground := some ground } }
    ((s .locate).started = true ∧ (s .locate).sendingFrame = some (f .locate) ∧ (s .locate).lnc.pendingStatus = none ∧
      (f .locate).withdrawAsked = true ∧ (f .locate).failed < 2 ∧ ({ f .locate with failed := 1 } : QueuedFrame).failed < 2) ∧
    (s .arcClaim).sel.arc = some { arc with claim := .queued } ∧ (s .locate).sel.ground = some ground ∧
    ({ sendingOf (f .probeOpen) with prb := waiting.prb } : State).prb.role = .pending ∧
    ({ sendingOf (f .probeClose) with prb := (injecting window).prb } : State).prb.role = .injecting ∧
    (injecting window).prb.window ≠ none ∧ (sendingOf (f .arcClaim)).sel.arc = none ∧ (sendingOf (f .locate)).sel.ground = none ∧
    (sendingOf (f .probeOpen)).prb.role ≠ .pending ∧ (sendingOf (f .probeClose)).prb.role ≠ .injecting := by decide
/-- A PROBE-OPEN that completes after its withdrawal was asked, on a line in UP and on one in STUCK. -/
theorem witness_AttemptsEndAsReported_too_late :
    let f := { queued .probeOpen 0 with withdrawAsked := true }
    let s := { sendingOf f with prb := waiting.prb }
    s.sendingFrame = some f ∧ f.withdrawAsked = true ∧ s.smu.address ≠ 0 ∧ s.lnc.line ≠ .stuck ∧
    (s.lnc.queue.filter fun g => g.entry != f.entry).length < 16 ∧
    ({ s with lnc := { s.lnc with line := .stuck } } : State).lnc.line = .stuck ∧
    (let t := after (.transmitCompleted ⟨0, s.lnc.tx⟩) s; t.prb.output = .released ∧ t.prb.role = .injecting) := by decide +kernel
/-- A frame read back as sent; a recessive bit 29, in character 3, read dominant; a bit 30 sent dominant and read recessive; a mark
bit 31 read dominant; a read back that has not come to a difference. -/
theorem witness_AttemptsEndAsReported_readBack :
    ReadAsSent (sendingOf (queued .isolated 0)).lnc.tx (sendingOf (queued .isolated 0)).lnc.tx ∧
    LosesArbitration contending.lnc.tx (List.replicate 30 .dominant) ∧
    ReadsBitError contending.lnc.tx (contending.lnc.tx.take 30 ++ [.recessive]) ∧
    ReadsBitError contending.lnc.tx (contending.lnc.tx.take 31 ++ [.dominant]) ∧
    ¬LosesArbitration contending.lnc.tx (List.replicate 29 .dominant) ∧ ¬ReadsBitError contending.lnc.tx (List.replicate 30 .dominant) ∧
    ¬ReadAsSent contending.lnc.tx (contending.lnc.tx.take 31) ∧ contending.sendingFrame = some (queued .status 0) ∧
    base.sendingFrame = none := by
  simp only [← State.verdict_loss, ← State.verdict_bitError, ← State.verdict_sent]
  decide +kernel

/-- 5.9: station 5 loses at the second data bit of character 1, a claim of rank 64 at the sixth data bit of character 2 against one of
rank 70, which completes. -/
theorem test_worked_case_of_contention :
    let levels := fun k r a => frameLevels (frameChars k r a [0, 0])
    readBack 0 (levels .status 0 5) ((levels .arcClaim 64 6).take 3) = .loss ∧
    readBack 0 (levels .arcClaim 64 6) ((levels .arcClaim 70 14).take 17) = .going ∧
    readBack 0 (levels .arcClaim 64 9) ((levels .arcClaim 70 14).take 18) = .loss ∧
    readBack 0 (levels .arcClaim 70 14) (levels .arcClaim 70 14) = .sent := by decide +kernel
/-- R107, R108: a recessive bit read dominant is a loss in data bits 1 to 8 of characters 1 to 3, a bit error in the start, mark and stop
bits and from character 4 on; a dominant bit read recessive is a bit error in them too. -/
theorem test_loss_only_in_header_data :
    ([1, 8, 12, 19, 23, 30].map fun i => readBack i [.recessive] [.dominant]) = List.replicate 6 .loss ∧
    ([0, 9, 10, 11, 20, 21, 31, 32, 33, 34, 41].map fun i => readBack i [.recessive] [.dominant]) = List.replicate 11 .bitError ∧
    ([1, 8, 30, 34].map fun i => readBack i [.dominant] [.recessive]) = List.replicate 4 .bitError := by decide

/-- A line state at the end of a health period, with some errors and a clean run. -/
def health (l : LineState) (errors run : Nat) : State :=
  withLnc { Lnc.atReset with line := l, errors := errors, cleanRun := run, periodEndAt := some 10000, level := 7 }

theorem witness_HealthPeriodsStepTheLevel : (health .up 8 0).started = true ∧ (health .up 8 0).lnc.periodEndAt = some 10000 ∧
    reached ((health .up 8 0).now.plus 0) 10000 = true ∧ (health .up 8 0).smu.settings.errLim ≤ (health .up 8 0).lnc.errors ∧
    (health .up 8 0).lnc.line = .up ∧ ¬(health .degraded 7 9).smu.settings.errLim ≤ (health .degraded 7 9).lnc.errors ∧
    ((health .degraded 0 9).lnc.errors = 0 ∧ (health .degraded 0 9).lnc.suspended = false) ∧ 9 ≤ (health .degraded 0 9).lnc.cleanRun ∧
    (health .degraded 0 8).lnc.cleanRun < 9 ∧ ¬((health .degraded 7 9).lnc.errors = 0 ∧ (health .degraded 7 9).lnc.suspended = false) ∧
    (health .stuck 8 0).lnc.line = .stuck := by decide

/-- A line last heard 10 s ago, with peer 7 last heard then. -/
def silent (l : LineState) : State := { withLnc { Lnc.atReset with line := l, lastGood := some 0 } with
  pvw := { Pvw.atReset with peers := Pvw.atReset.peers.set 6 { presence := .present, lastHeard := some 0 } } }

theorem witness_SilentAndStuckLines : (silent .up).started = true ∧ (silent .up).lnc.lastGood = some 0 ∧ (silent .up).lnc.line = .up ∧
    reached ((silent .up).now.plus 0) ((0 : Time).plus ((silent .up).smu.settings.silenceLim * 1000)) = true ∧
    ((silent .down).lnc.line ≠ .up ∧ (silent .down).lnc.line ≠ .degraded) ∧
    (silent .up).pvw.peers[(6 : PeerNo)] = { presence := .present, lastHeard := some 0 } ∧ (silent .up).prb.role = .none ∧
    (injecting window).prb.role = .injecting ∧ (injecting window).prb.window = some window ∧ window.phase ≠ some .closing ∧
    1500 ≤ 1500 ∧ 1499 < 1500 := by decide
/-- R116: 1500 ms of dominant line make it STUCK, 1499 ms do not. -/
theorem test_stuck_at_1500 : (after (.stuckLine ⟨0, 1500⟩) base).lnc.line = .stuck ∧ (after (.stuckLine ⟨0, 1499⟩) base).lnc.line = .up ∧
    (after (.stuckLine ⟨0, 1499⟩) base).lnc.dominantRun = 1499 := by decide
theorem witness_SilentAndStuckLines_probe : waiting.prb.role = .pending ∧ waiting.queuedOf .probeOpen = some (queued .probeOpen 0) ∧
    waiting.lnc.sending ≠ some (queued .probeOpen 0).entry ∧
    ({ waiting with lnc := { waiting.lnc with sending := some 0 } } : State).lnc.sending = some (queued .probeOpen 0).entry ∧
    (let s : State := { injecting { window with phase := some .closing } with lnc := { Lnc.atReset with queue := [queued .probeClose 3] } };
      s.prb.role = .injecting ∧ s.prb.window = some { window with phase := some .closing } ∧
      s.queuedOf .probeClose = some (queued .probeClose 3) ∧ s.lnc.sending ≠ some (queued .probeClose 3).entry ∧
      ({ s.lnc with sending := some 3 } : Lnc).sending = some (queued .probeClose 3).entry) := by decide

/-- A queue with a claim and an ISOLATED, for an incident whose claim is queued. -/
def claiming : State := { withLnc { twoFrames with queue := [queued .arcClaim 0, queued .isolated 1] } with
  sel := { Sel.atReset with arc := some { arc with claim := .queued } } }

theorem witness_BreaksFlushTheQueue : claiming.started = true ∧ claiming.lnc.breakEndAt = none ∧ claiming.lnc.ownRun = false ∧ 200 ≤ 200 ∧
    1499 < 1500 ∧ 199 < 200 ∧ 1500 ≤ 1500 ∧ claiming.prb.role = .none ∧ claiming.sel.arc = some { arc with claim := .queued } ∧ claiming.queuedOf .arcClaim ≠ none ∧
    claiming.queuedOf .locate = none ∧ (withLnc { Lnc.atReset with queue := [queued .locate 0] }).queuedOf .locate ≠ none ∧
    (withLnc { twoFrames with ownRun := true }).lnc.ownRun = true := by decide

/-- The own break at its end, with what the queue holds. -/
def breaking (q : List QueuedFrame) : State := withLnc { Lnc.atReset with queue := q, nextEntry := 3, breakEndAt := some 10000, ownRun := true }

theorem witness_BreaksFlushTheQueue_own : expired ((breaking []).now.plus 0) (breaking []).lnc.breakEndAt = true ∧
    (breaking []).smu.address ≠ 0 ∧
    ((breaking []).lnc.queue.filter fun f => decide (f.kind = .arrayStop ∨ f.kind = .arrayResume ∨ f.kind = .isolated)).length < 16 ∧
    (∃ f ∈ (breaking [queued .arrayStop 2]).lnc.queue.filter
      (fun f => decide (f.kind = .arrayStop ∨ f.kind = .arrayResume ∨ f.kind = .isolated)), f.kind = .arrayStop) := by decide
theorem witness_BreaksFlushTheQueue_probe : (∃ g ∈ waiting.lnc.queue, g.kind = .probeOpen) ∧ waiting.prb.role = .pending ∧
    (waiting.prb.byDue = false ∧ ({ waiting.prb with byDue := true } : Prb).byDue = true) ∧
    (breaking [queued .probeClose 1]).lnc.queue = [queued .probeClose 1] ∧ (injecting window).prb.role = .injecting ∧
    (¬∃ g ∈ (injecting window).lnc.queue, g.kind = .probeClose) ∧
    (withGround { ground with claim := .queued }).sel.ground = some { ground with claim := .queued } ∧
    (breaking [queued .locate 1]).lnc.queue = [queued .locate 1] := by decide

/-- A STATUS point at 10000, with what the queue holds. -/
def pointed (q : List QueuedFrame) (e : Option Nat) : State := { withLnc { Lnc.atReset with queue := q, sending := e, nextEntry := 1 } with
  rpt := { Rpt.atReset with statusAt := some 10000 } }

theorem witness_StatusPointsQueueStatus : (pointed [] none).started = true ∧ (pointed [] none).rpt.statusAt = some 10000 ∧
    reached ((pointed [] none).now.plus 0) 10000 = true ∧ (pointed [] none).smu.address ≠ 0 ∧ (pointed [] none).queuedOf .status = none ∧
    (pointed [] none).lnc.queue.length < 16 ∧ (pointed [queued .status 0] none).queuedOf .status = some (queued .status 0) ∧
    (pointed [queued .status 0] none).lnc.sending ≠ some (queued .status 0).entry ∧
    (pointed [queued .status 0] (some 0)).lnc.sending = some (queued .status 0).entry := by decide
theorem witness_StatusPointsQueueStatus_full :
    let q := queued .answer 3 :: (List.range 15).map (queued .isolated)
    16 ≤ q.length ∧ (pointed q none).queuedOf .status = none ∧ (queued .answer 3).kind = .answer ∧
    (pointed q none).lnc.sending ≠ some (queued .answer 3).entry ∧ 16 ≤ ((List.range 16).map (queued .isolated)).length ∧
    (∀ g ∈ (List.range 16).map (queued .isolated), g.kind ≠ .answer) := by decide
/-- An OPEN string by each leading hold, and a CLOSED one with a SUSPECT mark or a SENSOR_FAULT. -/
theorem witness_StatusPointsQueueStatus_codes :
    ((withString 3 (heldBy .unknown)).string 3).holds.fault = some ⟨.unknown, HoldDetail.none⟩ ∧
    ((withString 3 { heldBy .arc with holds := { HoldSet.empty with stop := some .tied, lockout := true } }).string 3).holds.fault = none ∧
    ((withString 3 { heldBy .arc with holds := { HoldSet.empty with lockout := true } }).string 3).holds.stop = none ∧
    ((withString 3 { heldBy .arc with holds := { HoldSet.empty with service := true } }).string 3).holds.lockout = false ∧
    ((withString 3 closed).string 3).state = .closed ∧ ({ Sel.atReset with suspect := Sel.atReset.suspect.set 3 true } : Sel).suspect[(3 : StringNo)] = true ∧
    ({ SenseString.atReset with sensorFault := true } : SenseString).sensorFault = true := by decide
theorem witness_ServiceActsOnMatchingStation : Nat.land base.smu.address (31 : Byte).toNat = Nat.land (5 : Byte).toNat (31 : Byte).toNat ∧
    Nat.land base.smu.address (31 : Byte).toNat ≠ Nat.land (4 : Byte).toNat (31 : Byte).toNat ∧
    (256 * (0x08 : Byte).toNat + (0x08 : Byte).toNat).testBit 3 = true ∧ (256 * (0x08 : Byte).toNat + (0x08 : Byte).toNat).testBit 4 = false ∧
    ((withString 3 (heldBy .ground)).string 3).state = .opened ∧
    ((withString 3 (heldBy .ground)).string 3).holds = { HoldSet.empty with fault := some ⟨.ground, HoldDetail.none⟩ } ∧
    ((withString 3 closed).string 3).state = .closed ∧ ((withString 3 closed).string 3).holds.service = false ∧
    ((withString 3 (heldBy .arc)).string 3).holds.fault.any (fun g => g.cause == .arc || g.cause == .unknown) = true ∧
    ((withString 3 { heldBy .ground with state := .stuckOpen }).string 3).state = .stuckOpen ∧
    ({ (heldBy .ground).holds with lockout := true } : HoldSet).lockout = true ∧
    base.lnc.queue.length < 16 ∧ 1 ≤ (12 : Byte).toNat ∧ (12 : Byte).toNat ≤ base.smu.strings := by decide
theorem witness_ServiceActsOnMatchingStation_probe : (listen 0).smu.phase = .listening ∧ base.smu.phase = .running ∧
    ¬(base.smu.address = 0 ∨ (base.lnc.line ≠ .up ∧ base.lnc.line ≠ .degraded)) ∧
    ((silent .down).lnc.line ≠ .up ∧ (silent .down).lnc.line ≠ .degraded) ∧ (withArc arc).sel.arc ≠ none ∧ base.sel.arc = none ∧
    (base.prb.role = .none ∧ base.prb.lastEnd = none ∧ base.smu.supply ≠ .low ∧ base.pvw.stopSet = [] ∧
      base.rsl.lockKey.accepted = false) ∧ waiting.prb.role ≠ .none ∧ (29999 : Time).since 0 < 30000 ∧ base.queuedOf .probeOpen = none ∧
    base.lnc.queue.length + 1 < 16 := by decide
/-- A QUERY for string 12, not fitted in a box of eleven and fitted in one of twelve, with an active isolation record or none. -/
theorem witness_ServiceActsOnMatchingStation_query : (12 : Byte).toNat = (11 : StringNo).val + 1 ∧ sensing.smu.strings ≤ (11 : StringNo).val ∧
    (11 : StringNo).val < base.smu.strings ∧ sensing.smu.address ≠ 0 ∧ sensing.lnc.queue.length < 16 ∧
    (base.string 11).iso.active = false := by decide

/-! ### Witnesses: string switching -/

theorem witness_HoldsFollowStringState : ((withString 3 closed).string 3).state = .closed ∧ ((withString 3 (closing true)).string 3).state = .closing ∧
    ((withString 3 (closing true)).string 3).request = some ⟨.toClose, none, HoldDetail.none, 0, true⟩ ∧
    ((withString 3 (closing false)).string 3).request = some ⟨.toClose, none, HoldDetail.none, 0, false⟩ ∧
    ((withString 3 (heldBy .arc)).string 3).state = .opened ∧ (base.string 3).state = .disabled ∧
    ((withString 3 { closed with state := .opening }).string 3).state = .opening := by decide

/-- R153, R184: a STOP added to a string OPEN under LOCKOUT asks for STOP, whose write begins; a SERVICE hold goes before STOP, an UNKNOWN
one before both. -/
theorem test_hold_asks_memo :
    let s := withString 3 { closed with state := .opened, holds := { HoldSet.empty with lockout := true } }
    (s.addHold 3 .stop).smu.writer = some ⟨3, .stop, 0, true, 10000⟩ ∧ ((s.addHold 3 .stop).string 3).memo = .stop ∧
    (s.addHold 3 .lockout).smu = s.smu ∧ ({ HoldSet.empty with service := true, stop := some .tied } : HoldSet).wanted = .service ∧
    ({ (heldBy .unknown).holds with service := true } : HoldSet).wanted = .none := by decide

/-- A box whose engine is idle, with some OPEN requests waiting. -/
def idling (q : List StringNo) (ready : Bool) : State := { base with swc := { Swc.atReset with openQ := q, ready := ready, rechargeAt := some 10000 } }

theorem witness_PulsesDriveAndFail : (idling [2] false).started = true ∧ (idling [2] false).swc.engine = .idle ∧ (idling [2] false).smu.supply = .run ∧
    (idling [2] false).swc.openQ = [2] ∧ ((idling [] false).swc.openQ = [] ∧ (idling [] false).swc.closeQ = []) ∧
    (idling [] false).swc.ready = false ∧ expired ((idling [] false).now.plus 0) (idling [] false).swc.rechargeAt = true := by decide
theorem witness_PulsesDriveAndFail_pulse : pulsing.started = true ∧ pulsing.swc.engine = .pulsing 2 .toOpen ∧
    expired (pulsing.now.plus 20) pulsing.swc.pulseEndAt = true ∧ pulsing.swc.contact[(2 : StringNo)] = (Direction.toOpen == .toOpen) ∧
    (pulsing.string 2).request = some ⟨.toOpen, some (.fault .arc), HoldDetail.none, 0, true⟩ ∧
    (pulsing.string 2).holds.fault.isSome = true := by decide

theorem witness_PulsesDriveAndFail_close_waits :
    let s : State := { idling [] false with swc := { (idling [] false).swc with closeQ := [4] } }
    s.started = true ∧ s.swc.engine = .idle ∧ s.smu.supply = .run ∧ s.swc.openQ = [] ∧ s.swc.closeQ = 4 :: [] := by decide

/-- A CLOSE pulse of string 3 that ends at 10020, its request failed so many times, under some holds. -/
def closingPulse (n : Nat) (h : HoldSet) (shows : Bool) : State := { base with
  swc := { Swc.atReset with
    str := Swc.atReset.str.set 2 { StringRecord.atReset with state := .closing, holds := h, request := some ⟨.toClose, none, HoldDetail.none, n, true⟩ }
    contact := Swc.atReset.contact.set 2 shows
    engine := .pulsing 2 .toClose, coil := some (2, .toClose), pulseEndAt := some 10020 } }

theorem witness_PulsesDriveAndFail_close :
    let s := closingPulse 1 HoldSet.empty true
    s.swc.engine = .pulsing 2 .toClose ∧ expired (s.now.plus 20) s.swc.pulseEndAt = true ∧
    s.swc.contact[(2 : StringNo)] = (Direction.toClose == .toClose) ∧ (s.string 2).request ≠ none ∧ (s.string 2).holds.isEmpty = true ∧
    (s.string 2).request = some ⟨.toClose, none, HoldDetail.none, 1, true⟩ ∧ 1 ≠ 0 ∧
    ((closingPulse 0 (heldBy .arc).holds false).string 2).holds.isEmpty = false := by decide
/-- At the pulse end with the feedback already there, an OPEN and a CLOSE are confirmed. -/
theorem test_confirmed_at_the_pulse_end :
    ((after (.pulseEnd 20 .normal) (closingPulse 0 HoldSet.empty true)).string 2).state = .closed ∧
    ((after (.pulseEnd 20 .normal) { pulsing with swc := { pulsing.swc with contact := Vector.replicate 12 false } }).string 2).state = .opened := by
  decide
/-- A CLOSE that fails under a hold leaves the string OPEN, one that fails a second time without a hold STUCK-OPEN. -/
theorem test_failed_closes :
    ((after (.pulseEnd 20 .none) (closingPulse 0 (heldBy .arc).holds false)).string 2).state = .opened ∧
    ((after (.coilOver 5) (closingPulse 1 HoldSet.empty false)).string 2).state = .stuckOpen := by decide

/-- The engine confirming a request of string 3, its confirmation due at 10000. -/
def confirming (r : StringRecord) (d : Direction) (q : Request) : State := { base with
  swc := { Swc.atReset with
    str := Swc.atReset.str.set 2 { r with request := some q }
    engine := .confirming 2 d, confirmAt := some 10000 } }

/-- A request held by the engine. -/
def held (d : Direction) (c : Option OpenCause) (n : Nat) : Request := ⟨d, c, HoldDetail.none, n, true⟩

theorem witness_ContactsConfirmAttempts_open :
    let s := confirming { heldBy .reverse with state := .opening } .toOpen (held .toOpen (some (.fault .reverse)) 0)
    s.started = true ∧ s.swc.engine = .confirming 2 .toOpen ∧ (s.string 2).request = some (held .toOpen (some (.fault .reverse)) 0) ∧
    (s.string 2).holds.fault = some ⟨.reverse, HoldDetail.none⟩ ∧ s.prb.role = .none ∧ s.smu.address ≠ 0 ∧ s.lnc.queue.length < 16 ∧
    s.rsl.str[(2 : StringNo)].reclose < s.smu.settings.recloseMax ∧ s.swc.ready = false ∧ expired (s.now.plus 0) s.swc.confirmAt = true := by decide
theorem witness_ContactsConfirmAttempts_queue : QueueSound base.lnc :=
  ⟨by decide, by decide, by decide, by decide, by rintro k (rfl | rfl | rfl | rfl) <;> decide, fun p h => (nomatch h), by decide⟩
theorem witness_ContactsConfirmAttempts_close :
    let s := confirming { closed with state := .closing } .toClose (held .toClose none 0)
    s.swc.engine = .confirming 2 .toClose ∧ (s.string 2).request ≠ none ∧ (s.string 2).holds.isEmpty = true ∧ s.swc.openQ = [] ∧
    s.swc.closeQ = [] ∧ expired (s.now.plus 0) s.swc.confirmAt = true ∧ s.swc.ready = false ∧ (held .toClose none 0).failed = 0 ∧
    (held .toClose none 1).failed ≠ 0 := by decide
theorem witness_ContactsConfirmAttempts_held :
    let s := confirming { heldBy .arc with state := .closing } .toClose (held .toClose none 0)
    (s.string 2).holds.isEmpty = false ∧ (∀ d, base.swc.engine ≠ .confirming 2 d) := ⟨by decide, fun d h => nomatch h⟩
theorem witness_ContactsConfirmAttempts_causes :
    let s := confirming { heldBy .ground with state := .opening } .toOpen (held .toOpen (some (.fault .ground)) 1)
    (s.string 2).request = some (held .toOpen (some (.fault .ground)) 1) ∧ s.prb.role ≠ .injecting ∧
    (held .toOpen (some .service) 0).cause = some .service ∧ (held .toOpen (some .stop) 0).cause = some .stop ∧
    (held .toOpen (some .lockout) 0).cause = some .lockout ∧ (held .toOpen (some (.fault .unknown)) 0).cause = some (.fault .unknown) ∧
    (s.string 2).holds.fault = some ⟨.ground, HoldDetail.none⟩ ∧ OpenCause.fault .ground = .fault (⟨.ground, HoldDetail.none⟩ : FaultHold).cause ∧
    (held .toOpen (some (.fault .ground)) 1).failed ≠ 0 ∧ s.sel.arc = none ∧ (listening heard).prb.role = .listening ∧
    (true : Bool) ≠ (Direction.toOpen == .toClose) := by decide
theorem witness_ContactsConfirmAttempts_released :
    let s := confirming { closed with state := .opening } .toOpen (held .toOpen (some (.fault .arc)) 0)
    s.swc.engine = .confirming 2 .toOpen ∧ (s.string 2).holds.isEmpty = true ∧ (s.string 2).holds.fault = none := by decide
theorem witness_ContactsConfirmAttempts_injecting :
    let s : State := { confirming { heldBy .arc with state := .opening } .toOpen (held .toOpen (some (.fault .arc)) 0) with
      prb := (injecting window).prb }
    s.swc.engine = .confirming 2 .toOpen ∧ (s.string 2).request = some (held .toOpen (some (.fault .arc)) 0) ∧ s.prb.role = .injecting ∧
    s.prb.window = some window ∧ window.phase ≠ some .closing ∧ s.smu.address ≠ 0 ∧ s.lnc.queue.length < 15 ∧
    (let w := { window with phase := some .closing, status := some .fault }; w.phase = some .closing ∧ w.status ≠ none) := by decide

/-! ### Witnesses: release and array stop -/

/-- A pushbutton whose test ends at 10050. -/
def button (b : ButtonState) (p : Bool) : State := withRsl { Rsl.atReset with button := b, buttonIn := p, buttonAt := some 10050 }

theorem witness_PressesReleaseHolds : (button .waitOpen false).rsl.buttonIn = false ∧ (button .waitOpen true).rsl.buttonIn ≠ false ∧
    State.reset.started = false ∧ State.reset.rsl.buttonIn ≠ true ∧ (button .released false).started = true ∧
    (button .released false).rsl.button = .released ∧ (button .pressing true).rsl.button = .pressing ∧
    (button .pressed true).rsl.button = .pressed ∧ expired ((button .pressing true).now.plus 50) (button .pressing true).rsl.buttonAt = true := by
  decide
theorem witness_PressesReleaseHolds_strings : ((withString 3 (heldBy .arc)).string 3).state = .opened ∧
    ((withString 3 (heldBy .arc)).string 3).holds.stop = none ∧ ((withString 3 (heldBy .arc)).string 3).holds.lockout = false ∧
    ((withString 3 (heldBy .arc)).string 3).holds.fault ≠ none ∧
    ((withString 3 { heldBy .arc with state := .stuckClosed }).string 3).state = .stuckClosed ∧
    ((withString 3 { heldBy .arc with state := .stuckOpen }).string 3).state = .stuckOpen := by decide

/-- Eight strings fitted, one in each state, the CLOSE of the third waiting and that of the fourth held by the engine. -/
def mixed (s : State) : State := { s with
  smu := { s.smu with strings := 8 }
  swc := { s.swc with closeQ := [2], str := #v[closed, { closed with state := .opening }, closing false, closing true, heldBy .arc,
    { heldBy .arc with state := .stuckClosed }, { heldBy .arc with state := .stuckOpen }, StringRecord.atReset,
    StringRecord.atReset, StringRecord.atReset, StringRecord.atReset, StringRecord.atReset] } }

/-- Each clause of what every fitted string does with a STOP or LOCKOUT hold. -/
theorem witness_HoldTakenByAll :
    let s := mixed base
    ((0 : StringNo).val < s.smu.strings ∧ (s.string 0).state = .closed) ∧ (s.string 1).state = .opening ∧
    (CloseWaits (s.string 2) ∧ 2 ∉ s.swc.openQ) ∧ ((s.string 3).state = .closing ∧ ¬CloseWaits (s.string 3)) ∧
    (s.string 4).state = .opened ∧ (s.string 5).state = .stuckClosed ∧ ((6 : StringNo).val < s.smu.strings ∧ (s.string 6).state = .stuckOpen) ∧
    ((7 : StringNo).val < s.smu.strings ∧ (s.string 7).state = .disabled) ∧ s.smu.strings ≤ (8 : StringNo).val := by
  simp only [StringRecord.closeWaits_iff]
  decide

/-- Both keys with their test ending at 10050. -/
def keys (input accepted : Bool) : State :=
  withRsl { Rsl.atReset with stopKey := ⟨input, accepted, some 10050⟩, lockKey := ⟨input, accepted, some 10050⟩ }

theorem witness_KeysStopAndLockOut : (keys true false).started = true ∧ (keys true false).rsl.lockKey.input ≠ false ∧
    (keys true false).rsl.stopKey.input ≠ false ∧ expired ((keys true false).now.plus 50) (keys true false).rsl.stopKey.testAt = true ∧
    (keys true false).rsl.stopKey.input = true ∧ (keys false true).rsl.stopKey.input = false ∧ (keys true false).rsl.lockKey.input = true ∧
    (keys false true).rsl.lockKey.input = false ∧ expired ((keys true false).now.plus 50) (keys true false).rsl.lockKey.testAt = true ∧
    (keys true false).smu.address ≠ 0 ∧ (keys true false).lnc.queue.length < 16 ∧ ((withString 3 closed).string 3).state = .closed ∧
    ({ heldBy .arc with holds := { HoldSet.empty with lockout := true } } : StringRecord).holds = { HoldSet.empty with lockout := true } := by
  decide
theorem witness_KeysStopAndLockOut_last : (∀ a ∈ ([5] : List Nat), a = (keys false true).smu.address) ∧
    (∃ a ∈ ([5, 9] : List Nat), a ≠ (keys false true).smu.address) ∧ (keys false true).smu.address ∉ ([9] : List Nat) ∧
    ((withString 3 { heldBy .arc with holds := { HoldSet.empty with stop := some .tied } }).string 3).state = .opened ∧
    ((withString 3 { heldBy .arc with holds := { HoldSet.empty with stop := some .tied } }).string 3).holds.stop = some .tied ∧
    (keys true false).lnc.queue = [] ∧ (keys true false).prb.role = .none := by decide

/-- R140 for every string state, at a LOCKOUT closing (R173). -/
theorem test_lockout_in_every_string_state :
    let t := after (.keyAcceptExpiry 50 .lockout) (mixed (keys true false))
    ((t.fittedStrings).map fun k => (t.string k).state) =
      [.opening, .opening, .opened, .closing, .opened, .stuckClosed, .stuckOpen, .disabled] ∧
    ((t.fittedStrings).map fun k => (t.string k).holds.lockout) = [true, true, true, true, true, true, true, false] := by decide +kernel

/-- String 4 with both its timers, and the stop repeat, at 10000. -/
def timed : State := { withString 3 (heldBy .reverse) with
  rsl := { Rsl.atReset with
    str := Rsl.atReset.str.set 3 ⟨2, some 10000, some 10000⟩, stopKey := ⟨true, true, none⟩, repeatAt := some 10000 } }

theorem witness_RepeatAndRecloseTimers : timed.started = true ∧ timed.rsl.stopKey.accepted = true ∧
    expired (timed.now.plus 0) timed.rsl.repeatAt = true ∧ timed.smu.address ≠ 0 ∧
    expired (timed.now.plus 0) timed.rsl.str[(3 : StringNo)].recloseAt = true ∧
    (timed.string 3).holds.fault = some ⟨.reverse, HoldDetail.none⟩ ∧ (timed.string 3).state = .opened ∧
    expired (timed.now.plus 0) timed.rsl.str[(3 : StringNo)].closedAt = true := by decide

end Sys2Proof.Tests
end

/-! PROOFS. The box median is the lower median of the eligible scores (R14), and the evidence is the score above it (R15). -/

namespace Sys2Proof.Machine

/-! ### Sorting the scores (R14) -/

/-- The model's insertion is the library's ordered insertion, so the library's facts on sorting serve for the scores. -/
theorem insertScore_eq_orderedInsert (a : Nat) (xs : List Nat) : insertScore a xs = xs.orderedInsert (· ≤ ·) a := by
  induction xs with
  | nil => rfl
  | cons b rest ih => simp only [insertScore, List.orderedInsert_cons, ih]

theorem sortScores_eq_insertionSort (xs : List Nat) : sortScores xs = xs.reverse.insertionSort (· ≤ ·) := by
  simp only [sortScores, insertScore_eq_orderedInsert, List.insertionSort, List.foldr_reverse]

theorem sortScores_perm (xs : List Nat) : (sortScores xs).Perm xs := by
  rw [sortScores_eq_insertionSort]
  exact (List.perm_insertionSort _ _).trans (List.reverse_perm xs)

theorem sortScores_pairwise (xs : List Nat) : (sortScores xs).Pairwise (· ≤ ·) := by
  rw [sortScores_eq_insertionSort]
  exact List.pairwise_insertionSort _ _

/-! ### Positions in an ascending list -/

/-- Only what stands before position `i` of an ascending list can lie below the element there. -/
theorem countP_lt_getElem_le {l : List Nat} (hl : l.Pairwise (· ≤ ·)) {i : Nat} (hi : i < l.length) :
    l.countP (fun a => decide (a < l[i])) ≤ i := by
  have hdrop : (l.drop i).countP (fun a => decide (a < l[i])) = 0 := by
    rw [List.countP_eq_zero]
    intro a ha
    obtain ⟨j, hj, rfl⟩ := List.mem_drop_iff_getElem.mp ha
    simpa using hl.rel_get_of_le (a := ⟨i, hi⟩) (b := ⟨i + j, by omega⟩) (by simp)
  calc l.countP (fun a => decide (a < l[i]))
      = (l.take i).countP (fun a => decide (a < l[i])) + (l.drop i).countP (fun a => decide (a < l[i])) := by
        rw [← List.countP_append, List.take_append_drop]
    _ ≤ (l.take i).length + 0 := Nat.add_le_add List.countP_le_length hdrop.le
    _ ≤ i := List.length_take_le i l

/-- Nothing up to position `i` of an ascending list lies above the element there. -/
theorem lt_countP_le_getElem {l : List Nat} (hl : l.Pairwise (· ≤ ·)) {i : Nat} (hi : i < l.length) :
    i < l.countP (fun a => decide (a ≤ l[i])) := by
  have htake : (l.take (i + 1)).countP (fun a => decide (a ≤ l[i])) = (l.take (i + 1)).length := by
    rw [List.countP_eq_length]
    intro a ha
    obtain ⟨j, hj, rfl⟩ := List.mem_take_iff_getElem.mp ha
    simpa using hl.rel_get_of_le (a := ⟨j, by omega⟩) (b := ⟨i, hi⟩) (by simp; omega)
  calc i < (l.take (i + 1)).length := by rw [List.length_take]; omega
    _ = (l.take (i + 1)).countP (fun a => decide (a ≤ l[i])) := htake.symm
    _ ≤ l.countP (fun a => decide (a ≤ l[i])) := (List.take_sublist _ _).countP_le

/-! ### The box median (R14) -/

theorem boxMedian_of_two_le {xs : List Nat} (h : 2 ≤ xs.length) :
    boxMedian xs = some ((sortScores xs).getD ((xs.length - 1) / 2) 0) := by
  match xs with
  | _ :: _ :: _ => rfl

theorem boxMedian_isLowerMedian {xs : List Nat} (h : 2 ≤ xs.length) :
    ∃ m ∈ xs, boxMedian xs = some m ∧
      (xs.filter fun a => decide (a < m)).length ≤ (xs.length - 1) / 2 ∧
      (xs.length - 1) / 2 < (xs.filter fun a => decide (a ≤ m)).length := by
  have hperm := sortScores_perm xs
  have hsorted := sortScores_pairwise xs
  have hi : (xs.length - 1) / 2 < (sortScores xs).length := by rw [hperm.length_eq]; omega
  refine ⟨(sortScores xs)[(xs.length - 1) / 2], hperm.mem_iff.mp (List.getElem_mem hi), ?_, ?_, ?_⟩
  · rw [boxMedian_of_two_le h, List.getD_eq_getElem _ _ hi]
  · rw [← List.countP_eq_length_filter, ← hperm.countP_eq]
    exact countP_lt_getElem_le hsorted hi
  · rw [← List.countP_eq_length_filter, ← hperm.countP_eq]
    exact lt_countP_le_getElem hsorted hi

theorem State.eligibleScores_eq (s : State) : s.eligibleScores =
    ((List.finRange 12).filter fun k => decide (k.val < s.smu.strings) && s.eve[k].eligible).map fun k => s.eve[k].score := by
  have hall : allStrings = List.finRange 12 := by decide
  simp only [State.eligibleScores, State.fittedStrings, State.fitted, hall, List.filter_filter, Bool.and_comm]

/-- Settles O26: the sorted scores are an ascending permutation of the scores, and the median is their middle element. -/
theorem boxMedianIsLowerMedian : Obligations.BoxMedianIsLowerMedian :=
  ⟨rfl, fun _ => rfl, fun _ h => boxMedian_isLowerMedian h, State.eligibleScores_eq⟩

/-! ### The evidence, the leaky counter and the run peak (R15, R17, R18) -/

@[simp] theorem evidenceOf_none (eligible : Bool) (score : Nat) : evidenceOf eligible score none = 0 := rfl

@[simp] theorem evidenceOf_eligible (score m : Nat) : evidenceOf true score (some m) = score - m := rfl

@[simp] theorem evidenceOf_not_eligible (score : Nat) (median : Option Nat) : evidenceOf false score median = 0 := by
  cases median <;> rfl

theorem evidenceOf_le_score (eligible : Bool) (score : Nat) (median : Option Nat) :
    evidenceOf eligible score median ≤ score := by
  cases median with
  | none => simp
  | some m => cases eligible <;> simp

@[simp] theorem leaky_true (n : Nat) : leaky n true = min 255 (n + 1) := rfl

@[simp] theorem leaky_false (n : Nat) : leaky n false = n - 1 := rfl

theorem runPeak_of_running {q' : Nat} (h : q' ≠ 0) (q peak evid : Nat) :
    runPeak q q' peak evid = if q = 0 then evid else max peak evid := if_neg h

section Conclude
variable (e : Evidence) (i : SetInput) (loaded : Bool) (median : Option Nat) (c : Settings)

theorem Evidence.conclude_evid : (e.conclude i loaded median c).evid = evidenceOf e.eligible e.score median := rfl

theorem Evidence.conclude_q : (e.conclude i loaded median c).q =
    leaky e.q (decide (c.arcOnset ≤ (e.conclude i loaded median c).evid)) := rfl

theorem Evidence.conclude_peak : (e.conclude i loaded median c).peak =
    runPeak e.q (e.conclude i loaded median c).q e.peak (e.conclude i loaded median c).evid := rfl

end Conclude

/-- Settles O27, from the equations of the evidence and of what takes it. -/
theorem evidenceIsScoreAboveMedian : Obligations.EvidenceIsScoreAboveMedian := by
  intro e i loaded median c t
  have hevid : t.evid = evidenceOf e.eligible e.score median := e.conclude_evid i loaded median c
  have hq : t.q = leaky e.q (decide (c.arcOnset ≤ t.evid)) := e.conclude_q i loaded median c
  have hpeak : t.peak = runPeak e.q t.q e.peak t.evid := e.conclude_peak i loaded median c
  refine ⟨?above, ?noMedian, ?notEligible, ?bound, ?rises, ?leaks, ?peak⟩
  case above =>
    intro m hm he
    rw [hevid, hm, he, evidenceOf_eligible]
    exact ⟨fun _ => rfl, Nat.sub_eq_zero_of_le⟩
  case noMedian =>
    intro hm
    rw [hevid, hm, evidenceOf_none]
  case notEligible =>
    intro he
    rw [hevid, he, evidenceOf_not_eligible]
  case bound =>
    intro hscore
    exact hevid.trans_le ((evidenceOf_le_score _ _ _).trans hscore)
  case rises =>
    intro honset
    rw [hq, decide_eq_true honset, leaky_true]
  case leaks =>
    intro hbelow
    rw [hq, decide_eq_false hbelow.not_ge, leaky_false]
  case peak =>
    intro hrun
    rw [hpeak, runPeak_of_running hrun]

end Sys2Proof.Machine

/-! PROOFS. Every command keeps the stores, the transmit queue, the Stop Set, the coil outputs and the probe sound. -/

namespace Sys2Proof.Machine

open Sys2Proof.Safety

/-! ### The transmit queue (R104, R105) -/

/-- The kinds of which a sound queue holds at most one frame. -/
def Kind.once (k : Kind) : Prop := k = .status ∨ k = .arcClaim ∨ k = .locate ∨ k = .probeOpen

theorem queueSound_congr {l l' : Lnc} (hq : l'.queue = l.queue) (hn : l'.nextEntry = l.nextEntry)
    (hp : l'.pendingStatus = l.pendingStatus) (hs : l'.sending = none ↔ l'.tx = []) (h : QueueSound l) : QueueSound l' := by
  obtain ⟨hlen, hord, hent, hne, honce, hpend, _⟩ := h
  exact ⟨hq ▸ hlen, hq ▸ hord, by rw [hq, hn]; exact hent, hq ▸ hne, by rw [hq]; exact honce, by rw [hp]; exact hpend, hs⟩

theorem queueSound_filter {l : Lnc} (p : QueuedFrame → Bool) (h : QueueSound l) : QueueSound { l with queue := l.queue.filter p } := by
  obtain ⟨hlen, hord, hent, hne, honce, hpend, hs⟩ := h
  refine ⟨(List.length_filter_le _ _).trans hlen, hord.filter _, fun f hf => hent f (List.mem_of_mem_filter hf), hne.filter _,
    fun k hk => ?_, hpend, hs⟩
  exact ((List.filter_sublist.filter _).length_le).trans (honce k hk)

theorem queueSound_map {l : Lnc} {g : QueuedFrame → QueuedFrame} (hk : ∀ f, (g f).kind = f.kind) (he : ∀ f, (g f).entry = f.entry)
    (h : QueueSound l) : QueueSound { l with queue := l.queue.map g } := by
  obtain ⟨hlen, hord, hent, hne, honce, hpend, hs⟩ := h
  refine ⟨by simpa using hlen, ?_, ?_, ?_, fun k hk' => ?_, hpend, hs⟩
  · simpa only [List.pairwise_map, hk, he] using hord
  · simpa [he] using hent
  · simpa only [List.pairwise_map, he] using hne
  · simpa [List.filter_map, Function.comp_def, hk] using honce k hk'

theorem filter_insertFrame (f : QueuedFrame) (q : List QueuedFrame) (p : QueuedFrame → Bool) :
    ((insertFrame f q).filter p).length = (q.filter p).length + if p f = true then 1 else 0 := by
  induction q with
  | nil => by_cases h : p f <;> simp [insertFrame, h]
  | cons g rest ih =>
    unfold insertFrame
    split
    · by_cases h : p f <;> simp [h]
    · by_cases h : p g <;> simp [h, ih]; omega

theorem pairwise_entry_insertFrame {f : QueuedFrame} {q : List QueuedFrame} (hq : q.Pairwise fun a b => a.entry ≠ b.entry)
    (hf : ∀ g ∈ q, g.entry < f.entry) : (insertFrame f q).Pairwise fun a b => a.entry ≠ b.entry := by
  induction q with
  | nil => simp [insertFrame]
  | cons g rest ih =>
    rw [List.pairwise_cons] at hq
    simp only [List.mem_cons, forall_eq_or_imp] at hf
    unfold insertFrame
    split
    · rw [List.pairwise_cons, List.pairwise_cons]
      refine ⟨fun a ha => ?_, hq⟩
      rcases List.mem_cons.mp ha with rfl | ha
      · exact hf.1.ne'
      · exact (hf.2 a ha).ne'
    · rw [List.pairwise_cons]
      refine ⟨fun a ha => ?_, ih hq.2 hf.2⟩
      rcases (mem_insertFrame _ _ _).mp ha with rfl | ha
      · exact hf.1.ne
      · exact hq.1 a ha

theorem queueSound_enter {l : Lnc} (f : QueuedFrame) (h : QueueSound l) (hroom : l.queue.length < 16)
    (hnone : f.kind.once → ∀ g ∈ l.queue, g.kind ≠ f.kind) :
    QueueSound { l with queue := insertFrame { f with entry := l.nextEntry } l.queue, nextEntry := l.nextEntry + 1 } := by
  obtain ⟨hlen, hord, hent, hne, honce, hpend, hs⟩ := h
  refine ⟨by rw [length_insertFrame]; omega, insertFrame_ordered _ _ hord hent, fun g hg => ?_,
    pairwise_entry_insertFrame hne hent, fun k hk => ?_, hpend, hs⟩
  · rcases (mem_insertFrame _ _ _).mp hg with rfl | hg
    · exact Nat.lt_succ_self _
    · exact (hent g hg).trans (Nat.lt_succ_self _)
  · rw [filter_insertFrame]
    by_cases hkf : f.kind = k
    · subst hkf
      have : l.queue.filter (fun g => g.kind == f.kind) = [] := by
        simpa [List.filter_eq_nil_iff] using hnone hk
      simp [this]
    · simpa [hkf] using honce k hk

theorem State.queuedOf_none {s : State} {k : Kind} : s.queuedOf k = none ↔ ∀ f ∈ s.lnc.queue, f.kind ≠ k := by
  simp [State.queuedOf, List.find?_eq_none]

/-- In a sound queue a frame of a kind held once is the only one of its kind, so none is left when it is taken out. -/
theorem none_left_of_once {l : Lnc} {f : QueuedFrame} (h : QueueSound l) (hf : f ∈ l.queue) (hk : f.kind.once) :
    ∀ g ∈ l.queue.filter (fun g => g.entry != f.entry), g.kind ≠ f.kind := by
  intro g hg hgk
  obtain ⟨-, -, -, -, honce, -, -⟩ := h
  obtain ⟨hg, hge⟩ := List.mem_filter.mp hg
  have hlen := honce f.kind hk
  have hmf : f ∈ l.queue.filter (fun x => x.kind == f.kind) := by simp [hf]
  have hmg : g ∈ l.queue.filter (fun x => x.kind == f.kind) := by simp [hg, hgk]
  obtain ⟨a, ha⟩ : ∃ a, l.queue.filter (fun x => x.kind == f.kind) = [a] := by
    rcases hl : l.queue.filter (fun x => x.kind == f.kind) with _ | ⟨a, _ | ⟨b, rest⟩⟩
    · simp [hl] at hmf
    · exact ⟨a, hl⟩
    · rw [hl] at hlen; simp at hlen
  rw [ha, List.mem_singleton] at hmf hmg
  simp [hmf, hmg] at hge

theorem State.makeRoomAndEnter_queueSound {s : State} (f : QueuedFrame) (h : QueueSound s.lnc)
    (hnone : f.kind.once → ∀ g ∈ s.lnc.queue, g.kind ≠ f.kind) : QueueSound (s.makeRoomAndEnter f).1.lnc := by
  rcases s.makeRoomAndEnter_cases f with heq | ⟨heq, hroom⟩ | ⟨old, hold, -, heq⟩
  · rwa [heq]
  · rw [heq]
    exact queueSound_enter f h hroom hnone
  · rw [heq]
    have hroom := length_removeEntry s old hold
    exact queueSound_enter f (l := (s.removeEntry old.entry).lnc) (queueSound_filter _ h) (by have := h.1; omega)
      fun hk g hg => hnone hk g (List.mem_of_mem_filter hg)

/-- Every kind held once is refused while one is queued, a STATUS but for its replacement. -/
theorem Kind.once_cases {k : Kind} (h : k.once) : k = .status ∨ k.single = true := by
  rcases h with rfl | rfl | rfl | rfl <;> simp [Kind.single]

theorem State.enqueue_queueSound {s : State} (f : QueuedFrame) (h : QueueSound s.lnc) : QueueSound (s.enqueue f).1.lnc := by
  unfold State.enqueue
  split
  · exact h
  · split
    next hst =>
      have hst : f.kind = .status := by simpa using hst
      split
      next old hq =>
        obtain ⟨hold, hk⟩ := State.queuedOf_mem hq
        split
        · obtain ⟨hlen, hord, hent, hne, honce, _, hs⟩ := h
          exact ⟨hlen, hord, hent, hne, honce, fun p hp => by cases hp; exact hst, hs⟩
        · have hroom := length_removeEntry s old hold
          refine queueSound_enter f (l := (s.removeEntry old.entry).lnc) (queueSound_filter _ h) (by have := h.1; omega) fun _ => ?_
          rw [hst, ← hk]
          exact none_left_of_once h hold (.inl hk)
      next hq =>
        refine State.makeRoomAndEnter_queueSound f h fun _ => ?_
        rw [hst]
        exact State.queuedOf_none.mp hq
    next hst =>
      split
      · exact h
      next hsingle =>
        refine State.makeRoomAndEnter_queueSound f h fun hk => ?_
        rcases Kind.once_cases hk with hk | hk
        · simp [hk] at hst
        · simp only [hk, Bool.true_and, Option.isSome_iff_ne_none, ne_eq, not_not] at hsingle
          exact State.queuedOf_none.mp hsingle

theorem State.withdraw_queueSound {s : State} (k : Kind) (h : QueueSound s.lnc) : QueueSound (s.withdraw k).1.lnc := by
  unfold State.withdraw
  split
  · exact h
  · split
    · refine queueSound_map (fun g => ?_) (fun g => ?_) h <;> split <;> rfl
    · exact queueSound_filter _ h

end Sys2Proof.Machine

namespace Sys2Proof.Machine

open Sys2Proof.Safety

/-! ### Soundness kept from one state to another -/

/-- From `s` to `t` the stores, the transmit queue, the Stop Set, the coil outputs and the probe stay sound. -/
structure KeepsSound (s t : State) : Prop where
  stores : StoresSound s → StoresSound t
  queue : QueueSound s.lnc → QueueSound t.lnc
  stopSet : StopSetSound s → StopSetSound t
  coil : CoilMatchesEngine s → CoilMatchesEngine t
  probe : ProbeSound s → ProbeSound t

@[simp] theorem KeepsSound.refl (s : State) : KeepsSound s s := ⟨id, id, id, id, id⟩

theorem KeepsSound.trans {s t u : State} (h : KeepsSound s t) (g : KeepsSound t u) : KeepsSound s u :=
  ⟨g.stores ∘ h.stores, g.queue ∘ h.queue, g.stopSet ∘ h.stopSet, g.coil ∘ h.coil, g.probe ∘ h.probe⟩

section Blocks
variable {s t : State}

theorem storesSound_congr (hm : t.smu.mem = s.smu.mem) (hl : t.sel.claimLog = s.sel.claimLog) (h : StoresSound s) : StoresSound t := by
  obtain ⟨hmem, hlog⟩ := h
  exact ⟨hm ▸ hmem, by rw [hl]; exact hlog⟩

theorem stopSetSound_congr (ha : t.smu.address = s.smu.address) (hs : t.pvw.stopSet = s.pvw.stopSet) (h : StopSetSound s) :
    StopSetSound t := by
  obtain ⟨haddr, hset⟩ := h
  exact ⟨ha ▸ haddr, by rw [hs]; exact hset⟩

theorem coilMatches_congr (he : t.swc.engine = s.swc.engine) (hc : t.swc.coil = s.swc.coil) (h : CoilMatchesEngine s) :
    CoilMatchesEngine t := by
  unfold CoilMatchesEngine
  rw [he, hc]
  exact h

theorem probeSound_congr (h : t.prb = s.prb) (hp : ProbeSound s) : ProbeSound t := by
  unfold ProbeSound
  rw [h]
  exact hp

/-- Only the SMU's memo writer, the frames of the LNC and the probe may move. -/
theorem KeepsSound.of_blocks (hm : t.smu.mem = s.smu.mem) (ha : t.smu.address = s.smu.address)
    (hl : t.sel.claimLog = s.sel.claimLog) (hs : t.pvw.stopSet = s.pvw.stopSet) (he : t.swc.engine = s.swc.engine)
    (hc : t.swc.coil = s.swc.coil) (hq : QueueSound s.lnc → QueueSound t.lnc) (hp : ProbeSound s → ProbeSound t) :
    KeepsSound s t :=
  ⟨storesSound_congr hm hl, hq, stopSetSound_congr ha hs, coilMatches_congr he hc, hp⟩

/-- An operation of the LNC alone, after what keeps soundness. -/
theorem KeepsSound.then_lnc {u : State} (h : KeepsSound s t) (hf : Frame [.lnc] t u) (hq : QueueSound s.lnc → QueueSound u.lnc) :
    KeepsSound s u := by
  have hsmu : u.smu = t.smu := hf.keeps .smu (by simp)
  have hsel : u.sel = t.sel := hf.keeps .sel (by simp)
  have hpvw : u.pvw = t.pvw := hf.keeps .pvw (by simp)
  have hswc : u.swc = t.swc := hf.keeps .swc (by simp)
  exact ⟨storesSound_congr (by rw [hsmu]) (by rw [hsel]) ∘ h.stores, hq,
    stopSetSound_congr (by rw [hsmu]) (by rw [hpvw]) ∘ h.stopSet, coilMatches_congr (by rw [hswc]) (by rw [hswc]) ∘ h.coil,
    probeSound_congr (hf.keeps .prb (by simp)) ∘ h.probe⟩

/-- An operation of the LNC alone. -/
theorem KeepsSound.of_lnc (h : Frame [.lnc] s t) (hq : QueueSound s.lnc → QueueSound t.lnc) : KeepsSound s t :=
  .then_lnc (.refl s) h hq

/-- An operation of the PRB alone. -/
theorem KeepsSound.of_prb (h : Frame [.prb] s t) (hp : ProbeSound s → ProbeSound t) : KeepsSound s t := by
  have hsmu : t.smu = s.smu := h.keeps .smu (by simp)
  have hsel : t.sel = s.sel := h.keeps .sel (by simp)
  have hpvw : t.pvw = s.pvw := h.keeps .pvw (by simp)
  have hswc : t.swc = s.swc := h.keeps .swc (by simp)
  have hlnc : t.lnc = s.lnc := h.keeps .lnc (by simp)
  exact .of_blocks (by rw [hsmu]) (by rw [hsmu]) (by rw [hsel]) (by rw [hpvw]) (by rw [hswc]) (by rw [hswc])
    (by rw [hlnc]; exact id) hp

/-- An operation on blocks that no soundness speaks of. -/
theorem KeepsSound.of_frame (h : Frame [.free, .ssu, .eve, .rsl, .rpt] s t) : KeepsSound s t := by
  have hsmu : t.smu = s.smu := h.keeps .smu (by simp)
  have hsel : t.sel = s.sel := h.keeps .sel (by simp)
  have hpvw : t.pvw = s.pvw := h.keeps .pvw (by simp)
  have hswc : t.swc = s.swc := h.keeps .swc (by simp)
  have hlnc : t.lnc = s.lnc := h.keeps .lnc (by simp)
  have hprb : t.prb = s.prb := h.keeps .prb (by simp)
  exact .of_blocks (by rw [hsmu]) (by rw [hsmu]) (by rw [hsel]) (by rw [hpvw]) (by rw [hswc]) (by rw [hswc])
    (by rw [hlnc]; exact id) (probeSound_congr hprb)

end Blocks

/-! ### Updates that no soundness speaks of -/

section Operations
variable {s t : State}

@[simp] theorem State.settle_sound (h : KeepsSound s t) : KeepsSound s t.settle :=
  h.trans (.of_blocks rfl rfl rfl rfl rfl rfl id id)

@[simp] theorem State.elapse_sound (dt : Nat) (h : KeepsSound s t) : KeepsSound s (t.elapse dt) :=
  h.trans (.of_blocks rfl rfl rfl rfl rfl rfl id id)

@[simp] theorem State.setString_sound (k : StringNo) (f : StringRecord → StringRecord) (h : KeepsSound s t) :
    KeepsSound s (t.setString k f) := h.trans (.of_blocks rfl rfl rfl rfl rfl rfl id id)

@[simp] theorem State.setRelease_sound (k : StringNo) (f : ReleaseString → ReleaseString) (h : KeepsSound s t) :
    KeepsSound s (t.setRelease k f) := h.trans (.of_blocks rfl rfl rfl rfl rfl rfl id id)

@[simp] theorem State.setEvidence_sound (k : StringNo) (f : Evidence → Evidence) (h : KeepsSound s t) :
    KeepsSound s (t.setEvidence k f) := h.trans (.of_blocks rfl rfl rfl rfl rfl rfl id id)

@[simp] theorem State.setSuspect_sound (k : StringNo) (b : Bool) (h : KeepsSound s t) :
    KeepsSound s (t.setSuspect k b) := h.trans (.of_blocks rfl rfl rfl rfl rfl rfl id id)

@[simp] theorem State.setIncident_sound (k : IncidentKind) (i : Option Incident) (h : KeepsSound s t) :
    KeepsSound s (t.setIncident k i) := by
  cases k <;> exact h.trans (.of_blocks rfl rfl rfl rfl rfl rfl id id)

@[simp] theorem State.setArc_sound (i : Option Incident) (h : KeepsSound s t) : KeepsSound s (t.setArc i) :=
  State.setIncident_sound .arc i h

@[simp] theorem State.setGround_sound (i : Option Incident) (h : KeepsSound s t) : KeepsSound s (t.setGround i) :=
  State.setIncident_sound .ground i h

@[simp] theorem sound_rsl (x : Rsl) (h : KeepsSound s t) : KeepsSound s { t with rsl := x } :=
  h.trans (.of_blocks rfl rfl rfl rfl rfl rfl id id)

@[simp] theorem sound_ssu (x : Ssu) (h : KeepsSound s t) : KeepsSound s { t with ssu := x } :=
  h.trans (.of_blocks rfl rfl rfl rfl rfl rfl id id)

@[simp] theorem sound_rpt (x : Rpt) (h : KeepsSound s t) : KeepsSound s { t with rpt := x } :=
  h.trans (.of_blocks rfl rfl rfl rfl rfl rfl id id)

@[simp] theorem sound_recent (x : Option (Nat × Time)) (h : KeepsSound s t) :
    KeepsSound s { t with sel := { t.sel with recent := x } } := h.trans (.of_blocks rfl rfl rfl rfl rfl rfl id id)

@[simp] theorem sound_concurrent (x : Bool) (h : KeepsSound s t) :
    KeepsSound s { t with sel := { t.sel with concurrent := x } } := h.trans (.of_blocks rfl rfl rfl rfl rfl rfl id id)

@[simp] theorem sound_openQ (q : List StringNo) (h : KeepsSound s t) :
    KeepsSound s { t with swc := { t.swc with openQ := q } } := h.trans (.of_blocks rfl rfl rfl rfl rfl rfl id id)

@[simp] theorem sound_closeQ (q : List StringNo) (h : KeepsSound s t) :
    KeepsSound s { t with swc := { t.swc with closeQ := q } } := h.trans (.of_blocks rfl rfl rfl rfl rfl rfl id id)

@[simp] theorem sound_contact (v : PerString Bool) (h : KeepsSound s t) :
    KeepsSound s { t with swc := { t.swc with contact := v } } := h.trans (.of_blocks rfl rfl rfl rfl rfl rfl id id)

theorem sound_forStrings {ks : List StringNo} {f : State → StringNo → State} (hf : ∀ u k, KeepsSound u (f u k))
    (h : KeepsSound s t) : KeepsSound s (forStrings ks f t) := by
  unfold forStrings
  induction ks generalizing t with
  | nil => exact h
  | cons k ks ih => exact ih (h.trans (hf t k))

/-! ### The memo writer (R184, R185) -/

theorem State.kickMemo_smu (s : State) :
    s.kickMemo.smu = { s.smu with memoQueue := s.kickMemo.smu.memoQueue, writer := s.kickMemo.smu.writer } := by
  unfold State.kickMemo
  split
  · split
    · split <;> rfl
    · split <;> rfl
  · rfl

/-- The memo writer moves its queue and its write, and no other block. -/
theorem KeepsSound.of_memo (hf : Frame [.smu] s t) (hm : t.smu.mem = s.smu.mem) (ha : t.smu.address = s.smu.address) :
    KeepsSound s t := by
  have hsel : t.sel = s.sel := hf.keeps .sel (by simp)
  have hpvw : t.pvw = s.pvw := hf.keeps .pvw (by simp)
  have hswc : t.swc = s.swc := hf.keeps .swc (by simp)
  have hlnc : t.lnc = s.lnc := hf.keeps .lnc (by simp)
  have hprb : t.prb = s.prb := hf.keeps .prb (by simp)
  exact .of_blocks hm ha (by rw [hsel]) (by rw [hpvw]) (by rw [hswc]) (by rw [hswc]) (by rw [hlnc]; exact id) (probeSound_congr hprb)

@[simp] theorem State.kickMemo_sound (h : KeepsSound s t) : KeepsSound s t.kickMemo := by
  have hs := t.kickMemo_smu
  exact h.trans (.of_memo t.kickMemo_frame (by rw [hs]) (by rw [hs]))

@[simp] theorem State.setSmu_sound (x : Smu) (hm : x.mem = t.smu.mem) (ha : x.address = t.smu.address) (h : KeepsSound s t) :
    KeepsSound s (t.setSmu x) := h.trans (.of_memo (t.setSmu_frame x) hm ha)

@[simp] theorem State.askMemo_sound (k : StringNo) (v : MemoValue) (h : KeepsSound s t) : KeepsSound s (t.askMemo k v) := by
  simp [State.askMemo, h]

@[simp] theorem State.memoFailed_sound (w : MemoWrite) (h : KeepsSound s t) : KeepsSound s (t.memoFailed w) := by
  unfold State.memoFailed
  repeat' split
  all_goals simp [h]

/-- A slot written keeps the memory canonical. -/
theorem sound_writeSlot (k : StringNo) (v x l : Byte) (n : Nat) (h : KeepsSound s t) :
    KeepsSound s { t with freeCount := n, smu := { t.smu with mem := Memory.writeSlot t.smu.mem k v x l } } :=
  h.trans ⟨fun ⟨hmem, hlog⟩ => ⟨Memory.writeSlot_wf k v x l hmem, hlog⟩, id, id, id, id⟩

@[simp] theorem State.memoDone_sound (v x l : Byte) (h : KeepsSound s t) : KeepsSound s (t.memoDone v x l) := by
  unfold State.memoDone
  split
  · exact h
  · split
    next w _ _ =>
      have hw := sound_writeSlot w.string v x l t.freeCount h
      split
      · exact State.kickMemo_sound (State.setSmu_sound _ rfl rfl hw)
      · exact State.memoFailed_sound w hw
    · exact h

@[simp] theorem State.memoTimeout_sound (h : KeepsSound s t) : KeepsSound s t.memoTimeout := by
  unfold State.memoTimeout
  split
  · exact h
  · split
    · exact State.memoFailed_sound _ (sound_writeSlot _ _ _ _ _ h)
    · exact h

/-! ### Queuing and withdrawing (R104, R105, R110) -/

@[simp] theorem State.enqueue_sound (f : QueuedFrame) (h : KeepsSound s t) : KeepsSound s (t.enqueue f).1 :=
  h.trans (.of_lnc (t.enqueue_frame f) (State.enqueue_queueSound f))

@[simp] theorem State.queueFrame_sound (f : QueuedFrame) (h : KeepsSound s t) : KeepsSound s (t.queueFrame f) := State.enqueue_sound f h

@[simp] theorem State.withdraw_sound (k : Kind) (h : KeepsSound s t) : KeepsSound s (t.withdraw k).1 :=
  h.trans (.of_lnc (t.withdraw_frame k) (State.withdraw_queueSound k))

/-- The LNC's other fields may change as they like. -/
theorem State.setLnc_sound {l : Lnc} (hq : l.queue = t.lnc.queue) (hn : l.nextEntry = t.lnc.nextEntry)
    (hp : l.pendingStatus = t.lnc.pendingStatus) (hs : (t.lnc.sending = none ↔ t.lnc.tx = []) → (l.sending = none ↔ l.tx = []))
    (h : KeepsSound s t) : KeepsSound s (t.setLnc l) :=
  h.trans (.of_lnc (t.setLnc_frame l) fun hl => queueSound_congr hq hn hp (hs hl.2.2.2.2.2.2) hl)

@[simp] theorem State.countError_sound (h : KeepsSound s t) : KeepsSound s t.countError := by
  unfold State.countError
  split
  · exact h
  · exact State.setLnc_sound rfl rfl rfl id h

@[simp] theorem State.removeEntry_sound (e : Nat) (h : KeepsSound s t) : KeepsSound s (t.removeEntry e) :=
  h.trans (.of_lnc (t.removeEntry_frame e) (queueSound_filter _))

/-! ### The SEL (chapter 2) -/

@[simp] theorem State.openClaiming_sound (i : Incident) (h : KeepsSound s t) : KeepsSound s (t.openClaiming i) := by
  unfold State.openClaiming
  split <;> simp [h]

@[simp] theorem State.withdrawClaim_sound (k : IncidentKind) (h : KeepsSound s t) : KeepsSound s (t.withdrawClaim k) := by
  unfold State.withdrawClaim
  repeat' split
  all_goals try simp [h]
  split <;> simp [h]

@[simp] theorem State.claimReport_sound (k : IncidentKind) (c : ClaimState) (h : KeepsSound s t) : KeepsSound s (t.claimReport k c) := by
  unfold State.claimReport
  repeat' split
  all_goals simp [h]

@[simp] theorem State.openRound_sound (i : Incident) (h : KeepsSound s t) : KeepsSound s (t.openRound i) := by
  unfold State.openRound
  split <;> simp [h]

@[simp] theorem State.closeIncident_sound (k : IncidentKind) (h : KeepsSound s t) : KeepsSound s (t.closeIncident k) := by
  simp [State.closeIncident, h]

@[simp] theorem State.closeIf_sound (k : IncidentKind) (p : Incident → Bool) (h : KeepsSound s t) : KeepsSound s (t.closeIf k p) := by
  unfold State.closeIf
  repeat' split
  all_goals simp [h]

@[simp] theorem State.selOpened_sound (k : StringNo) (h : KeepsSound s t) : KeepsSound s (t.selOpened k) := by
  simp [State.selOpened, h]

@[simp] theorem State.selStuck_sound (k : StringNo) (h : KeepsSound s t) : KeepsSound s (t.selStuck k) := by
  unfold State.selStuck
  refine State.closeIf_sound _ _ (State.closeIf_sound _ _ ?_)
  repeat' split
  all_goals simp [h]

@[simp] theorem State.selReturned_sound (k : StringNo) (h : KeepsSound s t) : KeepsSound s (t.selReturned k) := by
  simp [State.selReturned, h]

@[simp] theorem State.selSuperseded_sound (h : KeepsSound s t) : KeepsSound s t.selSuperseded := by
  simp [State.selSuperseded, h]

@[simp] theorem State.compareEntry_sound (k : IncidentKind) (e : ClaimEntry) (h : KeepsSound s t) :
    KeepsSound s (t.compareEntry k e) := by
  unfold State.compareEntry
  repeat' split
  all_goals simp [h]

@[simp] theorem State.setConcurrent_sound (h : KeepsSound s t) : KeepsSound s t.setConcurrent := by
  refine h.trans (.of_blocks rfl rfl rfl rfl rfl rfl (fun hq => ?_) id)
  obtain ⟨hlen, hord, hent, hne, honce, hpend, hs⟩ :=
    queueSound_map (g := fun f : QueuedFrame => { f with flagNote := false }) (fun _ => rfl) (fun _ => rfl) hq
  refine ⟨hlen, hord, hent, hne, honce, fun p hp => ?_, hs⟩
  obtain ⟨p', hp', rfl⟩ := Option.map_eq_some_iff.mp hp
  exact hpend p' hp'

/-- One entry per source and kind (R27). -/
def OnePerClaim (es : List ClaimEntry) : Prop := es.Pairwise fun a b => ¬(a.source = b.source ∧ a.kind = b.kind)

theorem onePerClaim_replace {es : List ClaimEntry} (e : ClaimEntry) (h : OnePerClaim es) : OnePerClaim (replaceClaim e es) := by
  have hsame : ∀ x, (if sameClaim x e then e else x).source = x.source ∧ (if sameClaim x e then e else x).kind = x.kind := by
    intro x
    split
    next hx =>
      obtain ⟨hs, hk⟩ := (sameClaim_iff x e).mp hx
      exact ⟨hs.symm, hk.symm⟩
    · exact ⟨rfl, rfl⟩
  simp only [OnePerClaim, replaceClaim, List.pairwise_map, hsame]
  exact h

theorem onePerClaim_append {es : List ClaimEntry} {e : ClaimEntry} (h : OnePerClaim es) (hn : ∀ x ∈ es, sameClaim x e = false) :
    OnePerClaim (es ++ [e]) := by
  unfold OnePerClaim
  rw [List.pairwise_append]
  refine ⟨h, List.pairwise_singleton _ _, fun x hx y hy hxy => ?_⟩
  rw [List.mem_singleton] at hy
  subst hy
  exact absurd ((sameClaim_iff x y).mpr hxy) (by simp [hn x hx])

theorem onePerClaim_logEntry {now : Time} {es : List ClaimEntry} (e : ClaimEntry) (h : OnePerClaim es) :
    OnePerClaim (logEntry now es e) := by
  unfold logEntry
  split
  · exact onePerClaim_replace e h
  next hnone =>
    have hnone : ∀ x ∈ es, sameClaim x e = false := by simpa using hnone
    split
    · exact onePerClaim_append h hnone
    · split
      · exact List.pairwise_singleton _ _
      · exact onePerClaim_append (h.filter _) fun x hx => hnone x (List.mem_of_mem_filter hx)

@[simp] theorem State.claimDelivered_sound (e : ClaimEntry) (h : KeepsSound s t) : KeepsSound s (t.claimDelivered e) := by
  have hlog : KeepsSound s { t with sel := { t.sel with claimLog := logEntry t.now t.sel.claimLog e } } :=
    h.trans ⟨fun ⟨hmem, hlen, hone⟩ => ⟨hmem, logEntry_length _ _ _ hlen, onePerClaim_logEntry e hone⟩, id, id, id, id⟩
  unfold State.claimDelivered
  repeat' split
  all_goals simp [hlog]

theorem State.keepSuspectOnly_sound (k : StringNo) (h : KeepsSound s t) : KeepsSound s (t.keepSuspectOnly k) := by
  refine sound_forStrings (fun u j => ?_) h
  split <;> simp

@[simp] theorem State.openGround_sound (r : WindowReport) (k : StringNo) (l q : Nat) (h : KeepsSound s t) :
    KeepsSound s (t.openGround r k l q) := by
  simp only [State.openGround]
  split <;> simp [h]

@[simp] theorem State.windowReport_sound (r : WindowReport) (h : KeepsSound s t) : KeepsSound s (t.windowReport r) := by
  unfold State.windowReport
  repeat' split
  all_goals simp [h, State.keepSuspectOnly_sound]

end Operations

end Sys2Proof.Machine

namespace Sys2Proof.Machine

open Sys2Proof.Safety

/-! ### The probe's window and output (chapters 3 and 4) -/

section Probe
variable {s t : State}

/-- The PRB's other fields may change as they like, and the alarm count may go to 0. -/
theorem State.setPrb_sound {p : Prb} (hr : p.role = t.prb.role) (hw : p.window.isSome = t.prb.window.isSome)
    (ho : p.output = t.prb.output) (ha : p.alarmCount = t.prb.alarmCount ∨ p.alarmCount = 0) (h : KeepsSound s t) :
    KeepsSound s (t.setPrb p) := by
  refine h.trans (.of_prb (t.setPrb_frame p) fun ⟨hwin, hout, hal⟩ => ⟨?_, ?_, fun hn => ?_⟩)
  · simpa only [State.setPrb, hw, hr] using hwin
  · simpa only [State.setPrb, ho, hr] using hout
  · rcases ha with ha | ha
    · exact ha.trans (hal (hr ▸ hn))
    · exact ha

@[simp] theorem State.discardWindow_sound (h : KeepsSound s t) : KeepsSound s t.discardWindow := by
  refine h.trans (.of_prb t.discardWindow_frame fun _ => ⟨?_, ?_, ?_⟩) <;> simp [State.discardWindow, State.setPrb]

/-- What a PRB in the role INJECTING may hold. -/
theorem State.setInjecting_sound {p : Prb} (hr : p.role = .injecting) (hw : p.window.isSome = true)
    (ha : t.prb.role = .injecting ∧ p.alarmCount = t.prb.alarmCount ∨ p.alarmCount = 0) (h : KeepsSound s t) :
    KeepsSound s (t.setPrb p) := by
  refine h.trans (.of_prb (t.setPrb_frame p) fun ⟨_, _, hal⟩ => ⟨by simp [State.setPrb, hr, hw], fun _ => hr, fun _ => ?_⟩)
  rcases ha with ⟨ht, ha⟩ | ha
  · exact ha.trans (hal (by simp [ht]))
  · exact ha

/-- A station that leaves a role without a window may do so to another one, its alarm count at 0 unless the role is NONE. -/
theorem State.setIdleRole_sound {p : Prb} (ht : t.prb.role = .none ∨ t.prb.role = .pending) (hr : p.role = .none ∨ p.role = .pending)
    (hw : p.window = t.prb.window) (ho : p.output = t.prb.output) (ha : p.role = .pending → p.alarmCount = 0) (h : KeepsSound s t) :
    KeepsSound s (t.setPrb p) := by
  refine h.trans (.of_prb (t.setPrb_frame p) fun ⟨hwin, hout, _⟩ => ⟨?_, fun hx => ?_, fun hn => ha (hr.resolve_left hn)⟩)
  · have hnone : ¬(t.prb.window.isSome = true) := by
      rw [hwin]
      rcases ht with ht | ht <;> simp [ht]
    simp only [State.setPrb, hw, hnone]
    rcases hr with hr | hr <;> simp [hr]
  · have := hout (ho ▸ hx)
    rcases ht with ht | ht <;> simp [ht] at this

@[simp] theorem State.windowEndSeen_sound (c : Option (Bool × Nat)) (h : KeepsSound s t) : KeepsSound s (t.windowEndSeen c) := by
  cases c with
  | none => cases hl : t.listenOnly <;> simp [State.windowEndSeen, hl, State.setPrb_sound, h]
  | some c => cases hl : t.listenOnly <;> cases hc : c.1 <;> simp [State.windowEndSeen, hl, hc, State.setPrb_sound, h]

@[simp] theorem State.considerReference_sound (w : Window) (ok : Bool) (r : Nat) (h : KeepsSound s t) :
    KeepsSound s (t.considerReference w ok r) := by
  unfold State.considerReference
  split <;> simp [State.setPrb_sound, h]

@[simp] theorem State.windowLost_sound (h : KeepsSound s t) : KeepsSound s t.windowLost := by
  unfold State.windowLost
  split <;> simp [h]

theorem State.setWindow_sound {w : Window} (hw : t.prb.window.isSome = true) (h : KeepsSound s t) : KeepsSound s (t.setWindow w) :=
  State.setPrb_sound (p := { t.prb with window := some w }) rfl hw.symm rfl (.inl rfl) h

theorem State.closeInjection_sound (w : Window) (x : WindowStatus) (r : Nat) (hr : t.prb.role = .injecting) (h : KeepsSound s t) :
    KeepsSound s (t.closeInjection w x r) := by
  simp only [State.closeInjection]
  have hset := fun w' : Window => State.setInjecting_sound (p := { t.prb with window := some w', output := .released })
    hr rfl (.inl ⟨hr, rfl⟩) h
  split <;> simp [hset]

@[simp] theorem State.abortInjection_sound (x : WindowStatus) (h : KeepsSound s t) : KeepsSound s (t.abortInjection x) := by
  simp only [State.abortInjection]
  split
  next w hr hw =>
    generalize (if (x == .disturbed) = true then { w with disturbed := true } else w) = w'
    split
    · split
      · exact State.setWindow_sound (by rw [hw]; rfl) h
      · exact h
    · exact State.closeInjection_sound _ _ _ hr h
  all_goals exact h

theorem State.withdraw_prb (s : State) (k : Kind) : (s.withdraw k).1.prb = s.prb := (s.withdraw_frame k).keeps .prb (by simp)

@[simp] theorem State.withdrawProbeOpen_sound (h : KeepsSound s t) : KeepsSound s t.withdrawProbeOpen := by
  simp only [State.withdrawProbeOpen]
  split
  next hp =>
    have hp : (t.withdraw .probeOpen).1.prb.role = .pending := by rw [State.withdraw_prb]; simpa using hp
    split
    · exact State.setIdleRole_sound (.inr hp) (.inl rfl) rfl rfl (by simp) (State.withdraw_sound _ h)
    · exact State.withdraw_sound _ h
    · exact State.withdraw_sound _ h
  · exact h

@[simp] theorem State.probeAbort_sound (h : KeepsSound s t) : KeepsSound s t.probeAbort := by
  simp [State.probeAbort, h]

@[simp] theorem State.probeStuck_sound (h : KeepsSound s t) : KeepsSound s t.probeStuck := by
  simp only [State.probeStuck]
  split
  next w hr hw =>
    have hset := State.setInjecting_sound (p := { t.withdrawProbeOpen.prb with output := .released }) hr (by simp [hw])
      (.inl ⟨hr, rfl⟩) (State.withdrawProbeOpen_sound h)
    split
    · split <;> simp [hset]
    · simp [hset]
  all_goals exact State.withdrawProbeOpen_sound h

@[simp] theorem State.injectorStart_sound (f : QueuedFrame) (h : KeepsSound s t) : KeepsSound s (t.injectorStart f) := by
  simp only [State.injectorStart]
  have hset := fun (p : Prb) (hr : p.role = .injecting) (hw : p.window.isSome = true) (ha : p.alarmCount = 0) =>
    State.setInjecting_sound hr hw (.inr ha) h
  repeat' split
  all_goals simp [hset]

@[simp] theorem State.referenceHalfEnd_sound (h : KeepsSound s t) : KeepsSound s t.referenceHalfEnd := by
  simp only [State.referenceHalfEnd]
  split
  next w hr hw =>
    have hset := fun (p : Prb) (hp : p.role = .injecting) (hw : p.window.isSome = true) (ha : p.alarmCount = t.prb.alarmCount) =>
      State.setInjecting_sound hp hw (.inl ⟨hr, ha⟩) h
    repeat' split
    all_goals simp [hset, hr, h, State.closeInjection_sound]
  all_goals exact h

@[simp] theorem State.injectionStart_sound (h : KeepsSound s t) : KeepsSound s t.injectionStart := by
  unfold State.injectionStart
  split
  next w hr hw =>
    split
    · exact State.setInjecting_sound hr rfl (.inl ⟨hr, rfl⟩) h
    · exact h
  all_goals exact h

@[simp] theorem State.injectionHalfEnd_sound (h : KeepsSound s t) : KeepsSound s t.injectionHalfEnd := by
  simp only [State.injectionHalfEnd]
  split
  next w hr hw =>
    split
    · split
      · exact State.setInjecting_sound hr rfl (.inl ⟨hr, rfl⟩) h
      · exact State.closeInjection_sound _ _ _ hr h
    · exact h
  all_goals exact h

@[simp] theorem State.injectorEnd_sound (h : KeepsSound s t) : KeepsSound s t.injectorEnd := by
  simp only [State.injectorEnd]
  split
  next w hr hw =>
    refine State.discardWindow_sound (State.considerReference_sound _ _ _ ?_)
    have hend := fun r c => State.windowEndSeen_sound c (State.windowReport_sound r h)
    split
    · exact State.setPrb_sound rfl rfl rfl (.inl rfl) (hend _ _)
    · exact hend _ _
  all_goals exact h

@[simp] theorem State.probeOpenLost_sound (h : KeepsSound s t) : KeepsSound s t.probeOpenLost := by
  unfold State.probeOpenLost
  split
  next hp =>
    have hp : t.prb.role = .pending := by simpa using hp
    split <;> exact State.setIdleRole_sound (.inr hp) (.inl rfl) rfl rfl (by simp) h
  · exact h

@[simp] theorem State.probeOpenWithdrawn_sound (h : KeepsSound s t) : KeepsSound s t.probeOpenWithdrawn := by
  unfold State.probeOpenWithdrawn
  split
  next hp => exact State.setIdleRole_sound (.inr (by simpa using hp)) (.inl rfl) rfl rfl (by simp) h
  · exact h

@[simp] theorem State.probeCloseLost_sound (h : KeepsSound s t) : KeepsSound s t.probeCloseLost := by
  unfold State.probeCloseLost
  split <;> simp [h]

theorem State.enterListening_sound (f : Received) (hr : t.prb.role = .none) (h : KeepsSound s t) : KeepsSound s (t.enterListening f) := by
  refine h.trans (.of_prb (t.enterListening_frame f) fun ⟨_, hout, _⟩ => ⟨?_, fun hx => ?_, ?_⟩)
  · simp [State.enterListening, State.setPrb]
  · have := hout hx
    simp [hr] at this
  · simp [State.enterListening, State.setPrb]

@[simp] theorem State.probeOpenDelivered_sound (f : Received) (h : KeepsSound s t) : KeepsSound s (t.probeOpenDelivered f) := by
  simp only [State.probeOpenDelivered]
  split
  next hr =>
    split
    · exact h
    · exact State.enterListening_sound f hr h
  · split
    next hr => exact State.enterListening_sound f (by simpa using hr) (State.withdrawProbeOpen_sound h)
    · exact State.withdrawProbeOpen_sound h
  · exact h
  · exact State.abortInjection_sound _ h

@[simp] theorem State.probeOpenTaken_sound (f : Received) (h : KeepsSound s t) : KeepsSound s (t.probeOpenTaken f) := by
  unfold State.probeOpenTaken
  repeat' split
  all_goals simp [h]

@[simp] theorem State.probeDisturbed_sound (h : KeepsSound s t) : KeepsSound s t.probeDisturbed := by
  unfold State.probeDisturbed
  split
  next hw => exact State.setWindow_sound (by simp [hw]) h
  all_goals simp [h]

@[simp] theorem State.listenerEnd_sound (w : Window) (b : Bool) (c : Option (Bool × Nat)) (h : KeepsSound s t) :
    KeepsSound s (t.listenerEnd w b c) := by
  simp only [State.listenerEnd]
  split <;> simp [h]

@[simp] theorem State.listenerMatched_sound (w : Window) (x : WindowStatus) (n r : Nat) (h : KeepsSound s t) :
    KeepsSound s (t.listenerMatched w x n r) :=
  State.discardWindow_sound (State.considerReference_sound _ _ _ (State.windowEndSeen_sound _ (State.windowReport_sound _ h)))

@[simp] theorem State.probeCloseDelivered_sound (f : Received) (h : KeepsSound s t) : KeepsSound s (t.probeCloseDelivered f) := by
  simp only [State.probeCloseDelivered]
  repeat' split
  all_goals simp [h]

@[simp] theorem State.wMax_sound (h : KeepsSound s t) : KeepsSound s t.wMax := by
  unfold State.wMax
  repeat' split
  all_goals simp [h]

@[simp] theorem State.probeBarred_sound (h : KeepsSound s t) : KeepsSound s t.probeBarred := by
  unfold State.probeBarred
  repeat' split
  all_goals simp [h]

/-- The alarm counts in the role NONE only, so it may count what it likes there (R60). -/
@[simp] theorem State.balanceCount_sound (h : KeepsSound s t) : KeepsSound s t.balanceCount := by
  unfold State.balanceCount
  split
  · exact State.setPrb_sound rfl rfl rfl (.inr rfl) h
  next hr =>
    have hr : t.prb.role = .none := by simpa using hr
    have hset := fun (p : Prb) (hp : p.role = t.prb.role) (hw : p.window = t.prb.window) (ho : p.output = t.prb.output) =>
      State.setIdleRole_sound (.inl hr) (.inl (hp.trans hr)) hw ho (by simp [hp, hr]) h
    repeat' split
    all_goals simp [hset, h]

@[simp] theorem State.probeInterval_sound (h : KeepsSound s t) : KeepsSound s t.probeInterval := by
  simp only [State.probeInterval]
  have hcount := State.balanceCount_sound (State.setPrb_sound
    (p := { t.prb with balances := (t.ssu.ground.balance :: t.prb.balances).take 100 }) rfl rfl rfl (.inl rfl) h)
  split
  next hw => exact State.setWindow_sound (by rw [hw]; rfl) hcount
  next hw => exact State.setWindow_sound (by rw [hw]; rfl) hcount
  all_goals exact hcount

@[simp] theorem State.halfExpiry_sound (h : KeepsSound s t) : KeepsSound s t.halfExpiry := by
  unfold State.halfExpiry
  split
  next hw =>
    repeat' split
    · exact h
    · exact State.setWindow_sound (by simp [hw]) h
    · exact h
  all_goals exact h

/-! ### The triggers (R58 to R62) -/

theorem State.enqueue_prb (s : State) (f : QueuedFrame) : (s.enqueue f).1.prb = s.prb := (s.enqueue_frame f).keeps .prb (by simp)

/-- A trigger queues a PROBE-OPEN out of the role NONE only. -/
@[simp] theorem State.trigger_sound (b : Bool) (h : KeepsSound s t) : KeepsSound s (t.trigger b).1 := by
  simp only [State.trigger]
  split
  next hc =>
    split
    next =>
      have hr : (t.enqueue t.probeOpenFrame).1.prb.role = .none := by
        rw [State.enqueue_prb]
        simp only [State.probeConditions, Bool.and_eq_true, beq_iff_eq] at hc
        simp [hc]
      exact State.setIdleRole_sound (.inl hr) (.inr rfl) rfl rfl (fun _ => rfl) (State.enqueue_sound _ h)
    · exact h
  · exact h

@[simp] theorem State.dueTrigger_sound (h : KeepsSound s t) : KeepsSound s t.dueTrigger := by
  simp only [State.dueTrigger]
  repeat' split
  all_goals simp [h, State.setPrb_sound]

@[simp] theorem State.balanceTrigger_sound (h : KeepsSound s t) : KeepsSound s t.balanceTrigger := by
  unfold State.balanceTrigger
  split <;> simp [h]

@[simp] theorem State.serviceTrigger_sound (h : KeepsSound s t) : KeepsSound s t.serviceTrigger.1 := by
  simp only [State.serviceTrigger]
  repeat' split
  all_goals simp [h]

@[simp] theorem State.probeDue_sound (h : KeepsSound s t) : KeepsSound s t.probeDue := by
  unfold State.probeDue
  split <;> simp [h, State.setPrb_sound]

@[simp] theorem State.dueRetry_sound (h : KeepsSound s t) : KeepsSound s t.dueRetry := by
  unfold State.dueRetry
  split <;> simp [h]

@[simp] theorem State.stagger_sound (h : KeepsSound s t) : KeepsSound s t.stagger := by
  unfold State.stagger
  split <;> simp [h, State.setPrb_sound]

end Probe

end Sys2Proof.Machine

namespace Sys2Proof.Machine

open Sys2Proof.Safety

/-! ### The drive engine and the strings (chapter 7) -/

section Strings
variable {s t : State}

/-- The engine and the coil output move together. -/
theorem KeepsSound.of_engine (hf : Frame [.swc] s t) (hc : CoilMatchesEngine s → CoilMatchesEngine t) : KeepsSound s t := by
  have hsmu : t.smu = s.smu := hf.keeps .smu (by simp)
  have hsel : t.sel = s.sel := hf.keeps .sel (by simp)
  have hpvw : t.pvw = s.pvw := hf.keeps .pvw (by simp)
  have hlnc : t.lnc = s.lnc := hf.keeps .lnc (by simp)
  have hprb : t.prb = s.prb := hf.keeps .prb (by simp)
  exact ⟨storesSound_congr (by rw [hsmu]) (by rw [hsel]), by rw [hlnc]; exact id, stopSetSound_congr (by rw [hsmu]) (by rw [hpvw]), hc,
    probeSound_congr hprb⟩

@[simp] theorem State.beginPulse_sound (k : StringNo) (d : Direction) (h : KeepsSound s t) : KeepsSound s (t.beginPulse k d) :=
  h.trans (.of_engine (t.beginPulse_frame k d) fun _ => rfl)

@[simp] theorem State.engineIdle_sound (h : KeepsSound s t) : KeepsSound s t.engineIdle :=
  h.trans (.of_engine t.engineIdle_frame fun _ => rfl)

/-- A pulse that has ended, with the engine made idle or set to wait for the confirmation. -/
theorem State.pulseEnds_engineIdle_sound (h : KeepsSound s t) : KeepsSound s t.pulseEnds.engineIdle :=
  h.trans (.of_engine (t.pulseEnds_frame.trans t.pulseEnds.engineIdle_frame) fun _ => rfl)

@[simp] theorem State.kickDrive_sound (h : KeepsSound s t) : KeepsSound s t.kickDrive := by
  unfold State.kickDrive
  repeat' split
  all_goals simp [h]

@[simp] theorem State.queueOpen_sound (k : StringNo) (c : OpenCause) (d : HoldDetail) (h : KeepsSound s t) :
    KeepsSound s (t.queueOpen k c d) :=
  State.kickDrive_sound (sound_openQ _ (State.setRelease_sound _ _ (State.setString_sound _ _ h)))

@[simp] theorem State.queueClose_sound (k : StringNo) (h : KeepsSound s t) : KeepsSound s (t.queueClose k) :=
  State.kickDrive_sound (sound_closeQ _ (State.setString_sound _ _ h))

@[simp] theorem State.updateMemo_sound (k : StringNo) (h : KeepsSound s t) : KeepsSound s (t.updateMemo k) := by
  simp only [State.updateMemo]
  split <;> simp [h]

@[simp] theorem State.addHold_sound (k : StringNo) (x : HoldRequest) (h : KeepsSound s t) : KeepsSound s (t.addHold k x) := by
  simp only [State.addHold]
  repeat' split
  case h_3.isTrue => exact State.updateMemo_sound _ (sound_closeQ _ (State.setString_sound _ _ h))
  all_goals simp [h]

@[simp] theorem State.releaseHold_sound (k : StringNo) (x : Release) (h : KeepsSound s t) : KeepsSound s (t.releaseHold k x) := by
  simp only [State.releaseHold]
  repeat' split
  all_goals simp [h]

@[simp] theorem State.recordIsolation_sound (k : StringNo) (c : OpenCause) (d : HoldDetail) (h : KeepsSound s t) :
    KeepsSound s (t.recordIsolation k c d) := by
  simp only [State.recordIsolation]
  split <;> simp [h]

@[simp] theorem State.startReclose_sound (k : StringNo) (h : KeepsSound s t) : KeepsSound s (t.startReclose k) := by
  unfold State.startReclose
  split <;> simp [h]

@[simp] theorem State.openConfirmed_sound (k : StringNo) (q : Request) (h : KeepsSound s t) : KeepsSound s (t.openConfirmed k q) := by
  have hrec := State.updateMemo_sound k (State.recordIsolation_sound k (q.cause.getD .stop)
    ((t.setString k fun r => { r with state := .opened, mismatch := 0, request := none }).string k |>.holds.openingDetail
      (q.cause.getD .stop) q) (State.setString_sound k (fun r => { r with state := .opened, mismatch := 0, request := none }) h))
  have hend := State.startReclose_sound k (State.probeDisturbed_sound (State.selOpened_sound k hrec))
  simp only [State.openConfirmed]
  split
  · exact State.queueClose_sound k hend
  · exact hend

@[simp] theorem State.takenClosed_sound (k : StringNo) (h : KeepsSound s t) : KeepsSound s (t.takenClosed k) :=
  State.setRelease_sound _ _ (State.setEvidence_sound _ _ (State.askMemo_sound _ _ (State.setString_sound _ _ h)))

@[simp] theorem State.closeConfirmed_sound (k : StringNo) (h : KeepsSound s t) : KeepsSound s (t.closeConfirmed k) := by
  simp only [State.closeConfirmed]
  split <;> simp [h]

/-- What the engine's return to IDLE begins, whatever the engine held before. -/
theorem State.attemptConfirmed_of_idle (k : StringNo) (d : Direction) (h : KeepsSound s t.engineIdle) :
    KeepsSound s (t.attemptConfirmed k d) := by
  simp only [State.attemptConfirmed]
  repeat' split
  all_goals simp [h]

@[simp] theorem State.becomeStuck_sound (k : StringNo) (st : StringState) (h : KeepsSound s t) : KeepsSound s (t.becomeStuck k st) :=
  State.selStuck_sound _ (State.updateMemo_sound _ (State.setString_sound _ _ h))

@[simp] theorem State.requeue_sound (k : StringNo) (d : Direction) (h : KeepsSound s t) : KeepsSound s (t.requeue k d) := by
  cases d
  · exact sound_openQ _ (State.setString_sound _ _ h)
  · exact sound_closeQ _ (State.setString_sound _ _ h)

theorem State.attemptFailed_of_idle (k : StringNo) (d : Direction) (h : KeepsSound s t.engineIdle) :
    KeepsSound s (t.attemptFailed k d) := by
  simp only [State.attemptFailed]
  have hopen := fun f => State.kickDrive_sound (State.selReturned_sound k (State.updateMemo_sound k (State.setString_sound k f h)))
  repeat' split
  all_goals simp [h, hopen]

@[simp] theorem State.mismatchTest_sound (k : StringNo) (h : KeepsSound s t) : KeepsSound s (t.mismatchTest k) := by
  unfold State.mismatchTest
  repeat' split
  all_goals simp [h]

@[simp] theorem State.freshAttempt_sound (k : StringNo) (h : KeepsSound s t) : KeepsSound s (t.freshAttempt k) := by
  unfold State.freshAttempt
  repeat' split
  all_goals simp [h]

@[simp] theorem State.initialSetting_sound (k : StringNo) (c : Bool) (v : Option MemoValue) (h : KeepsSound s t) :
    KeepsSound s (t.initialSetting k c v) := by
  unfold State.initialSetting
  split
  · repeat' split
    all_goals simp [h]
  · extract_lets u v
    have hu : KeepsSound s u := State.setString_sound _ _ h
    have hv : KeepsSound s v := by
      simp only [v]
      split <;> simp [hu]
    exact State.startReclose_sound k hv

/-! ### Decisions (R38, R41, R52) -/

@[simp] theorem State.requestHold_sound (x : IncidentKind) (k : StringNo) (f : FaultHold) (h : KeepsSound s t) :
    KeepsSound s (t.requestHold x k f) := by
  simp only [State.requestHold]
  split <;> simp [h]

@[simp] theorem State.decideArc_sound (h : KeepsSound s t) : KeepsSound s t.decideArc := by
  simp only [State.decideArc]
  split
  · exact h
  · split
    · exact State.requestHold_sound _ _ _ (sound_recent _ (State.withdrawClaim_sound _ (State.setArc_sound _ h)))
    · exact h

@[simp] theorem State.decideGround_sound (h : KeepsSound s t) : KeepsSound s t.decideGround := by
  simp only [State.decideGround]
  have hdecided := fun i => State.withdrawClaim_sound .ground (State.setGround_sound i h)
  repeat' split
  all_goals simp [h, hdecided]

@[simp] theorem State.yieldExpiry_sound (h : KeepsSound s t) : KeepsSound s t.yieldExpiry := by
  unfold State.yieldExpiry
  repeat' split
  all_goals simp [h]

/-! ### The interval (R1, R6, R9) -/

@[simp] theorem State.formInterval_sound (x : IntervalSamples) (h : KeepsSound s t) : KeepsSound s (t.formInterval x) :=
  h.trans (.of_frame ((t.formInterval_frame x).mono (by simp)))

@[simp] theorem State.evidenceUpdate_sound (h : KeepsSound s t) : KeepsSound s t.evidenceUpdate :=
  h.trans (.of_frame (t.evidenceUpdate_frame.mono (by simp)))

@[simp] theorem State.handTrips_sound (e : PerString Evidence) (h : KeepsSound s t) : KeepsSound s (t.handTrips e) := by
  refine sound_forStrings (fun u k => ?_) h
  split <;> simp

@[simp] theorem State.arcOnset_sound (k : StringNo) (h : KeepsSound s t) : KeepsSound s (t.arcOnset k) := by
  simp [State.arcOnset, State.openArc, h]

@[simp] theorem State.eveInterval_sound (h : KeepsSound s t) : KeepsSound s t.eveInterval := by
  have htrips := State.handTrips_sound t.eve (State.evidenceUpdate_sound h)
  simp only [State.eveInterval]
  repeat' split
  all_goals simp [htrips]

@[simp] theorem State.intervalCompletion_sound (x : IntervalSamples) (h : KeepsSound s t) : KeepsSound s (t.intervalCompletion x) := by
  simp only [State.intervalCompletion]
  split
  · exact sound_forStrings (fun u k => by simp) (State.probeInterval_sound (State.eveInterval_sound (State.formInterval_sound x h)))
  · exact h

/-! ### Stops, presses, recloses and keys (chapters 6 and 8) -/

theorem insertAddress_mem (a b : Nat) (xs : List Nat) : b ∈ insertAddress a xs ↔ b = a ∨ b ∈ xs := by
  induction xs with
  | nil => simp [insertAddress]
  | cons c rest ih =>
    simp only [insertAddress]
    split
    · simp
    · split
      next h =>
        have h : a = c := by simpa using h
        simp [h]
      · simp [ih, or_left_comm]

theorem insertAddress_ascending (a : Nat) {xs : List Nat} (h : xs.Pairwise (· < ·)) : (insertAddress a xs).Pairwise (· < ·) := by
  induction xs with
  | nil => simp [insertAddress]
  | cons c rest ih =>
    have hall := List.pairwise_cons.mp h
    simp only [insertAddress]
    split
    next hac =>
      refine List.pairwise_cons.mpr ⟨fun b hb => ?_, h⟩
      rcases List.mem_cons.mp hb with rfl | hb
      · exact hac
      · exact hac.trans (hall.1 b hb)
    · split
      · exact h
      next hac hne =>
        have hne : a ≠ c := by simpa using hne
        refine List.pairwise_cons.mpr ⟨fun b hb => ?_, ih hall.2⟩
        rcases (insertAddress_mem _ _ _).mp hb with rfl | hb
        · omega
        · exact hall.1 b hb

/-- An update of the Stop Set that leaves it a set of addresses. -/
theorem State.setStopSet_sound {xs : List Nat} (hx : StopSetSound t → xs.Pairwise (· < ·) ∧ ∀ a ∈ xs, a ≤ 31) (h : KeepsSound s t) :
    KeepsSound s (t.setStopSet xs) :=
  h.trans ⟨id, id, fun hs => ⟨hs.1, hx hs⟩, id, id⟩

theorem State.takeArrayStop_sound {a : Nat} (ha : StopSetSound t → a ≤ 31) (h : KeepsSound s t) : KeepsSound s (t.takeArrayStop a) := by
  have hset : KeepsSound s (t.setStopSet (insertAddress a t.pvw.stopSet)) := by
    refine State.setStopSet_sound (fun hs => ⟨insertAddress_ascending a hs.2.1, fun b hb => ?_⟩) h
    rcases (insertAddress_mem _ _ _).mp hb with rfl | hb
    · exact ha hs
    · exact hs.2.2 b hb
  exact State.probeBarred_sound (State.selSuperseded_sound (sound_forStrings (fun u k => by simp) hset))

@[simp] theorem State.releaseStops_sound (h : KeepsSound s t) : KeepsSound s t.releaseStops :=
  sound_forStrings (fun u k => by simp) h

@[simp] theorem State.removeStop_sound (a : Nat) (h : KeepsSound s t) : KeepsSound s (t.removeStop a) := by
  simp only [State.removeStop]
  have hset : KeepsSound s (t.setStopSet (t.pvw.stopSet.filter fun b => b != a)) :=
    State.setStopSet_sound (fun hs => ⟨hs.2.1.filter _, fun b hb => hs.2.2 b (List.mem_of_mem_filter hb)⟩) h
  repeat' split
  all_goals simp [h, hset]

@[simp] theorem State.releaseRemembered_sound (h : KeepsSound s t) : KeepsSound s t.releaseRemembered :=
  sound_forStrings (fun u k => by simp) h

@[simp] theorem State.releaseFault_sound (k : StringNo) (h : KeepsSound s t) : KeepsSound s (t.releaseFault k) := by
  unfold State.releaseFault State.stopReclose
  split <;> simp [h]

@[simp] theorem State.press_sound (h : KeepsSound s t) : KeepsSound s t.press :=
  sound_forStrings (fun u k => by simp) (sound_forStrings (fun u k => by simp) h)

theorem State.buttonInput_sound (b : Bool) (h : KeepsSound s t) : KeepsSound s (t.buttonInput b) :=
  h.trans (.of_frame ((t.buttonInput_frame b).mono (by simp)))

theorem State.setButton_sound (b : ButtonState) (x : Option Time) (h : KeepsSound s t) : KeepsSound s (t.setButton b x) := sound_rsl _ h

theorem State.buttonExpiry_sound (h : KeepsSound s t) : KeepsSound s t.buttonExpiry := by
  unfold State.buttonExpiry
  repeat' split
  all_goals simp [h, State.setButton_sound]

theorem State.recloseExpired_sound (k : StringNo) (h : KeepsSound s t) : KeepsSound s (t.recloseExpired k) := by
  simp only [State.recloseExpired]
  repeat' split
  all_goals simp [h]

theorem State.closedExpired_sound (k : StringNo) (h : KeepsSound s t) : KeepsSound s (t.closedExpired k) := by
  unfold State.closedExpired
  split <;> simp [h]

@[simp] theorem State.announceStop_sound (h : KeepsSound s t) : KeepsSound s t.announceStop := by
  simp only [State.announceStop]
  split
  · exact h
  · have hcount : KeepsSound s (if (t.lnc.rx == .frame && t.lnc.sending.isNone) = true then t.countError else t) := by
      split <;> simp [h]
    exact State.setLnc_sound rfl rfl rfl (fun _ => by simp) hcount

theorem State.startRepeat_sound (h : KeepsSound s t) : KeepsSound s t.startRepeat := by
  unfold State.startRepeat
  split <;> simp [h]

theorem State.setKey_sound (k : Key) (x : KeyState) (h : KeepsSound s t) : KeepsSound s (t.setKey k x) := by
  cases k <;> exact sound_rsl _ h

theorem State.keyInput_sound (k : Key) (b : Bool) (h : KeepsSound s t) : KeepsSound s (t.keyInput k b) :=
  h.trans (.of_frame ((t.keyInput_frame k b).mono (by simp)))

theorem State.keyAccepted_sound (k : Key) (h : KeepsSound s t) : KeepsSound s (t.keyAccepted k) := by
  simp only [State.keyAccepted]
  split
  · have hkey := State.setKey_sound k { t.key k with accepted := (t.key k).input, testAt := none } h
    split
    · exact State.startRepeat_sound (State.announceStop_sound (State.takeArrayStop_sound (fun hs => hs.1) hkey))
    · exact State.queueFrame_sound _ (State.removeStop_sound _ (sound_rsl _ hkey))
    · exact State.probeBarred_sound (State.selSuperseded_sound (sound_forStrings (fun u k => by simp) hkey))
    · exact sound_forStrings (fun u k => by simp) hkey
  · exact h

theorem State.stopRepeat_sound (h : KeepsSound s t) : KeepsSound s t.stopRepeat := by
  unfold State.stopRepeat
  split <;> simp [h, State.startRepeat_sound]

end Strings

end Sys2Proof.Machine

namespace Sys2Proof.Machine

open Sys2Proof.Safety

/-! ### Reports and services (chapter 6) -/

section Line
variable {s t : State}

theorem State.serviceRestore_sound (ks : List StringNo) (h : KeepsSound s t) : KeepsSound s (t.serviceRestore ks).1 :=
  sound_forStrings (fun u k => by simp [State.lineRelease]) h

theorem State.serviceOpen_sound (ks : List StringNo) (h : KeepsSound s t) : KeepsSound s (t.serviceOpen ks).1 :=
  sound_forStrings (fun u k => by simp) h

theorem State.carryOut_sound (op : Operation) (x l : Byte) (h : KeepsSound s t) : KeepsSound s (t.carryOut op x l).1 := by
  cases op with
  | restore => exact State.serviceRestore_sound _ h
  | opens => exact State.serviceOpen_sound _ h
  | probeNow => exact State.serviceTrigger_sound h
  | query => exact h

theorem State.serviceDelivered_sound (f : Received) (h : KeepsSound s t) : KeepsSound s (t.serviceDelivered f) := by
  simp only [State.serviceDelivered]
  repeat' split
  all_goals simp [h, State.carryOut_sound]

/-! ### Outcomes and attempts (R98, R106 to R110) -/

theorem State.beginWatching_sound (h : KeepsSound s t) : KeepsSound s t.beginWatching := sound_rsl _ h

@[simp] theorem State.reportOutcome_sound (f : QueuedFrame) (o : FrameOutcome) (h : KeepsSound s t) :
    KeepsSound s (t.reportOutcome f o) := by
  unfold State.reportOutcome State.statusCompleted
  repeat' split
  all_goals simp [h]

/-- The end of an attempt takes the station's levels off the line. -/
theorem State.endAttempt_sound {l : Lnc} (hq : l.queue = t.lnc.queue) (hn : l.nextEntry = t.lnc.nextEntry)
    (hp : l.pendingStatus = t.lnc.pendingStatus) (hs : l.sending = none) (ht : l.tx = []) (h : KeepsSound s t) :
    KeepsSound s (t.setLnc l) := State.setLnc_sound hq hn hp (fun _ => by simp [hs, ht]) h

theorem State.sendingFrame_mem {f : QueuedFrame} (h : t.sendingFrame = some f) : f ∈ t.lnc.queue ∧ t.lnc.sending = some f.entry := by
  unfold State.sendingFrame at h
  split at h
  · cases h
  next e he =>
    have hfe : f.entry = e := by simpa using List.find?_some h
    exact ⟨List.mem_of_find?_eq_some h, by rw [he, hfe]⟩

/-- In a sound queue a pending STATUS takes the place of the STATUS taken out. -/
theorem replacePending_queueSound {l : Lnc} {f p : QueuedFrame} (h : QueueSound l) (hf : f ∈ l.queue) (hk : f.kind = .status)
    (hp : l.pendingStatus = some p) :
    QueueSound { l with
      queue := insertFrame { p with entry := l.nextEntry } (l.queue.filter fun g => g.entry != f.entry),
      nextEntry := l.nextEntry + 1, pendingStatus := none } := by
  have hpk : p.kind = .status := h.2.2.2.2.2.1 p hp
  have hroom : (l.queue.filter fun g => g.entry != f.entry).length < l.queue.length :=
    List.length_filter_lt_length_iff_exists.mpr ⟨f, hf, by simp⟩
  obtain ⟨hlen, hord, hent, hne, honce, _, hs⟩ := queueSound_enter (l := { l with queue := l.queue.filter fun g => g.entry != f.entry })
    p (queueSound_filter _ h) (by have := h.1; simp only; omega)
    fun _ => by rw [hpk, ← hk]; exact none_left_of_once h hf (.inl hk)
  exact ⟨hlen, hord, hent, hne, honce, fun _ hx => by simp at hx, hs⟩

/-- The attempt of a frame still queued has ended; its failures may have been counted since. -/
theorem State.attemptEnded_sound {f g : QueuedFrame} (hg : g ∈ t.lnc.queue) (he : g.entry = f.entry) (hk : g.kind = f.kind)
    (h : KeepsSound s t) : KeepsSound s (t.attemptEnded f) := by
  unfold State.attemptEnded
  split
  · simp [h]
  · split
    next hst =>
      split
      · exact h
      next p hp =>
        refine h.trans (.of_lnc
          (((t.removeEntry_frame f.entry).trans (State.setLnc_frame _ _)).trans (State.enterFrame_frame _ _)) fun hq => ?_)
        rw [← he]
        exact replacePending_queueSound hq hg (by simpa [hk] using hst) hp
    · exact h

theorem State.takePending_queueSound (h : QueueSound t.lnc) (hn : ∀ g ∈ t.lnc.queue, g.kind ≠ .status) :
    QueueSound t.takePending.lnc := by
  unfold State.takePending
  split
  · exact h
  next p hp =>
    obtain ⟨hlen, hord, hent, hne, honce, hpend, hs⟩ := h
    refine State.makeRoomAndEnter_queueSound p ⟨hlen, hord, hent, hne, honce, by simp [State.setLnc], hs⟩ fun _ => ?_
    rw [hpend p hp]
    exact hn

theorem State.reportOutcome_status {f : QueuedFrame} (o : FrameOutcome) (hk : f.kind = .status) : (t.reportOutcome f o).lnc = t.lnc := by
  cases o with
  | completed =>
    simp only [State.reportOutcome, hk, State.statusCompleted]
    split <;> rfl
  | _ => simp [State.reportOutcome, hk]

/-- A frame that has left the queue is reported; a pending STATUS follows a STATUS that has left. -/
theorem State.leave_sound {f : QueuedFrame} (o : FrameOutcome) (hf : f ∈ t.lnc.queue) (h : KeepsSound s t) :
    KeepsSound s (((t.removeEntry f.entry).reportOutcome f o).afterLeaving f) := by
  have hrep := State.reportOutcome_sound f o (State.removeEntry_sound f.entry h)
  unfold State.afterLeaving
  split
  next hk =>
    have hk : f.kind = .status := by simpa using hk
    refine hrep.then_lnc (State.takePending_frame _) fun hq => State.takePending_queueSound (hrep.queue hq) ?_
    rw [State.reportOutcome_status o hk, ← hk]
    exact none_left_of_once (h.queue hq) hf (.inl hk)
  · exact hrep

theorem State.loseAttempt_sound (h : KeepsSound s t) : KeepsSound s t.loseAttempt := by
  unfold State.loseAttempt
  split
  · exact h
  next f hf =>
    exact State.attemptEnded_sound (State.sendingFrame_mem hf).1 rfl rfl (State.endAttempt_sound rfl rfl rfl rfl rfl h)

theorem State.countError_queue (s : State) : s.countError.lnc.queue = s.lnc.queue := by
  unfold State.countError
  split <;> rfl

theorem State.countFailure_sound (e : Nat) (h : KeepsSound s t) :
    KeepsSound s (t.setLnc { t.lnc with queue := countFailure e t.lnc.queue }) := by
  refine h.trans (.of_lnc (State.setLnc_frame _ _) (queueSound_map (fun g => ?_) fun g => ?_)) <;> split <;> rfl

theorem State.failAttempt_sound (b : Bool) (h : KeepsSound s t) : KeepsSound s (t.failAttempt b) := by
  simp only [State.failAttempt]
  split
  · exact h
  next f hf =>
    have hmem : f ∈ t.countError.lnc.queue := by rw [State.countError_queue]; exact (State.sendingFrame_mem hf).1
    have hend : KeepsSound s (t.countError.setLnc { t.countError.lnc with sending := none, tx := [], rx := .sync, rxChars := [] }) :=
      State.endAttempt_sound rfl rfl rfl rfl rfl (State.countError_sound h)
    split
    · exact hend
    · split
      · exact State.leave_sound .dropped hmem hend
      · exact State.attemptEnded_sound (List.mem_map_of_mem hmem) (by simp) (by simp) (State.countFailure_sound _ hend)

theorem State.completeAttempt_sound (h : KeepsSound s t) : KeepsSound s t.completeAttempt := by
  simp only [State.completeAttempt]
  split
  · exact h
  next f hf => exact State.leave_sound .completed (State.sendingFrame_mem hf).1 (State.endAttempt_sound rfl rfl rfl rfl rfl h)

theorem State.startAttempt_sound (h : KeepsSound s t) : KeepsSound s t.startAttempt := by
  unfold State.startAttempt
  split
  · exact h
  · split
    · exact h
    next f _ => exact State.setLnc_sound rfl rfl rfl (fun _ => by simp [t.sentLevels_ne_nil f]) h

theorem State.idleGap_sound (h : KeepsSound s t) : KeepsSound s t.idleGap := by
  unfold State.idleGap
  split
  · exact h
  · exact State.startAttempt_sound (State.setLnc_sound rfl rfl rfl id h)

/-! ### Receiving (R99 to R103) -/

theorem State.characterTaken_sound (c : Byte) (m p : Level) (h : KeepsSound s t) : KeepsSound s (t.characterTaken c m p) := by
  have hset := fun (u : State) (l : Lnc) (hu : KeepsSound s u) (hq : l.queue = u.lnc.queue) (hn : l.nextEntry = u.lnc.nextEntry)
      (hp : l.pendingStatus = u.lnc.pendingStatus) (hs : l.sending = u.lnc.sending) (ht : l.tx = u.lnc.tx) =>
    State.setLnc_sound hq hn hp (by rw [hs, ht]; exact id) hu
  simp only [State.characterTaken, State.appendChar]
  repeat' split
  all_goals simp [h, hset]

theorem State.characterGap_sound (h : KeepsSound s t) : KeepsSound s t.characterGap := by
  unfold State.characterGap
  split
  · exact State.setLnc_sound rfl rfl rfl id (State.countError_sound h)
  · exact h

theorem State.heard_sound (p : PeerNo) (h : KeepsSound s t) : KeepsSound s (t.heard p) := by
  have hpeer := fun e => h.trans (.of_blocks (t := t.setPeer p e) rfl rfl rfl rfl rfl rfl id id)
  simp only [State.heard]
  split <;> exact State.setLnc_sound rfl rfl rfl id (hpeer _)

theorem State.deliver_sound (k : Kind) {f : Received} (hf : f.source ≤ 31) (h : KeepsSound s t) : KeepsSound s (t.deliver k f) := by
  cases k with
  | arrayStop => exact State.takeArrayStop_sound (fun _ => hf) h
  | service => exact State.serviceDelivered_sound f h
  | status =>
    simp only [State.deliver, State.statusDelivered]
    split <;> simp [h]
  | _ => simp [State.deliver, h]

theorem State.sortFrame_sound (f : Received) (h : KeepsSound s t) : KeepsSound s (t.sortFrame f) := by
  simp only [State.sortFrame]
  split
  · exact h
  next hsource =>
    have hheard := State.heard_sound (Fin.ofNat 31 (f.source - 1)) h
    split
    · exact State.setLnc_sound rfl rfl rfl id h
    · split
      · exact hheard
      · split
        · exact State.deliver_sound _ (by omega) hheard
        · exact hheard

theorem State.frameCompleted_sound (h : KeepsSound s t) : KeepsSound s t.frameCompleted := by
  simp only [State.frameCompleted]
  split
  · exact h
  · have hset : KeepsSound s (t.setLnc { t.lnc with rxDone := none }) := State.setLnc_sound rfl rfl rfl id h
    repeat' split
    all_goals simp [hset, State.sortFrame_sound]

/-! ### Health, line states and breaks (R111 to R120) -/

theorem State.healthPeriodEnd_sound (h : KeepsSound s t) : KeepsSound s t.healthPeriodEnd := by
  unfold State.healthPeriodEnd
  split
  · exact h
  · split
    · exact State.setLnc_sound rfl rfl rfl id h
    · exact h

theorem State.silence_sound (h : KeepsSound s t) : KeepsSound s t.silence := by
  unfold State.silence
  split
  · exact State.setLnc_sound rfl rfl rfl id h
  · exact h

theorem State.peerSilence_sound (p : PeerNo) (h : KeepsSound s t) : KeepsSound s (t.peerSilence p) := by
  simp only [State.peerSilence]
  split
  · exact h.trans (.of_blocks rfl rfl rfl rfl rfl rfl id id)
  · exact h

theorem State.stuckLine_sound (run : Nat) (h : KeepsSound s t) : KeepsSound s (t.stuckLine run) := by
  have hrun : KeepsSound s (t.setLnc { t.lnc with dominantRun := run }) := State.setLnc_sound rfl rfl rfl id h
  simp only [State.stuckLine]
  split
  · exact State.probeStuck_sound (State.setLnc_sound rfl rfl rfl id hrun)
  · exact hrun

theorem State.lineFreed_sound (h : KeepsSound s t) : KeepsSound s t.lineFreed := by
  unfold State.lineFreed
  split
  · exact State.startAttempt_sound (State.setLnc_sound rfl rfl rfl id h)
  · exact h

theorem State.reports_sound (fs : List QueuedFrame) (o : FrameOutcome) (h : KeepsSound s t) :
    KeepsSound s (fs.foldl (fun u f => u.reportOutcome f o) t) := by
  induction fs generalizing t with
  | nil => exact h
  | cons f fs ih => exact ih (State.reportOutcome_sound f o h)

theorem State.flush_sound (h : KeepsSound s t) : KeepsSound s t.flush := by
  refine State.reports_sound _ _ (h.trans (.of_lnc (State.setLnc_frame _ _) fun hq => ?_))
  obtain ⟨hlen, hord, hent, hne, honce, _, _⟩ := queueSound_filter (fun f => f.kind.kept) hq
  exact ⟨hlen, hord, hent, hne, honce, fun _ hp => by simp [State.setLnc] at hp, by simp [State.setLnc]⟩

theorem State.breakRecognised_sound (run : Nat) (h : KeepsSound s t) : KeepsSound s (t.breakRecognised run) := by
  unfold State.breakRecognised
  repeat' split
  · exact h
  · exact State.setLnc_sound rfl rfl rfl id h
  · exact State.flush_sound (State.setLnc_sound rfl rfl rfl id h)
  · exact State.setLnc_sound rfl rfl rfl id h

theorem State.breakDriveEnd_sound (h : KeepsSound s t) : KeepsSound s t.breakDriveEnd := by
  simp only [State.breakDriveEnd]
  have hflush : KeepsSound s (t.setLnc { t.lnc with breakEndAt := none }).flush :=
    State.flush_sound (State.setLnc_sound rfl rfl rfl id h)
  repeat' split
  all_goals simp [h, hflush]

theorem State.statusPoint_sound (h : KeepsSound s t) : KeepsSound s t.statusPoint := by
  unfold State.statusPoint State.buildStatus
  repeat' split
  all_goals simp [h]

/-! ### Start-up and supply (chapter 9) -/

theorem State.memAfterReset_wf (h : Memory.wf t.smu.mem = true) : Memory.wf t.memAfterReset = true := by
  simp only [State.memAfterReset]
  repeat' split
  · exact h
  · exact Memory.writeSlot_wf _ _ _ _ h
  · exact h

theorem State.afterReset_sound (h : KeepsSound s t) : KeepsSound s t.afterReset :=
  h.trans ⟨fun hs => ⟨State.memAfterReset_wf hs.1, by simp [State.afterReset, State.reset, Sel.atReset], .nil⟩,
    fun _ => by simp [State.afterReset, State.reset, QueueSound, Lnc.atReset],
    fun _ => ⟨by simp [State.afterReset, Smu.atReset], .nil, by simp [State.afterReset, State.reset, Pvw.atReset]⟩,
    fun _ => rfl, fun _ => by simp [State.afterReset, State.reset, ProbeSound, Prb.atReset]⟩

theorem State.readConfig_sound (b : Bool) (h : KeepsSound s t) : KeepsSound s (t.readConfig b) := by
  unfold State.readConfig
  split <;> exact h.trans (.of_blocks rfl rfl rfl rfl rfl rfl id id)

theorem State.startReading_sound {a : Nat} (n : Nat) (p : StartPins) (b : Bool) (ha : a ≤ 31) (h : KeepsSound s t) :
    KeepsSound s (t.startReading a n p b) := by
  simp only [State.startReading]
  split
  · refine State.setLnc_sound rfl rfl rfl id (State.readConfig_sound b (h.trans ?_))
    exact ⟨id, id, fun hs => ⟨ha, hs.2⟩, id, id⟩
  · exact h

theorem State.beginListening_sound (h : KeepsSound s t) : KeepsSound s t.beginListening := by
  have hsmu : KeepsSound s (t.setSmu { t.smu with phase := .listening, listenEndAt := some (t.now.plus listenMs) }) :=
    State.setSmu_sound _ rfl rfl h
  exact State.kickDrive_sound (State.beginWatching_sound (sound_ssu _ (State.setLnc_sound rfl rfl rfl id hsmu)))

theorem State.handOver_sound (c a : List Bool) (h : KeepsSound s t) : KeepsSound s (t.handOver c a) := by
  simp only [State.handOver]
  split
  · exact State.beginListening_sound (sound_forStrings (fun u k => by simp) (sound_forStrings (fun u k => by simp) h))
  · exact h

theorem State.listenEnd_sound (h : KeepsSound s t) : KeepsSound s t.listenEnd := by
  have hline : ∀ {u : State}, KeepsSound s u → KeepsSound s u.leaveListen := fun hu => by
    unfold State.leaveListen
    split
    · exact State.setLnc_sound rfl rfl rfl id hu
    · exact hu
  have hprobe : ∀ {u : State}, KeepsSound s u → KeepsSound s u.probeListenEnd := fun hu => by
    simp only [State.probeListenEnd]
    split
    · exact State.setPrb_sound rfl rfl rfl (.inl rfl) hu
    · exact State.setPrb_sound rfl rfl rfl (.inr rfl) hu
  simp only [State.listenEnd]
  split
  · refine State.setSmu_sound _ rfl rfl ?_
    unfold State.scheduleStatus
    split
    · exact hprobe (hline (State.setSmu_sound _ rfl rfl h))
    · exact sound_rpt _ (hprobe (hline (State.setSmu_sound _ rfl rfl h)))
  · exact h

theorem State.rememberedExpiry_sound (h : KeepsSound s t) : KeepsSound s t.rememberedExpiry := by
  unfold State.rememberedExpiry
  split <;> simp [h]

theorem State.watchSupply_sound (c : List SupplySpan) (p : Nat → Bool) {f : State → State} (hf : ∀ {u}, KeepsSound s u → KeepsSound s (f u))
    (h : KeepsSound s t) : KeepsSound s (t.watchSupply c p f) := by
  unfold State.watchSupply
  repeat' split
  · exact h
  · exact State.afterReset_sound h
  · exact hf h
  · exact h

theorem State.supplyLow_sound (h : KeepsSound s t) : KeepsSound s t.supplyLow := by
  unfold State.supplyLow
  split <;> simp [h]

theorem State.supplyRun_sound (h : KeepsSound s t) : KeepsSound s t.supplyRun := by
  unfold State.supplyRun
  split
  · exact h
  · exact State.kickMemo_sound (State.kickDrive_sound (State.setSmu_sound _ rfl rfl h))

/-! ### The drive engine's commands (R145 to R147) -/

theorem State.sourceReady_sound (h : KeepsSound s t) : KeepsSound s t.sourceReady :=
  State.kickDrive_sound (h.trans (.of_blocks rfl rfl rfl rfl rfl rfl id id))

theorem State.rechargeExpiry_sound (h : KeepsSound s t) : KeepsSound s t.rechargeExpiry := by
  unfold State.rechargeExpiry
  split
  · exact h.trans (.of_blocks rfl rfl rfl rfl rfl rfl id id)
  · exact h

theorem State.coilOver_sound (h : KeepsSound s t) : KeepsSound s t.coilOver := by
  unfold State.coilOver
  split
  · exact State.attemptFailed_of_idle _ _ (State.pulseEnds_engineIdle_sound h)
  · exact h
  · exact h

theorem State.pulseEnd_sound (r : CoilReading) (h : KeepsSound s t) : KeepsSound s (t.pulseEnd r) := by
  have hidle := State.pulseEnds_engineIdle_sound h
  simp only [State.pulseEnd]
  split
  · repeat' split
    · exact State.attemptFailed_of_idle _ _ hidle
    · exact State.attemptConfirmed_of_idle _ _ hidle
    · exact h.trans ⟨id, id, id, fun _ => rfl, id⟩
    · exact h
  · exact h
  · exact h

theorem State.contactChange_sound (k : StringNo) (c : Bool) (h : KeepsSound s t) : KeepsSound s (t.contactChange k c) := by
  have hcontact := sound_contact (modifyAt t.swc.contact k fun _ => c) h
  simp only [State.contactChange]
  repeat' split
  · exact State.attemptConfirmed_of_idle _ _ (State.engineIdle_sound hcontact)
  all_goals exact hcontact

theorem State.confirmExpiry_sound (h : KeepsSound s t) : KeepsSound s t.confirmExpiry := by
  unfold State.confirmExpiry
  repeat' split
  · exact State.attemptFailed_of_idle _ _ (State.engineIdle_sound h)
  all_goals exact h

/-! ### The Claim Log's expiries (R28, R48) -/

theorem State.claimExpiry_sound (a : Nat) (k : ClaimKind) (h : KeepsSound s t) : KeepsSound s (t.claimExpiry a k) :=
  h.trans ⟨fun ⟨hm, hlen, hone⟩ => ⟨hm, (List.length_filter_le _ _).trans hlen, hone.filter _⟩, id, id, id, id⟩

theorem State.recentExpiry_sound (h : KeepsSound s t) : KeepsSound s t.recentExpiry := by
  unfold State.recentExpiry
  split <;> simp [h]

end Line

end Sys2Proof.Machine

namespace Sys2Proof.Machine

open Sys2Proof.Safety

/-! ### Every command and every step -/

/-- An event keeps soundness when its effect does. -/
theorem State.event_sound {s t : State} {dt : Nat} {f : State → State} (hf : ∀ {u}, KeepsSound s u → KeepsSound s (f u))
    (h : s.event dt f = .next t) : KeepsSound s t := by
  cases h
  exact State.settle_sound (hf (State.elapse_sound dt (.refl s)))

theorem whenStarted_sound {s u : State} {f : State → State} (hf : ∀ {u}, KeepsSound s u → KeepsSound s (f u)) (h : KeepsSound s u) :
    KeepsSound s (whenStarted f u) := by
  unfold whenStarted
  split
  · exact hf h
  · exact h

/-- Every command keeps what is sound sound: each is an event of one block's operation. -/
theorem exec_sound {c : Instr} {s t : State} (h : exec c s = .next t) : KeepsSound s t := by
  have running := fun {dt : Nat} {f : State → State} (hf : ∀ {u}, KeepsSound s u → KeepsSound s (f u)) =>
    State.event_sound (dt := dt) (t := t) (whenStarted_sound hf)
  cases c with
  | reset => cases h; exact State.afterReset_sound (.refl s)
  | readingStart dt a n p m => exact State.event_sound (State.startReading_sound _ _ _ (by have := a.isLt; omega)) h
  | handOver => exact State.event_sound (State.handOver_sound _ _) h
  | listenEnd => exact State.event_sound State.listenEnd_sound h
  | rememberedStopExpiry => exact running State.rememberedExpiry_sound h
  | intervalCompletion => exact running (State.intervalCompletion_sound _) h
  | supplyLow => exact State.event_sound (State.watchSupply_sound _ _ State.supplyLow_sound) h
  | supplyRun => exact State.event_sound (State.watchSupply_sound _ _ State.supplyRun_sound) h
  | characterTaken => exact running (State.characterTaken_sound _ _ _) h
  | characterGapExpiry => exact running State.characterGap_sound h
  | frameCompletion => exact running State.frameCompleted_sound h
  | idleGap => exact running State.idleGap_sound h
  | arbitrationLoss => exact running (fun hu => by unfold State.arbitrationLoss; split; exacts [State.loseAttempt_sound hu, hu]) h
  | bitError => exact running (fun hu => by unfold State.bitError; split; exacts [State.failAttempt_sound _ hu, hu]) h
  | transmitCompleted => exact running (fun hu => by unfold State.transmitCompleted; split; exacts [State.completeAttempt_sound hu, hu]) h
  | healthPeriodEnd => exact running State.healthPeriodEnd_sound h
  | silenceExpiry => exact running State.silence_sound h
  | peerSilenceExpiry => exact running (State.peerSilence_sound _) h
  | stuckLine => exact running (State.stuckLine_sound _) h
  | lineFreed => exact running State.lineFreed_sound h
  | breakRecognised => exact running (State.breakRecognised_sound _) h
  | breakDriveEnd => exact running State.breakDriveEnd_sound h
  | claimExpiry => exact running (State.claimExpiry_sound _ _) h
  | decisionPoint => exact running State.decideArc_sound h
  | groundDecision => exact running State.decideGround_sound h
  | yieldHoldExpiry => exact running State.yieldExpiry_sound h
  | recentDecisionExpiry => exact running State.recentExpiry_sound h
  | probeDueExpiry => exact running State.probeDue_sound h
  | dueRetry => exact running State.dueRetry_sound h
  | staggerExpiry => exact running State.stagger_sound h
  | referenceHalfEnd => exact running State.referenceHalfEnd_sound h
  | injectionStart => exact running State.injectionStart_sound h
  | injectionHalfEnd => exact running State.injectionHalfEnd_sound h
  | halfExpiry => exact running State.halfExpiry_sound h
  | wMaxExpiry => exact running State.wMax_sound h
  | statusPoint => exact running State.statusPoint_sound h
  | sourceReady => exact State.event_sound State.sourceReady_sound h
  | rechargeExpiry => exact running State.rechargeExpiry_sound h
  | coilOver => exact running State.coilOver_sound h
  | pulseEnd => exact running (State.pulseEnd_sound _) h
  | contactFeedbackChange => exact State.event_sound (State.contactChange_sound _ _) h
  | confirmExpiry => exact running State.confirmExpiry_sound h
  | pushbuttonInputChange => exact State.event_sound (State.buttonInput_sound _) h
  | pushbuttonFilterExpiry => exact State.event_sound State.buttonExpiry_sound h
  | keyInputChange => exact State.event_sound (State.keyInput_sound _ _) h
  | keyAcceptExpiry => exact State.event_sound (State.keyAccepted_sound _) h
  | stopRepeatExpiry => exact running State.stopRepeat_sound h
  | recloseExpiry => exact running (State.recloseExpired_sound _) h
  | closedTimerExpiry => exact running (State.closedExpired_sound _) h
  | memoWriteDone => exact State.event_sound (State.memoDone_sound _ _ _) h
  | memoBusyTimeout => exact State.event_sound State.memoTimeout_sound h

/-- A step carries out the command in front, or idles. -/
theorem step_sound {s t : State} (h : step s = .next t) : KeepsSound s t := by
  unfold step at h
  split at h
  · cases h
    exact .refl s
  next c rest _ => exact KeepsSound.trans (t := { s with pending := rest }) ⟨id, id, id, id, id⟩ (exec_sound h)

/-- Settles O4. -/
theorem storesStaySound : Obligations.StoresStaySound := fun _ _ hs h => (step_sound h).stores hs

/-- Settles O5. -/
theorem queueStaysSound : Obligations.QueueStaysSound := fun _ _ hs h => (step_sound h).queue hs

/-- Settles O7. -/
theorem stopSetStaysSound : Obligations.StopSetStaysSound := fun _ _ hs h => (step_sound h).stopSet hs

/-- Settles O8. -/
theorem outputPinsStaySound : Obligations.OutputPinsStaySound := fun _ _ hc hp h => ⟨(step_sound h).coil hc, (step_sound h).probe hp⟩

end Sys2Proof.Machine

/-! PROOFS. What holds of every command: that it completes and in what time, that blocks not yet started idle, that the outputs settle,
and that the reset state is sound. -/

namespace Sys2Proof.Machine

open Sys2Proof.Safety

/-! ### Completion and time (R176, R186) -/

/-- Settles O1: the two cases are those of the step. -/
theorem stepRunsFrontCommand : Obligations.StepRunsFrontCommand :=
  ⟨fun c rest s h => by rw [step, h], fun s h => by rw [step, h]⟩

theorem whenStarted_frame {bs : List Block} {f : State → State} (hf : ∀ u, Frame bs u (f u)) (u : State) :
    Frame bs u (whenStarted f u) := by
  unfold whenStarted
  exact frame_ite _ _ _ _ _ (hf u) (.refl _ _)

/-- The supply's course restarts station time when it falls below 7.5 V, and only then. -/
theorem State.watchSupply_time {s : State} {dt : Nat} {course : List SupplySpan} {p : Nat → Bool} {f : State → State}
    {bs : List Block} (hf : ∀ u, Frame bs u (f u)) :
    ∃ t, s.event dt (fun t => t.watchSupply course p f) = .next t ∧ t.pending = s.pending ∧
      (s.smu.phase ≠ .inReset ∧ DropsToReset course → t.now = 0) ∧
      (¬(s.smu.phase ≠ .inReset ∧ DropsToReset course) → t.now = s.now.plus dt) := by
  obtain ⟨hreset, hdrops, hchange, hless⟩ := (s.elapse dt).watchSupply_eq course p f
  refine ⟨_, rfl, ?_⟩
  simp only [State.settle_pending, State.settle_now]
  by_cases hph : s.smu.phase = .inReset
  · rw [hreset hph]
    exact ⟨rfl, fun h => absurd hph h.1, fun _ => rfl⟩
  by_cases hd : DropsToReset course
  · rw [hdrops hph hd]
    exact ⟨rfl, fun _ => rfl, fun h => absurd ⟨hph, hd⟩ h⟩
  by_cases ht : testPassed p course = true
  · rw [hchange hph hd ht]
    exact ⟨(hf _).1, fun h => absurd h.2 hd, fun _ => (hf _).2.1⟩
  · rw [hless hd ht]
    exact ⟨rfl, fun h => absurd h.2 hd, fun _ => rfl⟩

/-- The blocks a command can change; RESET and the supply commands, which can restart the part, can change every block. -/
def commandBlocks : Instr → List Block
  | .readingStart .. => [.smu, .lnc]
  | .handOver .. => [.smu, .ssu, .lnc, .swc, .rsl]
  | .listenEnd .. => [.smu, .prb, .lnc, .rpt]
  | .rememberedStopExpiry .. => [.smu, .swc]
  | .intervalCompletion .. => [.smu, .ssu, .eve, .sel, .prb, .lnc, .swc, .rsl]
  | .characterTaken .. | .characterGapExpiry .. | .idleGap .. | .healthPeriodEnd .. | .silenceExpiry .. | .lineFreed .. => [.lnc]
  | .frameCompletion .. | .keyAcceptExpiry .. => [.smu, .sel, .prb, .lnc, .pvw, .swc, .rsl]
  | .arbitrationLoss .. | .bitError .. | .transmitCompleted .. | .stuckLine .. | .breakRecognised ..
  | .breakDriveEnd .. | .referenceHalfEnd .. | .injectionHalfEnd .. | .wMaxExpiry .. => [.sel, .prb, .lnc]
  | .peerSilenceExpiry .. => [.pvw]
  | .claimExpiry .. | .recentDecisionExpiry .. => [.sel]
  | .decisionPoint .. | .groundDecision .. => [.smu, .sel, .lnc, .swc, .rsl]
  | .yieldHoldExpiry .. => [.sel, .lnc]
  | .probeDueExpiry .. | .dueRetry .. | .staggerExpiry .. => [.prb, .lnc]
  | .injectionStart .. | .halfExpiry .. => [.prb]
  | .statusPoint .. => [.lnc, .rpt]
  | .sourceReady .. | .rechargeExpiry .. => [.swc]
  | .coilOver .. | .confirmExpiry .. => [.smu, .sel, .lnc, .swc]
  | .pulseEnd .. | .contactFeedbackChange .. => [.smu, .eve, .sel, .prb, .lnc, .swc, .rsl]
  | .pushbuttonInputChange .. | .keyInputChange .. | .closedTimerExpiry .. => [.rsl]
  | .pushbuttonFilterExpiry .. => [.smu, .eve, .swc, .rsl]
  | .stopRepeatExpiry .. => [.lnc, .rsl]
  | .recloseExpiry .. => [.swc, .smu, .rsl]
  | .memoWriteDone .. => [.smu]
  | .memoBusyTimeout .. => [.free, .smu]
  | .reset | .supplyLow _ | .supplyRun _ => [.free, .smu, .ssu, .eve, .sel, .prb, .lnc, .pvw, .swc, .rsl, .rpt]

/-- Every command but RESET and the supply commands settles a state that differs in its blocks alone. -/
theorem exec_blocks {c : Instr} (s : State) (hr : c ≠ .reset) (hl : ∀ u, c ≠ .supplyLow u) (hh : ∀ u, c ≠ .supplyRun u) :
    ∃ u : State, exec c s = .next u.settle ∧ Frame (commandBlocks c) (s.elapse c.wait) u := by
  cases c with
  | reset => exact absurd rfl hr
  | supplyLow u => exact absurd rfl (hl u)
  | supplyRun u => exact absurd rfl (hh u)
  | readingStart => exact ⟨_, rfl, State.startReading_frame _ _ _ _ _⟩
  | handOver => exact ⟨_, rfl, State.handOver_frame _ _ _⟩
  | listenEnd => exact ⟨_, rfl, State.listenEnd_frame _⟩
  | rememberedStopExpiry => exact ⟨_, rfl, whenStarted_frame (fun u => u.rememberedExpiry_frame) _⟩
  | intervalCompletion => exact ⟨_, rfl, whenStarted_frame (fun u => u.intervalCompletion_frame _) _⟩
  | characterTaken => exact ⟨_, rfl, whenStarted_frame (fun u => u.characterTaken_frame _ _ _) _⟩
  | characterGapExpiry => exact ⟨_, rfl, whenStarted_frame (fun u => u.characterGap_frame) _⟩
  | frameCompletion => exact ⟨_, rfl, whenStarted_frame (fun u => u.frameCompleted_frame) _⟩
  | idleGap => exact ⟨_, rfl, whenStarted_frame (fun u => u.idleGap_frame) _⟩
  | arbitrationLoss => exact ⟨_, rfl, whenStarted_frame (fun u => u.arbitrationLoss_frame _) _⟩
  | bitError => exact ⟨_, rfl, whenStarted_frame (fun u => u.bitError_frame _ _) _⟩
  | transmitCompleted => exact ⟨_, rfl, whenStarted_frame (fun u => u.transmitCompleted_frame _) _⟩
  | healthPeriodEnd => exact ⟨_, rfl, whenStarted_frame (fun u => u.healthPeriodEnd_frame) _⟩
  | silenceExpiry => exact ⟨_, rfl, whenStarted_frame (fun u => u.silence_frame) _⟩
  | peerSilenceExpiry => exact ⟨_, rfl, whenStarted_frame (fun u => u.peerSilence_frame _) _⟩
  | stuckLine => exact ⟨_, rfl, whenStarted_frame (fun u => u.stuckLine_frame _) _⟩
  | lineFreed => exact ⟨_, rfl, whenStarted_frame (fun u => u.lineFreed_frame) _⟩
  | breakRecognised => exact ⟨_, rfl, whenStarted_frame (fun u => u.breakRecognised_frame _) _⟩
  | breakDriveEnd => exact ⟨_, rfl, whenStarted_frame (fun u => u.breakDriveEnd_frame) _⟩
  | claimExpiry => exact ⟨_, rfl, whenStarted_frame (fun u => u.claimExpiry_frame _ _) _⟩
  | decisionPoint => exact ⟨_, rfl, whenStarted_frame (fun u => u.decideArc_frame) _⟩
  | groundDecision => exact ⟨_, rfl, whenStarted_frame (fun u => u.decideGround_frame) _⟩
  | yieldHoldExpiry => exact ⟨_, rfl, whenStarted_frame (fun u => u.yieldExpiry_frame) _⟩
  | recentDecisionExpiry => exact ⟨_, rfl, whenStarted_frame (fun u => u.recentExpiry_frame) _⟩
  | probeDueExpiry => exact ⟨_, rfl, whenStarted_frame (fun u => u.probeDue_frame) _⟩
  | dueRetry => exact ⟨_, rfl, whenStarted_frame (fun u => u.dueRetry_frame) _⟩
  | staggerExpiry => exact ⟨_, rfl, whenStarted_frame (fun u => u.stagger_frame) _⟩
  | referenceHalfEnd => exact ⟨_, rfl, whenStarted_frame (fun u => u.referenceHalfEnd_frame) _⟩
  | injectionStart => exact ⟨_, rfl, whenStarted_frame (fun u => u.injectionStart_frame) _⟩
  | injectionHalfEnd => exact ⟨_, rfl, whenStarted_frame (fun u => u.injectionHalfEnd_frame) _⟩
  | halfExpiry => exact ⟨_, rfl, whenStarted_frame (fun u => u.halfExpiry_frame) _⟩
  | wMaxExpiry => exact ⟨_, rfl, whenStarted_frame (fun u => u.wMax_frame) _⟩
  | statusPoint => exact ⟨_, rfl, whenStarted_frame (fun u => u.statusPoint_frame) _⟩
  | sourceReady => exact ⟨_, rfl, State.sourceReady_frame _⟩
  | rechargeExpiry => exact ⟨_, rfl, whenStarted_frame (fun u => u.rechargeExpiry_frame) _⟩
  | coilOver => exact ⟨_, rfl, whenStarted_frame (fun u => u.coilOver_frame) _⟩
  | pulseEnd => exact ⟨_, rfl, whenStarted_frame (fun u => u.pulseEnd_frame _) _⟩
  | contactFeedbackChange => exact ⟨_, rfl, State.contactChange_frame _ _ _⟩
  | confirmExpiry => exact ⟨_, rfl, whenStarted_frame (fun u => u.confirmExpiry_frame) _⟩
  | pushbuttonInputChange => exact ⟨_, rfl, State.buttonInput_frame _ _⟩
  | pushbuttonFilterExpiry => exact ⟨_, rfl, State.buttonExpiry_frame _⟩
  | keyInputChange => exact ⟨_, rfl, State.keyInput_frame _ _ _⟩
  | keyAcceptExpiry => exact ⟨_, rfl, State.keyAccepted_frame _ _⟩
  | stopRepeatExpiry => exact ⟨_, rfl, whenStarted_frame (fun u => u.stopRepeat_frame) _⟩
  | recloseExpiry => exact ⟨_, rfl, whenStarted_frame (fun u => u.recloseExpired_frame _) _⟩
  | closedTimerExpiry => exact ⟨_, rfl, whenStarted_frame (fun u => u.closedExpired_frame _) _⟩
  | memoWriteDone => exact ⟨_, rfl, State.memoDone_frame _ _ _ _⟩
  | memoBusyTimeout => exact ⟨_, rfl, State.memoTimeout_frame _⟩

/-- Only RESET and a supply command restart station time. -/
theorem exec_time {c : Instr} (s : State) (hr : c ≠ .reset) (hl : ∀ u, c ≠ .supplyLow u) (hh : ∀ u, c ≠ .supplyRun u) :
    ∃ t, exec c s = .next t ∧ t.pending = s.pending ∧ t.now = s.now.plus c.wait := by
  obtain ⟨u, hu, hpending, hnow, -⟩ := exec_blocks s hr hl hh
  exact ⟨_, hu, hpending, hnow⟩

/-- Settles O2. -/
theorem commandsCompleteInTheirTime : Obligations.CommandsCompleteInTheirTime := by
  intro c s
  by_cases hr : c = .reset
  · subst hr
    exact ⟨_, rfl, rfl, fun _ => rfl, fun h => absurd (.inl rfl) h⟩
  by_cases hl : ∃ u, c = .supplyLow u ∨ c = .supplyRun u
  · obtain ⟨u, hu⟩ := hl
    have hiff : (c = .reset ∨ (s.smu.phase ≠ .inReset ∧ ∃ u : SupplyWatch, (c = .supplyLow u ∨ c = .supplyRun u) ∧
        DropsToReset u.course)) ↔ s.smu.phase ≠ .inReset ∧ DropsToReset u.course := by
      rcases hu with rfl | rfl <;> simp
    rcases hu with rfl | rfl
    · obtain ⟨t, ht, hp, hn⟩ := State.watchSupply_time (s := s) (dt := u.dt) (course := u.course)
        (p := fun v => decide (v < supplyLowMv)) State.supplyLow_frame
      exact ⟨t, ht, hp, by rw [hiff]; exact hn⟩
    · obtain ⟨t, ht, hp, hn⟩ := State.watchSupply_time (s := s) (dt := u.dt) (course := u.course)
        (p := fun v => decide (supplyRunMv ≤ v)) State.supplyRun_frame
      exact ⟨t, ht, hp, by rw [hiff]; exact hn⟩
  · simp only [not_exists, not_or] at hl
    obtain ⟨t, ht, hp, hn⟩ := exec_time s hr (fun u => (hl u).1) (fun u => (hl u).2)
    refine ⟨t, ht, hp, fun h => ?_, fun _ => hn⟩
    rcases h with h | ⟨-, u, h, -⟩
    · exact absurd h hr
    · exact absurd h (by simpa using hl u)

/-! ### Blocks not yet started (R176) -/

theorem State.running_idle {s : State} {dt : Nat} {f : State → State} (h : s.started = false) :
    s.event dt (whenStarted f) = .next (s.elapse dt).settle := by
  simp [State.event, whenStarted, State.elapse_started, h]

theorem State.listenEnd_idle {s : State} (h : s.started = false) : s.listenEnd = s := by
  unfold State.listenEnd
  rw [if_neg]
  intro hc
  have hph : s.smu.phase = .listening := by
    simp only [Bool.and_eq_true, beq_iff_eq] at hc
    exact hc.1
  simp [State.started, hph] at h

/-- Settles O3: the effect of such a command stands under `whenStarted`, or under its own guard. -/
theorem blocksIdleBeforeHandOver : Obligations.BlocksIdleBeforeHandOver := by
  intro c s h hc
  have he := fun dt => (s.elapse_started dt).trans h
  cases c with
  | reset => cases hc
  | readingStart => cases hc
  | handOver => cases hc
  | supplyLow => cases hc
  | supplyRun => cases hc
  | sourceReady => cases hc
  | contactFeedbackChange => cases hc
  | pushbuttonInputChange => cases hc
  | keyInputChange => cases hc
  | memoWriteDone => cases hc
  | memoBusyTimeout => cases hc
  | listenEnd dt => simp [exec, execListenEnd, State.event, State.listenEnd_idle (he dt), Instr.wait]
  | pushbuttonFilterExpiry dt => simp [exec, execPushbuttonFilterExpiry, State.event, State.buttonExpiry, he dt, Instr.wait]
  | keyAcceptExpiry dt k => simp [exec, execKeyAcceptExpiry, State.event, State.keyAccepted, he dt, Instr.wait]
  | _ => exact State.running_idle h

/-! ### The settled outputs (R136, R157) -/

theorem State.boxTripCondition_iff (s : State) : s.boxTripCondition = true ↔ ∃ k : StringNo, k.val < s.smu.strings ∧
    (s.string k).state = .stuckClosed ∧ ((s.string k).holds.fault.isSome = true ∨ (s.string k).holds.stop.isSome = true) := by
  simp only [State.boxTripCondition, List.any_eq_true, State.mem_fittedStrings, Bool.and_eq_true, beq_iff_eq, Bool.or_eq_true]

theorem State.relayCondition_iff (s : State) : s.relayCondition = true ↔ s.started = true ∧
    (∀ k : StringNo, k.val < s.smu.strings →
      (s.string k).state = .closed ∧ s.sel.suspect[k] = false ∧ s.ssu.str[k].sensorFault = false) ∧
    (s.lnc.line ≠ .down ∧ s.lnc.line ≠ .stuck) ∧ s.smu.configDefault = false ∧ s.lnc.conflict = false ∧ s.smu.memoFault = false := by
  have hline : (s.lnc.line == .listen || s.lnc.line == .up || s.lnc.line == .degraded) = true ↔
      s.lnc.line ≠ .down ∧ s.lnc.line ≠ .stuck := by
    cases s.lnc.line <;> decide
  simp only [State.relayCondition, Bool.and_eq_true, hline, List.all_eq_true, State.mem_fittedStrings, State.stringHealthy, beq_iff_eq,
    Bool.not_eq_true', and_assoc]

theorem State.settle_settled (s : State) : OutputsSettled s.settle := by
  have hbox : s.settle.swc.boxTrip = s.boxTripCondition := rfl
  have hrelay : s.settle.rpt.relay = (s.relayCondition && !s.boxTripCondition) := rfl
  refine ⟨by rw [hbox]; exact s.boxTripCondition_iff, ?_⟩
  rw [hrelay, Bool.and_eq_true, Bool.not_eq_true', State.relayCondition_iff, hbox]
  constructor
  · rintro ⟨⟨hs, hk, ⟨hd, hst⟩, hc, hl, hm⟩, hb⟩
    exact ⟨hs, hk, hb, hd, hst, hc, hl, hm⟩
  · rintro ⟨hs, hk, hb, hd, hst, hc, hl, hm⟩
    exact ⟨⟨hs, hk, ⟨hd, hst⟩, hc, hl, hm⟩, hb⟩

/-- The reset state's outputs stand at their conditions: it settles to itself. -/
theorem State.afterReset_settled (s : State) : OutputsSettled s.afterReset := by
  rw [← s.afterReset_settle 0]
  exact State.settle_settled _

/-- Settles O6: every command ends by settling, or in the reset state. -/
theorem outputsSettleAtEveryCommand : Obligations.OutputsSettleAtEveryCommand := by
  intro c s t h
  cases c with
  | reset => cases h; exact s.afterReset_settled
  | _ => cases h; exact State.settle_settled _

/-- Settles O10. -/
theorem resetIsSound : Obligations.ResetIsSound := by
  refine ⟨⟨rfl, by decide, .nil⟩, ?_, ?_, ⟨by decide, .nil, by simp [State.reset, Pvw.atReset]⟩, rfl, ?_, fun k => ?_⟩
  · simp [QueueSound, State.reset, Lnc.atReset]
  · exact State.reset.settle_settled
  · simp [ProbeSound, State.reset, Prb.atReset]
  · simp [EvidenceInRange, State.reset, Evidence.atReset]

end Sys2Proof.Machine

/-! PROOFS. An interval's records lie in their ranges (R2 to R5), and the evidence of a set follows them (R10 to R13, R16 to R18). -/

namespace Sys2Proof.Machine

open Sys2Proof.Safety

/-! ### Clamped means (R2, R3) -/

theorem clampNat_zero (m : Nat) : clampNat 0 m = fun x => min m x := funext fun _ => Nat.zero_max _

theorem meanNat_eq_sum (xs : List Nat) (n : Nat) : meanNat xs n = xs.sum / n := by
  rw [meanNat, List.sum_eq_foldl]

theorem meanInt_eq_sum (xs : List Int) (n : Nat) : meanInt xs n = xs.sum.tdiv n := by
  rw [meanInt, List.sum_eq_foldl]

theorem sum_map_min_le (m : Nat) (xs : List Nat) : (xs.map fun x => min m x).sum ≤ m * xs.length := by
  induction xs with
  | nil => simp
  | cons x xs ih => simp only [List.map_cons, List.sum_cons, List.length_cons, Nat.mul_add]; omega

theorem mean_map_min_le {m : Nat} {xs : List Nat} (h : xs.length ≤ 40) : (xs.map fun x => min m x).sum / 40 ≤ m := by
  have hsum := sum_map_min_le m xs
  have hlen : m * xs.length ≤ m * 40 := Nat.mul_le_mul_left m h
  omega

theorem abs_sum_map_clamp_le {m : Int} (hm : 0 ≤ m) (xs : List Int) :
    |(xs.map fun x => max (-m) (min m x)).sum| ≤ m * xs.length := by
  induction xs with
  | nil => simp
  | cons x xs ih =>
    have hx : |max (-m) (min m x)| ≤ m := abs_le.mpr (by omega)
    simp only [List.map_cons, List.sum_cons, List.length_cons, Nat.cast_add, Nat.cast_one, mul_add, mul_one]
    linarith [abs_add_le (max (-m) (min m x)) (xs.map fun x => max (-m) (min m x)).sum]

theorem abs_mean_map_clamp_le {m : Int} (hm : 0 ≤ m) {xs : List Int} (h : xs.length = 40) :
    |(xs.map fun x => max (-m) (min m x)).sum.tdiv 40| ≤ m := by
  have hsum := abs_sum_map_clamp_le hm xs
  rw [h] at hsum
  rw [Int.abs_eq_natAbs] at hsum
  have hmean : ((xs.map fun x => max (-m) (min m x)).sum.tdiv 40).natAbs = (xs.map fun x => max (-m) (min m x)).sum.natAbs / 40 :=
    Int.natAbs_tdiv _ _
  rw [Int.abs_eq_natAbs, hmean]
  omega

/-! ### The interval record (R2, R3) and the ground record (R5) -/

theorem intervalRecord_current (x : StringSamples) :
    (intervalRecord x).current = (x.current.map fun i => max (-2000) (min 2000 i)).sum.tdiv 40 := meanInt_eq_sum _ _

theorem intervalRecord_energy (x : StringSamples) : (intervalRecord x).energy = (x.energy.map fun e => min 4095 e).sum / 40 := by
  simp only [intervalRecord, meanNat_eq_sum, clampNat_zero, samplesPerInterval]

theorem intervalRecord_residual (x : StringSamples) :
    (intervalRecord x).residual = (x.residual.map fun i => max (-2047) (min 2047 i)).sum.tdiv 40 := meanInt_eq_sum _ _

theorem intervalRecord_saturated (x : StringSamples) :
    (intervalRecord x).saturated = true ↔ (∃ i ∈ x.current, i < -2000 ∨ 2000 < i) ∨ ∃ e ∈ x.energy, 4095 < e := by
  simp [intervalRecord, clampedSample]

theorem intervalRecord_energy_le {x : StringSamples} (h : x.energy.length ≤ 40) : (intervalRecord x).energy ≤ 4095 :=
  (intervalRecord_energy x).trans_le (mean_map_min_le h)

theorem voltageMean_eq (xs : List Nat) : voltageMean xs = (xs.map fun v => min 1500 v).sum / 40 := by
  simp only [voltageMean, meanNat_eq_sum, clampNat_zero, samplesPerInterval]

theorem balanceOf_le (vpg vng : Nat) : balanceOf vpg vng ≤ 1000 := by
  unfold balanceOf
  split
  · omega
  · exact Nat.div_le_of_le_mul (by rw [Nat.mul_comm]; exact Nat.mul_le_mul_right 1000 (Nat.le_add_right _ _))

/-- Settles O22. -/
theorem recordLiesInRange : Obligations.RecordLiesInRange := by
  refine ⟨fun x hx => ?_, fun p n hp hn => ⟨?_, mean_map_min_le hp.le, mean_map_min_le hn.le, balanceOf_le _ _⟩⟩
  · simp only [StringSamples.wellFormed, Bool.and_eq_true, beq_iff_eq] at hx
    obtain ⟨⟨hcurrent, henergy⟩, hresidual⟩ := hx
    have hc := abs_le.mp (abs_mean_map_clamp_le (m := 2000) (by omega) hcurrent)
    have hr := abs_le.mp (abs_mean_map_clamp_le (m := 2047) (by omega) hresidual)
    rw [← intervalRecord_current] at hc
    rw [← intervalRecord_residual] at hr
    exact ⟨intervalRecord_current x, intervalRecord_energy x, intervalRecord_residual x, hc.1, hc.2,
      intervalRecord_energy_le henergy.le, hr.1, hr.2, intervalRecord_saturated x⟩
  · simp only [groundRecord, voltageMean_eq, balanceOf, Nat.add_eq_zero_iff]

/-! ### SENSOR_FAULT (R4) -/

theorem senseUpdate_saturated {c : SenseString} {r : IntervalRecord} (h : r.saturated = true) : senseUpdate c r =
    { satRun := min 3 (c.satRun + 1), clearRun := 0, sensorFault := c.sensorFault || decide (3 ≤ c.satRun + 1), record := r } :=
  if_pos h

theorem senseUpdate_clear {c : SenseString} {r : IntervalRecord} (h : r.saturated = false) (hf : c.sensorFault = false) :
    senseUpdate c r = { satRun := 0, clearRun := 0, sensorFault := false, record := r } := by
  simp [senseUpdate, h, hf]

theorem senseUpdate_clearing {c : SenseString} {r : IntervalRecord} (h : r.saturated = false) (hf : c.sensorFault = true) :
    senseUpdate c r = if 100 ≤ c.clearRun + 1 then { satRun := 0, clearRun := 0, sensorFault := false, record := r }
      else { satRun := 0, clearRun := c.clearRun + 1, sensorFault := true, record := r } := by
  simp [senseUpdate, h, hf]

/-- A fault that needs more than the records given stays; one that needs just as many is cleared by the last of them. -/
theorem foldl_senseUpdate_sensorFault {rs : List IntervalRecord} {c : SenseString} (hf : c.sensorFault = true)
    (hlen : c.clearRun + rs.length ≤ 100) (hlt : c.clearRun < 100) (hrs : ∀ x ∈ rs, x.saturated = false) :
    (rs.foldl senseUpdate c).sensorFault = decide (c.clearRun + rs.length < 100) := by
  induction rs generalizing c with
  | nil => simp [hf, hlt]
  | cons r rs ih =>
    have hr : r.saturated = false := hrs r (by simp)
    simp only [List.length_cons] at hlen
    rw [List.foldl_cons, senseUpdate_clearing hr hf]
    split
    · next hend =>
      have hnil : rs = [] := List.length_eq_zero_iff.mp (by omega)
      simp [hnil, hend]
    · next hmore =>
      rw [ih rfl (by simp; omega) (by simp; omega) fun x hx => hrs x (List.mem_cons_of_mem _ hx)]
      simp only [List.length_cons, decide_eq_decide]
      omega

/-- Settles O23. -/
theorem sensorFaultSetsAndClears : Obligations.SensorFaultSetsAndClears := by
  refine ⟨fun c rs hlen hsat => ?_, fun c r rs hf hr hlen hrs => ?_, fun c r hf hrun => ?_⟩
  · match rs, hlen with
    | [x, y, z], _ =>
      simp only [List.foldl_cons, List.foldl_nil, senseUpdate_saturated (hsat x (by simp)), senseUpdate_saturated (hsat y (by simp)),
        senseUpdate_saturated (hsat z (by simp)), Bool.or_eq_true, decide_eq_true_eq]
      omega
  · have hstart : (senseUpdate c r).clearRun = 0 ∧ (senseUpdate c r).sensorFault = true := by
      rw [senseUpdate_saturated hr, hf]
      exact ⟨rfl, rfl⟩
    rw [foldl_senseUpdate_sensorFault hstart.2 (by omega) (by omega) hrs, hstart.1, Nat.zero_add]
  · by_cases hr : r.saturated = true
    · simp only [senseUpdate_saturated hr, hf, Bool.false_or, decide_eq_false_iff_not]
      omega
    · rw [senseUpdate_clear (by simpa using hr) hf]

/-! ### Steps 1 to 4 of a set (R10 to R13) -/

section Observe
variable (e : Evidence) (x : SetInput) (m : Nat)

theorem Evidence.observe_loaded (h : e.learnPending = true) : e.observe x m = { e with
    base := 16 * x.record.energy, learning := 100, learnPending := false, score := 10, evid := 0, eligible := false } := by
  simp [Evidence.observe, Evidence.learn, h, scoreOf]

theorem Evidence.learn_of_not_pending (h : e.learnPending = false) :
    e.learn x = if x.closed = true then { e with learning := e.learning - 1 } else e := by
  simp [Evidence.learn, h]

theorem Evidence.observe_of_not_pending (h : e.learnPending = false) :
    let l := if x.closed = true then e.learning - 1 else e.learning
    e.observe x m = { e with
      learning := l, score := scoreOf l e.base x.record.energy
      eligible := x.closed && !x.sensorFault && l == 0 && decide ((m : Int) ≤ x.record.current) } := by
  simp only [Evidence.observe, e.learn_of_not_pending x h]
  split <;> rfl

end Observe

theorem scoreOf_eq (learning base energy : Nat) :
    scoreOf learning base energy = if learning = 0 then min 250 (160 * energy / max base 128) else 10 := by
  simp only [scoreOf, ite_not]

theorem scoreOf_le (learning base energy : Nat) : scoreOf learning base energy ≤ 250 := by
  rw [scoreOf_eq]
  split <;> omega

/-- Settles O25. -/
theorem observationFollowsLearningAndScore : Obligations.ObservationFollowsLearningAndScore := by
  refine fun e x m => ⟨e.observe_loaded x m, fun h => ?_⟩
  rw [e.observe_of_not_pending x m h]
  refine ⟨rfl, rfl, rfl, rfl, rfl, rfl, scoreOf_eq _ _ _, ?_⟩
  simp only [Bool.and_eq_true, Bool.not_eq_true', beq_iff_eq, decide_eq_true_eq, and_assoc]

/-! ### Steps 6 to 8 of a set (R16 to R18) -/

theorem baseStep_le (base energy : Nat) : baseStep base energy ≤ 65520 := by
  simp only [baseStep, clampInt]
  omega

theorem leaky_le {n : Nat} (h : n ≤ 255) (up : Bool) : leaky n up ≤ 255 := by
  cases up
  · rw [leaky_false]; omega
  · exact Nat.min_le_left _ _

theorem runPeak_at_rest (q peak evid : Nat) : runPeak q 0 peak evid = 0 := rfl

theorem runPeak_le {q q' peak evid : Nat} (hp : peak ≤ 250) (he : evid ≤ 250) : runPeak q q' peak evid ≤ 250 := by
  unfold runPeak
  split
  · omega
  · split <;> omega

section Conclude
variable (e : Evidence) (i : SetInput) (loaded : Bool) (median : Option Nat) (c : Settings)

theorem Evidence.conclude_base : (e.conclude i loaded median c).base =
    if loaded = true ∨ frozen i (e.conclude i loaded median c).evid c.iMinArc c.arcOnset = true then e.base
      else baseStep e.base i.record.energy := by
  simp only [← Bool.or_eq_true]
  rfl

theorem Evidence.conclude_qr : (e.conclude i loaded median c).qr =
    leaky e.qr (i.closed && decide (i.record.current ≤ -(c.revLim : Int))) := rfl

theorem Evidence.conclude_qo : (e.conclude i loaded median c).qo =
    leaky e.qo (i.closed && decide ((c.ocLim : Int) ≤ i.record.current)) := rfl

theorem Evidence.conclude_base_le (h : e.base ≤ 65520) : (e.conclude i loaded median c).base ≤ 65520 := by
  rw [Evidence.conclude_base]
  split
  · exact h
  · exact baseStep_le _ _

theorem Evidence.conclude_peak_at_rest (h : (e.conclude i loaded median c).q = 0) : (e.conclude i loaded median c).peak = 0 := by
  rw [Evidence.conclude_peak, h, runPeak_at_rest]

end Conclude

theorem frozen_iff (x : SetInput) (evid iMinArc arcOnset : Nat) : frozen x evid iMinArc arcOnset = true ↔
    x.closed = false ∨ x.sensorFault = true ∨ x.record.current < iMinArc ∨ arcOnset ≤ evid ∨ x.arcString = true := by
  simp only [frozen, Bool.or_eq_true, Bool.not_eq_true', decide_eq_true_eq, or_assoc]

theorem leaky_eq (n : Nat) (up : Bool) : leaky n up = if up = true then min 255 (n + 1) else n - 1 := rfl

/-- Settles O28. -/
theorem baselineAndCountersFollowRecord : Obligations.BaselineAndCountersFollowRecord := by
  intro e i loaded median c t
  refine ⟨?_, e.conclude_base_le i loaded median c, ?_, ?_, e.conclude_peak_at_rest i loaded median c, rfl, rfl, rfl, rfl⟩
  · simp only [t, e.conclude_base i loaded median c, frozen_iff, baseStep]
  · simp only [t, Evidence.conclude_qr, leaky_eq, Bool.and_eq_true, decide_eq_true_eq]
  · simp only [t, Evidence.conclude_qo, leaky_eq, Bool.and_eq_true, decide_eq_true_eq]

/-! ### The ranges of an entry (R8) -/

theorem Evidence.observe_inRange {e : Evidence} (he : EvidenceInRange e) {x : SetInput} (hx : x.record.energy ≤ 4095) (m : Nat) :
    EvidenceInRange (e.observe x m) := by
  obtain ⟨hlearn, hbase, -, hevid, hrest⟩ := he
  by_cases hp : e.learnPending = true
  · rw [e.observe_loaded x m hp]
    exact ⟨le_rfl, by simp only; omega, by simp, by simp, hrest⟩
  · rw [e.observe_of_not_pending x m (by simpa using hp)]
    exact ⟨by simp only; split <;> omega, hbase, scoreOf_le _ _ _, hevid, hrest⟩

theorem Evidence.conclude_inRange {e : Evidence} (he : EvidenceInRange e) (i : SetInput) (loaded : Bool) (median : Option Nat)
    (c : Settings) : EvidenceInRange (e.conclude i loaded median c) := by
  obtain ⟨hlearn, hbase, hscore, -, hq, hpeak, hqr, hqo, -⟩ := he
  have hevid : (e.conclude i loaded median c).evid ≤ 250 := (evidenceOf_le_score _ _ _).trans hscore
  exact ⟨hlearn, e.conclude_base_le i loaded median c hbase, hscore, hevid, leaky_le hq _, runPeak_le hpeak hevid, leaky_le hqr _,
    leaky_le hqo _, e.conclude_peak_at_rest i loaded median c⟩

end Sys2Proof.Machine

/-! PROOFS. What the SMU keeps while its memo queue and writer move: everything else of it. -/

namespace Sys2Proof.Machine

/-- The SMU but for its memo queue and writer: what no hold, confirmation or stop moves. -/
def Smu.withoutMemos (u : Smu) : Smu := { u with memoQueue := [], writer := none }

section Fields
variable {s t : State} (h : t.smu.withoutMemos = s.smu.withoutMemos)
include h

theorem phase_of_withoutMemos : t.smu.phase = s.smu.phase :=
  show t.smu.withoutMemos.phase = s.smu.withoutMemos.phase by rw [h]
theorem supply_of_withoutMemos : t.smu.supply = s.smu.supply :=
  show t.smu.withoutMemos.supply = s.smu.withoutMemos.supply by rw [h]
theorem address_of_withoutMemos : t.smu.address = s.smu.address :=
  show t.smu.withoutMemos.address = s.smu.withoutMemos.address by rw [h]
theorem strings_of_withoutMemos : t.smu.strings = s.smu.strings :=
  show t.smu.withoutMemos.strings = s.smu.withoutMemos.strings by rw [h]
theorem settings_of_withoutMemos : t.smu.settings = s.smu.settings :=
  show t.smu.withoutMemos.settings = s.smu.withoutMemos.settings by rw [h]
theorem mem_of_withoutMemos : t.smu.mem = s.smu.mem :=
  show t.smu.withoutMemos.mem = s.smu.withoutMemos.mem by rw [h]
theorem rememberedAt_of_withoutMemos : t.smu.rememberedAt = s.smu.rememberedAt :=
  show t.smu.withoutMemos.rememberedAt = s.smu.withoutMemos.rememberedAt by rw [h]

theorem fittedStrings_of_withoutMemos : t.fittedStrings = s.fittedStrings := by
  unfold State.fittedStrings State.fitted
  rw [strings_of_withoutMemos h]

theorem started_of_withoutMemos : t.started = s.started := by
  unfold State.started
  rw [phase_of_withoutMemos h]

end Fields

/-! ### Doing the same for each string -/

/-- What each turn keeps, the whole round keeps. -/
theorem forStrings_keeps {α : Type} (p : State → α) {ks : List StringNo} {f : State → StringNo → State} (s : State)
    (hf : ∀ u k, p (f u k) = p u) : p (forStrings ks f s) = p s := by
  unfold forStrings
  induction ks generalizing s with
  | nil => rfl
  | cons k ks ih => exact (ih (f s k)).trans (hf s k)

/-! ### The operations that move the memo queue or the writer -/

theorem Frame.withoutMemos {bs : List Block} {s t : State} (h : Frame bs s t) (hb : Block.smu ∉ bs) :
    t.smu.withoutMemos = s.smu.withoutMemos := congrArg Smu.withoutMemos (h.keeps .smu hb)

section Operations
variable (s : State)

@[simp] theorem State.kickMemo_withoutMemos : s.kickMemo.smu.withoutMemos = s.smu.withoutMemos := by
  rw [s.kickMemo_smu]
  rfl

@[simp] theorem State.askMemo_withoutMemos (k : StringNo) (v : MemoValue) : (s.askMemo k v).smu.withoutMemos = s.smu.withoutMemos :=
  State.kickMemo_withoutMemos _

@[simp] theorem State.kickDrive_withoutMemos : s.kickDrive.smu.withoutMemos = s.smu.withoutMemos :=
  s.kickDrive_frame.withoutMemos (by simp)

@[simp] theorem State.queueOpen_withoutMemos (k : StringNo) (c : OpenCause) (d : HoldDetail) :
    (s.queueOpen k c d).smu.withoutMemos = s.smu.withoutMemos := (s.queueOpen_frame k c d).withoutMemos (by simp)

@[simp] theorem State.queueClose_withoutMemos (k : StringNo) : (s.queueClose k).smu.withoutMemos = s.smu.withoutMemos :=
  (s.queueClose_frame k).withoutMemos (by simp)

@[simp] theorem State.updateMemo_withoutMemos (k : StringNo) : (s.updateMemo k).smu.withoutMemos = s.smu.withoutMemos := by
  simp only [State.updateMemo]
  split <;> simp

@[simp] theorem State.addHold_withoutMemos (k : StringNo) (h : HoldRequest) :
    (s.addHold k h).smu.withoutMemos = s.smu.withoutMemos := by
  unfold State.addHold
  split
  case h_3 => split <;> simp
  all_goals simp

@[simp] theorem State.releaseHold_withoutMemos (k : StringNo) (x : Release) :
    (s.releaseHold k x).smu.withoutMemos = s.smu.withoutMemos := by
  simp only [State.releaseHold]
  repeat' split
  all_goals simp

@[simp] theorem State.releaseFault_withoutMemos (k : StringNo) : (s.releaseFault k).smu.withoutMemos = s.smu.withoutMemos := by
  unfold State.releaseFault
  split
  · rfl
  · simp [State.stopReclose]

@[simp] theorem State.takenClosed_withoutMemos (k : StringNo) : (s.takenClosed k).smu.withoutMemos = s.smu.withoutMemos := by
  simp [State.takenClosed]

@[simp] theorem State.freshAttempt_withoutMemos (k : StringNo) : (s.freshAttempt k).smu.withoutMemos = s.smu.withoutMemos := by
  unfold State.freshAttempt
  repeat' split
  all_goals simp

@[simp] theorem State.press_withoutMemos : s.press.smu.withoutMemos = s.smu.withoutMemos := by
  unfold State.press
  rw [forStrings_keeps (fun t => t.smu.withoutMemos) _ fun u k => State.freshAttempt_withoutMemos u k]
  exact forStrings_keeps (fun t => t.smu.withoutMemos) _ fun u k => by simp

@[simp] theorem State.becomeStuck_withoutMemos (k : StringNo) (x : StringState) :
    (s.becomeStuck k x).smu.withoutMemos = s.smu.withoutMemos := by
  unfold State.becomeStuck
  rw [(State.selStuck_frame _ _).withoutMemos (by simp)]
  simp

@[simp] theorem State.mismatchTest_withoutMemos (k : StringNo) : (s.mismatchTest k).smu.withoutMemos = s.smu.withoutMemos := by
  unfold State.mismatchTest
  repeat' split
  all_goals simp

@[simp] theorem State.initialSetting_withoutMemos (k : StringNo) (c : Bool) (v : Option MemoValue) :
    (s.initialSetting k c v).smu.withoutMemos = s.smu.withoutMemos := by
  simp only [State.initialSetting]
  repeat' split
  all_goals simp [(State.startReclose_frame _ _).withoutMemos]

@[simp] theorem State.handTrips_withoutMemos (e : PerString Evidence) : (s.handTrips e).smu.withoutMemos = s.smu.withoutMemos :=
  forStrings_keeps (fun t => t.smu.withoutMemos) _ fun u k => by split <;> simp

@[simp] theorem State.requestHold_withoutMemos (x : IncidentKind) (k : StringNo) (h : FaultHold) :
    (s.requestHold x k h).smu.withoutMemos = s.smu.withoutMemos := by
  simp only [State.requestHold]
  split
  · rw [(State.closeIncident_frame _ _).withoutMemos (by simp), State.addHold_withoutMemos]
  · rw [State.addHold_withoutMemos]

@[simp] theorem State.releaseStops_withoutMemos : s.releaseStops.smu.withoutMemos = s.smu.withoutMemos :=
  forStrings_keeps (fun t => t.smu.withoutMemos) _ fun u k => by simp

@[simp] theorem State.removeStop_withoutMemos (a : Nat) : (s.removeStop a).smu.withoutMemos = s.smu.withoutMemos := by
  simp only [State.removeStop]
  repeat' split
  all_goals simp

@[simp] theorem State.releaseRemembered_withoutMemos : s.releaseRemembered.smu.withoutMemos = s.smu.withoutMemos :=
  forStrings_keeps (fun t => t.smu.withoutMemos) _ fun u k => by simp

@[simp] theorem State.eveInterval_withoutMemos : s.eveInterval.smu.withoutMemos = s.smu.withoutMemos := by
  have htrips : (s.evidenceUpdate.handTrips s.eve).smu.withoutMemos = s.smu.withoutMemos := by
    rw [State.handTrips_withoutMemos, s.evidenceUpdate_frame.withoutMemos (by simp)]
  simp only [State.eveInterval]
  repeat' split
  · exact htrips
  · exact htrips
  · rw [(State.arcOnset_frame _ _).withoutMemos (by simp), htrips]

end Operations

end Sys2Proof.Machine

/-! PROOFS. The evidence table keeps its ranges under every command that can occur (R8), and what an interval's completion forms and
passes on (R1, R4 to R9, R19 to R21, R155). -/

namespace Sys2Proof.Machine

open Sys2Proof.Safety

/-! ### The evidence table in a set -/

theorem State.setEvidence_other (s : State) {j k : StringNo} (f : Evidence → Evidence) (h : j ≠ k) :
    (s.setEvidence k f).eve[j] = s.eve[j] := modifyAt_other _ _ _ _ h

/-- A round that changes one entry a turn changes the entries of its strings, each from what it was. -/
theorem forStrings_setEvidence {ks : List StringNo} (hks : ks.Nodup) (g : StringNo → Evidence → Evidence) (s : State) (j : StringNo) :
    (forStrings ks (fun t k => t.setEvidence k (g k)) s).eve[j] = if j ∈ ks then g j s.eve[j] else s.eve[j] := by
  obtain ⟨-, hout, hin⟩ := forStrings_at (fun t j => t.eve[j]) (fun _ => True) (fun t k => t.setEvidence k (g k))
    (fun t k j _ h => t.setEvidence_other (g k) h) (fun _ _ _ => trivial) ks hks s trivial j
  split
  · next h =>
    obtain ⟨t, -, hget, hset⟩ := hin h
    rw [hset, State.setEvidence_same, hget]
  · next h => exact hout h

theorem State.observeAll_eve (s : State) (k : StringNo) : s.observeAll.eve[k] =
    if k.val < s.smu.strings then s.eve[k].observe (s.setInput k) s.smu.settings.iMinArc else s.eve[k] := by
  unfold State.observeAll
  rw [forStrings_setEvidence s.nodup_fittedStrings fun k e => e.observe (s.setInput k) s.smu.settings.iMinArc]
  simp only [State.mem_fittedStrings]

/-- The scores are those of the observations of the fitted strings (R14). -/
theorem State.observeAll_eligibleScores {s : State} {g : StringNo → Evidence}
    (hg : ∀ k : StringNo, k.val < s.smu.strings → s.observeAll.eve[k] = g k) :
    s.observeAll.eligibleScores = (s.fittedStrings.filter fun j => (g j).eligible).map fun j => (g j).score := by
  have hfitted : s.observeAll.fittedStrings = s.fittedStrings :=
    fittedStrings_of_withoutMemos (s.observeAll_frame.withoutMemos (by simp))
  have hget : ∀ j ∈ s.fittedStrings, s.observeAll.eve[j] = g j := fun j hj => hg j ((s.mem_fittedStrings j).1 hj)
  rw [State.eligibleScores, hfitted, List.filter_congr fun j hj => by rw [hget j hj]]
  exact List.map_congr_left fun j hj => by rw [hget j (List.mem_filter.1 hj).1]

theorem State.evidenceUpdate_eve (s : State) (k : StringNo) : s.evidenceUpdate.eve[k] =
    if k.val < s.smu.strings then s.observeAll.eve[k].conclude (s.setInput k) s.eve[k].learnPending
      (boxMedian s.observeAll.eligibleScores) s.smu.settings else s.eve[k] := by
  simp only [State.evidenceUpdate]
  rw [forStrings_setEvidence s.nodup_fittedStrings fun k e => e.conclude (s.setInput k) s.eve[k].learnPending
      (boxMedian s.observeAll.eligibleScores) s.smu.settings]
  simp only [State.mem_fittedStrings]
  split
  · rfl
  · next h => rw [State.observeAll_eve, if_neg h]

/-- The trips and the onset leave the evidence of the set. -/
theorem State.eveInterval_eve (s : State) : s.eveInterval.eve = s.evidenceUpdate.eve := by
  have htrips : (s.evidenceUpdate.handTrips s.eve).eve = s.evidenceUpdate.eve := (State.handTrips_frame _ _).keeps .eve (by simp)
  simp only [State.eveInterval]
  repeat' split
  · exact htrips
  · exact htrips
  · exact ((State.arcOnset_frame _ _).keeps .eve (by simp)).trans htrips

theorem State.intervalCompletion_of_over {s : State} (x : IntervalSamples) (h : s.intervalOver = true) : s.intervalCompletion x =
    forStrings ((s.formInterval x).eveInterval.probeInterval).fittedStrings State.mismatchTest
      ((s.formInterval x).eveInterval.probeInterval) := if_pos h

theorem State.intervalCompletion_of_not_over {s : State} (x : IntervalSamples) (h : s.intervalOver = false) : s.intervalCompletion x = s :=
  if_neg (by simp [h])

/-- The probe and the mismatch tests leave what the EVE made of the set. -/
theorem State.intervalCompletion_eve {s : State} (x : IntervalSamples) (h : s.intervalOver = true) :
    (s.intervalCompletion x).eve = (s.formInterval x).evidenceUpdate.eve := by
  rw [State.intervalCompletion_of_over x h, forStrings_keeps State.eve _ fun u k => (u.mismatchTest_frame k).keeps .eve (by simp),
    (State.probeInterval_frame _).keeps .eve (by simp), State.eveInterval_eve]

/-! ### The set (R1 to R6) -/

theorem State.formInterval_str (s : State) (x : IntervalSamples) (k : StringNo) : (s.formInterval x).ssu.str[k] =
    if k.val < s.smu.strings then senseUpdate s.ssu.str[k] (intervalRecord (samplesOf x k)) else s.ssu.str[k] := by
  unfold State.formInterval
  obtain ⟨-, hout, hin⟩ := forStrings_at (fun t j => t.ssu.str[j]) (fun _ => True)
    (fun t k => { t with ssu := { t.ssu with
      str := modifyAt t.ssu.str k fun c => senseUpdate c (intervalRecord (samplesOf x k)) } })
    (fun t k j _ h => modifyAt_other _ _ _ _ h) (fun _ _ _ => trivial) s.fittedStrings s.nodup_fittedStrings
    { s with ssu := { s.ssu with ground := groundRecord x.vpg x.vng, intervalStart := some s.now,
                                 probeV := voltageMean x.sense, probeI := injectorMean x.injector } } trivial k
  rw [State.mem_fittedStrings] at hout hin
  split
  · next h =>
    obtain ⟨t, -, hget, hset⟩ := hin h
    rw [hset, modifyAt_same, hget]
  · next h => exact hout h

theorem State.formInterval_means (s : State) (x : IntervalSamples) :
    (s.formInterval x).ssu.ground = groundRecord x.vpg x.vng ∧ (s.formInterval x).ssu.intervalStart = some s.now ∧
    (s.formInterval x).ssu.probeV = voltageMean x.sense ∧ (s.formInterval x).ssu.probeI = injectorMean x.injector := by
  unfold State.formInterval
  refine ⟨forStrings_keeps (fun t => t.ssu.ground) _ ?_, forStrings_keeps (fun t => t.ssu.intervalStart) _ ?_,
    forStrings_keeps (fun t => t.ssu.probeV) _ ?_, forStrings_keeps (fun t => t.ssu.probeI) _ ?_⟩ <;> exact fun _ _ => rfl

theorem injectorMean_eq (xs : List Int) : injectorMean xs = (xs.map fun i => max (-4095) (min 4095 i)).sum.tdiv 40 := meanInt_eq_sum _ _

/-- Beyond the set the interval's completion moves nothing of the SSU. -/
theorem State.intervalCompletion_ssu {s : State} (x : IntervalSamples) (h : s.intervalOver = true) :
    (s.intervalCompletion x).ssu = (s.formInterval x).ssu := by
  rw [State.intervalCompletion_of_over x h, forStrings_keeps State.ssu _ fun u k => (u.mismatchTest_frame k).keeps .ssu (by simp),
    (State.probeInterval_frame _).keeps .ssu (by simp), (State.eveInterval_frame _).keeps .ssu (by simp)]

/-- What the trips and the probe leave of the SMU: all but its memo queue and writer. -/
theorem State.intervalChain_withoutMemos (s : State) (x : IntervalSamples) :
    ((s.formInterval x).eveInterval.probeInterval).smu.withoutMemos = s.smu.withoutMemos := by
  rw [(State.probeInterval_frame _).withoutMemos (by simp), State.eveInterval_withoutMemos, (s.formInterval_frame x).withoutMemos (by simp)]

theorem State.intervalCompletion_withoutMemos (s : State) (x : IntervalSamples) :
    (s.intervalCompletion x).smu.withoutMemos = s.smu.withoutMemos := by
  by_cases h : s.intervalOver = true
  · rw [State.intervalCompletion_of_over x h, forStrings_keeps (fun t => t.smu.withoutMemos) _ fun u k => u.mismatchTest_withoutMemos k,
      State.intervalChain_withoutMemos]
  · rw [State.intervalCompletion_of_not_over x (by simpa using h)]

theorem State.elapse_intervalOver {s : State} {b : Time} (h : s.ssu.intervalStart = some b) (dt : Nat) :
    (s.elapse dt).intervalOver = reached (s.now.plus dt) (b.plus 10) := by
  simp [State.intervalOver, h, expired, intervalMs]

/-- What a string brings into the set formed of the samples (R9). -/
def State.sampledInput (s : State) (x : IntervalSamples) (k : StringNo) : SetInput where
  record := intervalRecord (samplesOf x k)
  sensorFault := (senseUpdate s.ssu.str[k] (intervalRecord (samplesOf x k))).sensorFault
  closed := (s.string k).state == .closed
  arcString := s.sel.arc.map (·.string) == some k

theorem State.formInterval_setInput {s : State} (x : IntervalSamples) {k : StringNo} (h : k.val < s.smu.strings) :
    (s.formInterval x).setInput k = s.sampledInput x k := by
  have hframe := s.formInterval_frame x
  have hrecord : (senseUpdate s.ssu.str[k] (intervalRecord (samplesOf x k))).record = intervalRecord (samplesOf x k) := by
    unfold senseUpdate
    repeat' split
    all_goals rfl
  have hsel : (s.formInterval x).sel = s.sel := hframe.keeps .sel (by simp)
  simp only [State.setInput, State.sampledInput, s.formInterval_str x k, if_pos h, hrecord, State.string_of_swc (hframe.keeps .swc (by simp)) k, hsel]

/-- Settles O24: the chain of the completion, with what each part of it leaves. -/
theorem intervalFormsRecordsAndEvidence : Obligations.IntervalFormsRecordsAndEvidence := by
  intro dt x s b hs hb
  have hexec : exec (.intervalCompletion dt x) s = .next ((s.elapse dt).intervalCompletion x).settle := by
    show State.event _ _ _ = _
    rw [State.event_next, whenStarted_of _ _ (by rwa [State.elapse_started])]
  have hover := State.elapse_intervalOver hb dt
  refine ⟨fun h => ?_, fun h => ?_⟩
  · rw [h] at hover
    have hframe := (s.elapse dt).formInterval_frame x
    have hsmu : ((s.elapse dt).formInterval x).smu = s.smu := hframe.keeps .smu (by simp)
    have hssu := State.intervalCompletion_ssu x hover
    obtain ⟨hground, hstart, hv, hi⟩ := (s.elapse dt).formInterval_means x
    have heve : ((s.elapse dt).formInterval x).eve = s.eve := hframe.keeps .eve (by simp)
    refine ⟨_, hexec, ?_, ?_, ?_, ?_, ?_, ?_, ?_, fun k => ⟨fun hk => ⟨?_, ?_⟩, fun hk => ⟨?_, ?_⟩⟩⟩
    · rw [State.intervalCompletion_of_over x hover, fittedStrings_of_withoutMemos (State.intervalChain_withoutMemos _ x)]
      rfl
    · rw [State.settle_ssu, hssu, hv, voltageMean_eq]
    · rw [State.settle_ssu, hssu, hi, injectorMean_eq]
    · rw [State.settle_ssu, hssu, hstart]
      rfl
    · rw [State.settle_ssu, hssu, hground]
    · exact (State.intervalCompletion_frame _ x).keeps .pvw (by simp)
    · exact mem_of_withoutMemos (s := s) (State.intervalCompletion_withoutMemos (s.elapse dt) x)
    · rw [State.settle_ssu, hssu, State.formInterval_str, if_neg (by simpa using hk)]
      rfl
    · rw [State.settle_eve, State.intervalCompletion_eve x hover, State.evidenceUpdate_eve, hsmu, heve, if_neg (by simpa using hk)]
    · rw [State.settle_ssu, hssu, State.formInterval_str, if_pos (by simpa using hk)]
      rfl
    · have hobserved : ∀ j : StringNo, j.val < s.smu.strings → ((s.elapse dt).formInterval x).observeAll.eve[j] =
          s.eve[j].observe ((s.elapse dt).sampledInput x j) s.smu.settings.iMinArc := fun j hj => by
        rw [State.observeAll_eve, hsmu, heve, if_pos hj, State.formInterval_setInput (s := s.elapse dt) x hj]
      rw [State.settle_eve, State.intervalCompletion_eve x hover, State.evidenceUpdate_eve, hsmu, heve, if_pos hk, hobserved k hk,
        State.formInterval_setInput (s := s.elapse dt) x hk,
        State.observeAll_eligibleScores (g := fun j => s.eve[j].observe ((s.elapse dt).sampledInput x j) s.smu.settings.iMinArc)
          fun j hj => hobserved j (by rwa [hsmu] at hj), fittedStrings_of_withoutMemos (s := s) (congrArg Smu.withoutMemos hsmu)]
      rfl
  · rw [h] at hover
    rw [hexec, State.intervalCompletion_of_not_over x hover]

end Sys2Proof.Machine

/-! PROOFS. The evidence table keeps its ranges under every command that can occur (R8). -/

namespace Sys2Proof.Machine

open Sys2Proof.Safety

/-- Every entry of the String Evidence Table lies in its ranges. -/
def EvidenceSound (s : State) : Prop := ∀ k : StringNo, EvidenceInRange s.eve[k]

theorem EvidenceSound.of_eve {s t : State} (h : EvidenceSound s) (ht : t.eve = s.eve) : EvidenceSound t := by
  intro k
  rw [ht]
  exact h k

/-- What does not change the evidence table keeps its ranges. -/
theorem Frame.evidenceSound {bs : List Block} {s t : State} (hf : Frame bs s t) (hb : Block.eve ∉ bs) (h : EvidenceSound s) :
    EvidenceSound t := h.of_eve (hf.keeps .eve hb)

theorem evidenceSound_forStrings {ks : List StringNo} {f : State → StringNo → State}
    (hf : ∀ u k, EvidenceSound u → EvidenceSound (f u k)) {s : State} (h : EvidenceSound s) : EvidenceSound (forStrings ks f s) := by
  unfold forStrings
  induction ks generalizing s with
  | nil => exact h
  | cons k ks ih => exact ih (hf s k h)

/-! ### Strings taken as CLOSED: a learn load asked (R10, R152) -/

section Closing
variable {s : State} (h : EvidenceSound s)
include h

theorem State.takenClosed_evidence (k : StringNo) : EvidenceSound (s.takenClosed k) := by
  intro j
  have heve : (s.takenClosed k).eve = modifyAt s.eve k fun e => { e with learnPending := true } := by
    simp only [State.takenClosed, State.setRelease_eve, State.setEvidence_eve]
    rw [(State.askMemo_frame _ _ _).keeps .eve (by simp)]
    rfl
  rw [heve, modifyAt_get]
  split
  · exact h k
  · exact h j

theorem State.closeConfirmed_evidence (k : StringNo) : EvidenceSound (s.closeConfirmed k) := by
  have htaken := State.takenClosed_evidence h k
  simp only [State.closeConfirmed]
  split
  · exact htaken
  · exact (State.queueOpen_frame _ _ _ _).evidenceSound (by simp) htaken

theorem State.attemptConfirmed_evidence (k : StringNo) (d : Direction) : EvidenceSound (s.attemptConfirmed k d) := by
  have hidle : EvidenceSound s.engineIdle := h
  simp only [State.attemptConfirmed]
  split
  · exact (State.kickDrive_frame _).evidenceSound (by simp) hidle
  · cases d with
    | toOpen =>
      exact (State.kickDrive_frame _).evidenceSound (by simp) ((State.openConfirmed_frame _ _ _).evidenceSound (by simp) hidle)
    | toClose => exact (State.kickDrive_frame _).evidenceSound (by simp) (State.closeConfirmed_evidence hidle k)

theorem State.freshAttempt_evidence (k : StringNo) : EvidenceSound (s.freshAttempt k) := by
  unfold State.freshAttempt
  split
  · split
    · exact State.takenClosed_evidence h k
    · exact (State.queueOpen_frame _ _ _ _).evidenceSound (by simp) h
  · split
    · exact (State.queueClose_frame _ _).evidenceSound (by simp) h
    · exact h
  all_goals exact h

theorem State.press_evidence : EvidenceSound s.press := by
  have hrelease := frame_forStrings (bs := [.swc, .smu, .rsl]) (ks := s.fittedStrings)
    (f := fun t k => (t.releaseFault k).releaseHold k .service) s fun t k =>
      (t.releaseFault_frame k).trans ((State.releaseHold_frame _ _ _).mono (by simp))
  exact evidenceSound_forStrings (fun u k hu => State.freshAttempt_evidence hu k) (hrelease.evidenceSound (by simp) h)

theorem State.buttonExpiry_evidence : EvidenceSound s.buttonExpiry := by
  unfold State.buttonExpiry
  split
  · split
    · exact h
    · exact h
    · exact State.press_evidence h
    · exact h
  · exact h

theorem State.pulseEnd_evidence (r : CoilReading) : EvidenceSound (s.pulseEnd r) := by
  have hends : EvidenceSound s.pulseEnds := h
  simp only [State.pulseEnd]
  repeat' split
  · exact (State.attemptFailed_frame _ _ _).evidenceSound (by simp) hends
  · exact State.attemptConfirmed_evidence hends _ _
  all_goals exact h

theorem State.contactChange_evidence (k : StringNo) (c : Bool) : EvidenceSound (s.contactChange k c) := by
  have hcontact := (frame_swc [.swc] s s { s.swc with contact := modifyAt s.swc.contact k fun _ => c } (by simp)).2 (.refl _ _)
  have hs := hcontact.evidenceSound (by simp) h
  unfold State.contactChange
  dsimp only
  repeat' split
  · exact State.attemptConfirmed_evidence hs _ _
  all_goals exact hs

/-! ### The set of an interval (R9 to R18) -/

theorem State.intervalCompletion_evidence {x : IntervalSamples} (hx : x.wellFormed = true) :
    EvidenceSound (s.intervalCompletion x) := by
  by_cases hover : s.intervalOver = true
  · have henergy (k : StringNo) : (intervalRecord (samplesOf x k)).energy ≤ 4095 := by
      simp only [IntervalSamples.wellFormed, Bool.and_eq_true, beq_iff_eq, List.all_eq_true] at hx
      obtain ⟨⟨⟨⟨⟨hlen, hall⟩, -⟩, -⟩, -⟩, -⟩ := hx
      have hk : k.val < x.strings.length := by omega
      have hwf := hall _ (List.getElem_mem hk)
      simp only [StringSamples.wellFormed, Bool.and_eq_true, beq_iff_eq] at hwf
      rw [samplesOf, List.getD_eq_getElem _ _ hk]
      exact intervalRecord_energy_le hwf.1.2.le
    have hframe := s.formInterval_frame x
    have heve : (s.formInterval x).eve = s.eve := hframe.keeps .eve (by simp)
    have hsmu : (s.formInterval x).smu = s.smu := hframe.keeps .smu (by simp)
    intro k
    rw [State.intervalCompletion_eve x hover, State.evidenceUpdate_eve, State.observeAll_eve, heve, hsmu]
    split
    · next hk =>
      rw [State.formInterval_setInput x hk]
      exact Evidence.conclude_inRange (Evidence.observe_inRange (h k) (by exact henergy k) _) _ _ _ _
    · exact h k
  · rw [State.intervalCompletion_of_not_over x (by simpa using hover)]
    exact h

/-! ### The commands -/

theorem State.event_evidence {dt : Nat} {f : State → State} (hf : ∀ u, EvidenceSound u → EvidenceSound (f u)) :
    EvidenceSound (f (s.elapse dt)).settle := hf (s.elapse dt) h

theorem whenStarted_evidence {f : State → State} (hf : ∀ u, EvidenceSound u → EvidenceSound (f u)) :
    EvidenceSound (whenStarted f s) := by
  unfold whenStarted
  split
  · exact hf s h
  · exact h

end Closing

theorem State.afterReset_evidence (s : State) : EvidenceSound s.afterReset := fun k => by
  simp [State.afterReset, EvidenceInRange, State.reset, Evidence.atReset]

theorem State.watchSupply_evidence {s : State} (h : EvidenceSound s) {course : List SupplySpan} {p : Nat → Bool} {f : State → State}
    (hf : ∀ u, EvidenceSound u → EvidenceSound (f u)) : EvidenceSound (s.watchSupply course p f) := by
  unfold State.watchSupply
  repeat' split
  · exact h
  · exact s.afterReset_evidence
  · exact hf s h
  · exact h

theorem exec_evidence_of_blocks {c : Instr} {s t : State} (hc : Block.eve ∉ commandBlocks c) (h : EvidenceSound s)
    (ht : exec c s = .next t) : EvidenceSound t := by
  obtain ⟨u, hu, hframe⟩ := exec_blocks (c := c) s (by rintro rfl; simp [commandBlocks] at hc)
    (by rintro v rfl; simp [commandBlocks] at hc) (by rintro v rfl; simp [commandBlocks] at hc)
  cases hu.symm.trans ht
  exact hframe.evidenceSound hc h

/-- The commands under which a string can be taken as CLOSED or a set be taken, RESET and the supply commands, one by one; no other
command changes the evidence. -/
theorem exec_evidence {c : Instr} {s t : State} (hc : c.wellFormed = true) (h : EvidenceSound s) (ht : exec c s = .next t) :
    EvidenceSound t := by
  cases c
  case reset => cases ht; exact s.afterReset_evidence
  case intervalCompletion dt x =>
    have hx : x.wellFormed = true := (Bool.and_eq_true _ _ ▸ hc).2
    cases ht
    exact State.event_evidence h fun u hu => whenStarted_evidence hu fun v hv => State.intervalCompletion_evidence hv hx
  case supplyLow u =>
    cases ht
    exact State.event_evidence h fun v hv => State.watchSupply_evidence hv fun w hw => w.supplyLow_frame.evidenceSound (by simp) hw
  case supplyRun u =>
    cases ht
    exact State.event_evidence h fun v hv => State.watchSupply_evidence hv fun w hw => w.supplyRun_frame.evidenceSound (by simp) hw
  case pulseEnd dt r =>
    cases ht
    exact State.event_evidence h fun u hu => whenStarted_evidence hu fun v hv => State.pulseEnd_evidence hv r
  case contactFeedbackChange dt k c =>
    cases ht
    exact State.event_evidence h fun u hu => State.contactChange_evidence hu k c
  case pushbuttonFilterExpiry dt =>
    cases ht
    exact State.event_evidence h fun u hu => State.buttonExpiry_evidence hu
  all_goals exact exec_evidence_of_blocks (by simp [commandBlocks]) h ht

/-- Settles O9. -/
theorem evidenceStaysInRange : Obligations.EvidenceStaysInRange := fun _ _ _ hc h ht => exec_evidence hc h ht

end Sys2Proof.Machine

/-! PROOFS. What each command carries out: its time passes, its effect takes place, the outputs settle. A command of the blocks that run from the
hand-over on (R182) does so once they run. -/

namespace Sys2Proof.Machine

theorem exec_pushbuttonInputChange (s : State) (dt : Nat) (pressed : Bool) : exec (.pushbuttonInputChange dt pressed) s =
    .next ((s.elapse dt).buttonInput pressed).settle := rfl

theorem exec_pushbuttonFilterExpiry (s : State) (dt : Nat) : exec (.pushbuttonFilterExpiry dt) s =
    .next ((s.elapse dt).buttonExpiry).settle := rfl

theorem exec_keyInputChange (s : State) (dt : Nat) (k : Key) (closed : Bool) : exec (.keyInputChange dt k closed) s =
    .next ((s.elapse dt).keyInput k closed).settle := rfl

theorem exec_keyAcceptExpiry (s : State) (dt : Nat) (k : Key) : exec (.keyAcceptExpiry dt k) s =
    .next ((s.elapse dt).keyAccepted k).settle := rfl

theorem exec_readingStart (s : State) (dt : Nat) (a : BitVec 5) (n : BitVec 4) (pins : StartPins) (answers : Bool) : exec (.readingStart dt a n pins answers) s =
    .next ((s.elapse dt).startReading a.toNat n.toNat pins answers).settle := rfl

theorem exec_handOver (s : State) (dt : Nat) (closed answers : List Bool) : exec (.handOver dt closed answers) s =
    .next ((s.elapse dt).handOver closed answers).settle := rfl

theorem exec_listenEnd (s : State) (dt : Nat) : exec (.listenEnd dt) s =
    .next ((s.elapse dt).listenEnd).settle := rfl

theorem exec_supplyLow (s : State) (w : SupplyWatch) : exec (.supplyLow w) s =
    .next ((s.elapse w.dt).watchSupply w.course (fun v => decide (v < supplyLowMv)) State.supplyLow).settle := rfl

theorem exec_supplyRun (s : State) (w : SupplyWatch) : exec (.supplyRun w) s =
    .next ((s.elapse w.dt).watchSupply w.course (fun v => decide (supplyRunMv ≤ v)) State.supplyRun).settle := rfl

theorem exec_memoWriteDone (s : State) (dt : Nat) (v h l : Byte) : exec (.memoWriteDone dt v h l) s =
    .next ((s.elapse dt).memoDone v h l).settle := rfl

theorem exec_memoBusyTimeout (s : State) (dt : Nat) : exec (.memoBusyTimeout dt) s =
    .next ((s.elapse dt).memoTimeout).settle := rfl

theorem exec_sourceReady (s : State) (dt : Nat) : exec (.sourceReady dt) s =
    .next ((s.elapse dt).sourceReady).settle := rfl

theorem exec_contactFeedbackChange (s : State) (dt : Nat) (k : StringNo) (closed : Bool) : exec (.contactFeedbackChange dt k closed) s =
    .next ((s.elapse dt).contactChange k closed).settle := rfl

section Started
variable {s : State} (h : s.started = true)
include h

theorem State.event_started {dt : Nat} {f : State → State} : s.event dt (whenStarted f) = .next (f (s.elapse dt)).settle := by
  rw [State.event_next, whenStarted_of _ _ (by rwa [State.elapse_started])]

theorem exec_claimExpiry (dt : Nat) (p : PeerNo) (k : ClaimKind) : exec (.claimExpiry dt p k) s =
    .next ((s.elapse dt).claimExpiry p.address k).settle := State.event_started h

theorem exec_decisionPoint (dt : Nat) : exec (.decisionPoint dt) s =
    .next ((s.elapse dt).decideArc).settle := State.event_started h

theorem exec_groundDecision (dt : Nat) : exec (.groundDecision dt) s =
    .next ((s.elapse dt).decideGround).settle := State.event_started h

theorem exec_yieldHoldExpiry (dt : Nat) : exec (.yieldHoldExpiry dt) s =
    .next ((s.elapse dt).yieldExpiry).settle := State.event_started h

theorem exec_recentDecisionExpiry (dt : Nat) : exec (.recentDecisionExpiry dt) s =
    .next ((s.elapse dt).recentExpiry).settle := State.event_started h

theorem exec_characterTaken (dt : Nat) (c : Byte) (mark stop : Level) : exec (.characterTaken dt c mark stop) s =
    .next ((s.elapse dt).characterTaken c mark stop).settle := State.event_started h

theorem exec_characterGapExpiry (dt : Nat) : exec (.characterGapExpiry dt) s =
    .next ((s.elapse dt).characterGap).settle := State.event_started h

theorem exec_frameCompletion (dt : Nat) : exec (.frameCompletion dt) s =
    .next ((s.elapse dt).frameCompleted).settle := State.event_started h

theorem exec_idleGap (dt : Nat) : exec (.idleGap dt) s =
    .next ((s.elapse dt).idleGap).settle := State.event_started h

theorem exec_arbitrationLoss (back : ReadBack) : exec (.arbitrationLoss back) s =
    .next ((s.elapse back.dt).arbitrationLoss back.read).settle := State.event_started h

theorem exec_bitError (back : ReadBack) (byBreak : Bool) : exec (.bitError back byBreak) s =
    .next ((s.elapse back.dt).bitError back.read byBreak).settle := State.event_started h

theorem exec_transmitCompleted (back : ReadBack) : exec (.transmitCompleted back) s =
    .next ((s.elapse back.dt).transmitCompleted back.read).settle := State.event_started h

theorem exec_healthPeriodEnd (dt : Nat) : exec (.healthPeriodEnd dt) s =
    .next ((s.elapse dt).healthPeriodEnd).settle := State.event_started h

theorem exec_silenceExpiry (dt : Nat) : exec (.silenceExpiry dt) s =
    .next ((s.elapse dt).silence).settle := State.event_started h

theorem exec_peerSilenceExpiry (dt : Nat) (p : PeerNo) : exec (.peerSilenceExpiry dt p) s =
    .next ((s.elapse dt).peerSilence p).settle := State.event_started h

theorem exec_stuckLine (line : DominantRun) : exec (.stuckLine line) s =
    .next ((s.elapse line.dt).stuckLine line.run).settle := State.event_started h

theorem exec_lineFreed (dt : Nat) : exec (.lineFreed dt) s =
    .next ((s.elapse dt).lineFreed).settle := State.event_started h

theorem exec_breakRecognised (dt : Nat) (run : Nat) : exec (.breakRecognised dt run) s =
    .next ((s.elapse dt).breakRecognised run).settle := State.event_started h

theorem exec_breakDriveEnd (dt : Nat) : exec (.breakDriveEnd dt) s =
    .next ((s.elapse dt).breakDriveEnd).settle := State.event_started h

theorem exec_statusPoint (dt : Nat) : exec (.statusPoint dt) s =
    .next ((s.elapse dt).statusPoint).settle := State.event_started h

theorem exec_stopRepeatExpiry (dt : Nat) : exec (.stopRepeatExpiry dt) s =
    .next ((s.elapse dt).stopRepeat).settle := State.event_started h

theorem exec_recloseExpiry (dt : Nat) (k : StringNo) : exec (.recloseExpiry dt k) s =
    .next ((s.elapse dt).recloseExpired k).settle := State.event_started h

theorem exec_closedTimerExpiry (dt : Nat) (k : StringNo) : exec (.closedTimerExpiry dt k) s =
    .next ((s.elapse dt).closedExpired k).settle := State.event_started h

theorem exec_probeDueExpiry (dt : Nat) : exec (.probeDueExpiry dt) s =
    .next ((s.elapse dt).probeDue).settle := State.event_started h

theorem exec_dueRetry (dt : Nat) : exec (.dueRetry dt) s =
    .next ((s.elapse dt).dueRetry).settle := State.event_started h

theorem exec_staggerExpiry (dt : Nat) : exec (.staggerExpiry dt) s =
    .next ((s.elapse dt).stagger).settle := State.event_started h

theorem exec_referenceHalfEnd (dt : Nat) : exec (.referenceHalfEnd dt) s =
    .next ((s.elapse dt).referenceHalfEnd).settle := State.event_started h

theorem exec_injectionStart (dt : Nat) : exec (.injectionStart dt) s =
    .next ((s.elapse dt).injectionStart).settle := State.event_started h

theorem exec_injectionHalfEnd (dt : Nat) : exec (.injectionHalfEnd dt) s =
    .next ((s.elapse dt).injectionHalfEnd).settle := State.event_started h

theorem exec_halfExpiry (dt : Nat) : exec (.halfExpiry dt) s =
    .next ((s.elapse dt).halfExpiry).settle := State.event_started h

theorem exec_wMaxExpiry (dt : Nat) : exec (.wMaxExpiry dt) s =
    .next ((s.elapse dt).wMax).settle := State.event_started h

theorem exec_rememberedStopExpiry (dt : Nat) : exec (.rememberedStopExpiry dt) s =
    .next ((s.elapse dt).rememberedExpiry).settle := State.event_started h

theorem exec_intervalCompletion (dt : Nat) (x : IntervalSamples) : exec (.intervalCompletion dt x) s =
    .next ((s.elapse dt).intervalCompletion x).settle := State.event_started h

theorem exec_rechargeExpiry (dt : Nat) : exec (.rechargeExpiry dt) s =
    .next ((s.elapse dt).rechargeExpiry).settle := State.event_started h

theorem exec_coilOver (dt : Nat) : exec (.coilOver dt) s =
    .next ((s.elapse dt).coilOver).settle := State.event_started h

theorem exec_pulseEnd (dt : Nat) (r : CoilReading) : exec (.pulseEnd dt r) s =
    .next ((s.elapse dt).pulseEnd r).settle := State.event_started h

theorem exec_confirmExpiry (dt : Nat) : exec (.confirmExpiry dt) s =
    .next ((s.elapse dt).confirmExpiry).settle := State.event_started h

end Started

end Sys2Proof.Machine

/-! PROOFS. Reset, READING and the listen end: what each leaves (R176 to R179, R183), and the memo slots of the serial memory (R180, R190). -/

namespace Sys2Proof.Machine

open Sys2Proof.Safety

/-! ### Memo slots (R180, R190) -/

theorem MemoValue.ofCode_code (v : MemoValue) : MemoValue.ofCode v.code = some v := by
  cases v <;> rfl

theorem slotValue_slotBytes (k : StringNo) (v : MemoValue) :
    slotValue k (slotBytes k v).1 (slotBytes k v).2.1 (slotBytes k v).2.2 = some v := by
  simp [slotValue, slotBytes, MemoValue.ofCode_code]

/-- Settles O21. -/
theorem memoSlotRoundTrip : Obligations.MemoSlotRoundTrip := by
  intro k v m hm m'
  obtain ⟨hv, hh, hl⟩ := Memory.read_writeSlot_same k (slotBytes k v).1 (slotBytes k v).2.1 (slotBytes k v).2.2 hm
  refine ⟨?_, fun a ha => Memory.read_writeSlot_other _ _ _ _ _ _ ha⟩
  rw [hv, hh, hl, slotValue_slotBytes]

/-! ### Reset (R176, R185) -/

/-- The bytes a cut write leaves never read as good: good ones get a check bit turned. -/
theorem slotValue_tornBytes (k : StringNo) (f : Byte × Byte × Byte) :
    slotValue k (tornBytes k f).1 (tornBytes k f).2.1 (tornBytes k f).2.2 = none := by
  unfold tornBytes
  split
  · next hgood =>
    have hcheck : f.2.2 = crcLow (slotCheck k f.1) := by
      by_contra hbad
      simp [slotValue, hbad] at hgood
    simp [slotValue, hcheck]
  · next hbad => simp at hbad; exact hbad

theorem State.memAfterReset_cut {s : State} {w : MemoWrite} (hw : s.smu.writer = some w) (hb : w.busy = true) : s.memAfterReset =
    Memory.writeSlot s.smu.mem w.string (tornBytes w.string s.freeBytes).1 (tornBytes w.string s.freeBytes).2.1
      (tornBytes w.string s.freeBytes).2.2 := by
  simp [State.memAfterReset, hw, hb]

theorem State.memAfterReset_uncut {s : State} (h : ∀ w, s.smu.writer = some w → w.busy = false) : s.memAfterReset = s.smu.mem := by
  unfold State.memAfterReset
  split
  · rfl
  · next w hw => simp [h w hw]

theorem State.memAfterReset_read (s : State) {a : Nat}
    (h : ∀ w, s.smu.writer = some w → w.busy = true → a < slotAddress w.string ∨ slotAddress w.string + 2 < a) :
    Memory.read s.memAfterReset a = Memory.read s.smu.mem a := by
  by_cases hcut : ∃ w, s.smu.writer = some w ∧ w.busy = true
  · obtain ⟨w, hw, hb⟩ := hcut
    rw [State.memAfterReset_cut hw hb, Memory.read_writeSlot_other _ _ _ _ _ _ (h w hw hb)]
  · rw [State.memAfterReset_uncut fun w hw => by
      by_contra hb
      exact hcut ⟨w, hw, by simpa using hb⟩]

/-- A supply that falls below 7.5 V resets the part (R186). -/
theorem State.watchSupply_reset {s : State} {course : List SupplySpan} (dt : Nat) (p : Nat → Bool) (f : State → State)
    (hp : s.smu.phase ≠ .inReset) (hd : DropsToReset course) :
    s.event dt (fun t => t.watchSupply course p f) = .next s.afterReset := by
  rw [State.event_next, ((s.elapse dt).watchSupply_eq course p f).2.1 hp hd, State.afterReset_settle]

/-- Settles O11. -/
theorem resetLosesVolatileState : Obligations.ResetLosesVolatileState := by
  refine fun s => ⟨fun u hp hd => ⟨State.watchSupply_reset _ _ _ hp hd, State.watchSupply_reset _ _ _ hp hd⟩,
    s.afterReset, rfl, rfl, rfl, rfl, rfl, rfl, rfl, rfl, rfl, rfl, ?_, rfl, rfl, fun w hw hb hm => ?_, fun a ha => s.memAfterReset_read ha⟩
  · cases hc : s.swc.coil <;> simp [State.afterReset, hc]
  · have hmem : s.afterReset.smu.mem = s.memAfterReset := rfl
    rw [hmem, State.memAfterReset_cut hw hb]
    obtain ⟨hv, hh, hl⟩ := Memory.read_writeSlot_same w.string (tornBytes w.string s.freeBytes).1 (tornBytes w.string s.freeBytes).2.1
      (tornBytes w.string s.freeBytes).2.2 hm
    rw [hv, hh, hl, slotValue_tornBytes]

/-! ### READING (R177 to R179) -/

theorem State.startReading_of_held {s : State} {p : StartPins} (h : s.smu.phase ≠ .inReset ∨ ResetLasts p) (a n : Nat) (m : Bool) :
    s.startReading a n p m = s := by
  rw [← resetHeld_iff] at h
  refine if_neg ?_
  rcases h with h | h <;> simp [h]

/-- The state READING leaves. -/
theorem State.startReading_of_released {s : State} {p : StartPins} (hs : s.smu.phase = .inReset) (hp : ¬ResetLasts p) (a n : Nat) (m : Bool) :
    let good := m && recordGood s.smu.mem
    let c := if good = true then clampedSettings s.smu.mem else Settings.atReset
    s.startReading a n p m = { s with
      smu := { s.smu with
        phase := .reading, supply := supplyAtStart p, address := a, strings := stringCount n, settings := c, configDefault := !good
        configClamped := good && recordClamped s.smu.mem },
      lnc := { s.lnc with level := c.rxFloor } } := by
  rw [← resetHeld_iff] at hp
  unfold State.startReading State.readConfig
  rw [if_pos (by simp [hs, hp])]
  by_cases hgood : (m && recordGood s.smu.mem) = true
  · simp only [State.setSmu_smu, hgood, if_true]
    rfl
  · simp only [State.setSmu_smu, hgood]
    rfl

/-- Settles O12. -/
theorem readingTakesStrapsAndRecord : Obligations.ReadingTakesStrapsAndRecord := by
  intro dt a n p m s good c
  refine ⟨fun hs hp => ?_, fun h => ?_⟩
  · rw [exec_readingStart, State.startReading_of_released (s := s.elapse dt) hs hp]
    rfl
  · rw [exec_readingStart, State.startReading_of_held (s := s.elapse dt) h]

/-! ### The ranges of the settings (R179) -/

theorem clampNat_mem {lo hi : Nat} (h : lo ≤ hi) (x : Nat) : lo ≤ clampNat lo hi x ∧ clampNat lo hi x ≤ hi := by
  unfold clampNat
  omega

theorem lineRateOf_listed (c : Nat) : lineRateOf c = 9600 ∨ lineRateOf c = 19200 ∨ lineRateOf c = 38400 := by
  unfold lineRateOf
  repeat' split
  all_goals simp

theorem clampHp_mem (x : Nat) : 200 ≤ clampHp x ∧ clampHp x ≤ 2000 ∧ clampHp x % 100 = 0 := by
  have := clampNat_mem (lo := 200) (hi := 2000) (by omega) x
  unfold clampHp
  omega

theorem clampNp_mem (x : Nat) : 4 ≤ clampNp x ∧ clampNp x ≤ 16 ∧ clampNp x % 2 = 0 := by
  have := clampNat_mem (lo := 4) (hi := 16) (by omega) x
  unfold clampNp
  omega

/-- The settle time stays a multiple of 10 under half of a half period, which is a multiple of 50. -/
theorem clampSettle_mem {hp : Nat} (hmin : 200 ≤ hp) (hmult : hp % 100 = 0) (x : Nat) : 50 ≤ clampSettle hp x ∧ clampSettle hp x ≤ 1000 ∧
    clampSettle hp x % 10 = 0 ∧ clampSettle hp x ≤ hp / 2 := by
  have := clampNat_mem (lo := 50) (hi := 1000) (by omega) x
  unfold clampSettle
  omega

theorem clampedSettings_inRange (m : List Host.Cell) : SettingsInRange (clampedSettings m) := by
  have hhp := clampHp_mem (Memory.read16 m 0x1C)
  have clamped := fun (lo hi : Nat) (h : lo ≤ hi) x => clampNat_mem h x
  refine ⟨lineRateOf_listed _, (clamped 0 7 (by omega) _).2, clamped _ _ (by omega) _, clamped _ _ (by omega) _, clamped _ _ (by omega) _,
    (clamped 0 500 (by omega) _).2, clamped _ _ (by omega) _, clamped _ _ (by omega) _, clamped _ _ (by omega) _, clamped _ _ (by omega) _,
    clamped _ _ (by omega) _, clamped _ _ (by omega) _, clamped _ _ (by omega) _, clamped _ _ (by omega) _, clamped _ _ (by omega) _,
    (clamped 0 3 (by omega) _).2, clamped _ _ (by omega) _, clamped _ _ (by omega) _, clamped _ _ (by omega) _, clamped _ _ (by omega) _,
    hhp, clampNp_mem _, clampSettle_mem hhp.1 hhp.2.2 _, clamped _ _ (by omega) _, clamped _ _ (by omega) _, clamped _ _ (by omega) _,
    clamped _ _ (by omega) _⟩

theorem atReset_inRange : SettingsInRange Settings.atReset := by
  unfold SettingsInRange
  decide

theorem paramsUsable_of_inRange {c : Settings} (h : SettingsInRange c) : paramsUsable c.probeHp c.probeNp c.probeSettle = true := by
  obtain ⟨-, -, -, -, -, -, -, -, -, -, -, -, -, -, -, -, -, -, -, -, hhp, hnp, hsettle, -⟩ := h
  simp only [paramsUsable, Bool.and_eq_true, decide_eq_true_eq, beq_iff_eq]
  omega

/-- Settles O13. -/
theorem readingLeavesUsableSettings : Obligations.ReadingLeavesUsableSettings := by
  intro dt a n p m s hs hp
  rw [exec_readingStart]
  refine ⟨_, rfl, ?_⟩
  rw [State.startReading_of_released (s := s.elapse dt) hs hp]
  simp only [State.settle_smu]
  have hrange : SettingsInRange (if (m && recordGood (s.elapse dt).smu.mem) = true then clampedSettings (s.elapse dt).smu.mem else Settings.atReset) := by
    split
    · exact clampedSettings_inRange _
    · exact atReset_inRange
  refine ⟨trivial, hrange, ?_, ?_, ?_, paramsUsable_of_inRange hrange⟩
  · unfold stringCount; split <;> omega
  · unfold stringCount; split <;> omega
  · exact Nat.le_of_lt_succ a.isLt

/-! ### The listen end (R183) -/

/-- Settles O15. -/
theorem listenEndStartsOperation : Obligations.ListenEndStartsOperation := by
  intro dt s hs
  refine ⟨fun h => ?_, fun h => ?_⟩
  · rw [exec_listenEnd, State.listenEnd, if_pos (by simp [hs, h])]
    congr 2
    by_cases hl : s.lnc.line = .listen <;> by_cases ha : s.smu.address = 0 <;>
      simp [State.leaveListen, State.probeListenEnd, State.scheduleStatus, State.listenOnly, State.someonePresent, State.dueMs,
        State.statusOffset, hl, ha, rememberedMs] <;> rfl
  · rw [exec_listenEnd, State.listenEnd, if_neg (by simp [h])]

end Sys2Proof.Machine

/-! PROOFS. What handing over and withdrawing a frame do by the state of the queue (R104, R105, R110), and how the station's part in a window
ends by its role (R62, R68 to R70, R91). -/

namespace Sys2Proof.Machine

open Sys2Proof.Safety

/-! ### Handing over a frame (R104, R105) -/

section Enqueue
variable {s : State} {f : QueuedFrame}

theorem State.makeRoomAndEnter_of_room (hroom : s.lnc.queue.length < 16) : s.makeRoomAndEnter f = (s.enterFrame f, true) := if_pos hroom

theorem State.enqueue_of_not_status (ha : s.smu.address ≠ 0) (hk : f.kind ≠ .status)
    (hone : f.kind.single = true → ∀ g ∈ s.lnc.queue, g.kind ≠ f.kind) : s.enqueue f = s.makeRoomAndEnter f := by
  have hnone : (f.kind.single && (s.queuedOf f.kind).isSome) = false := by
    by_cases hs : f.kind.single = true
    · rw [State.queuedOf_none.2 (hone hs)]
      simp
    · simp [hs]
  simp [State.enqueue, State.listenOnly, ha, hk, hnone]

theorem State.enqueue_of_room (ha : s.smu.address ≠ 0) (hk : f.kind ≠ .status)
    (hone : f.kind.single = true → ∀ g ∈ s.lnc.queue, g.kind ≠ f.kind) (hroom : s.lnc.queue.length < 16) :
    s.enqueue f = (s.enterFrame f, true) := by
  rw [State.enqueue_of_not_status ha hk hone, State.makeRoomAndEnter_of_room hroom]

theorem State.enterFrame_mem (s : State) (f : QueuedFrame) :
    { f with entry := s.lnc.nextEntry } ∈ (s.enterFrame f).lnc.queue := (mem_insertFrame _ _ _).2 (.inl rfl)

theorem State.evictable_iff (s : State) (f : QueuedFrame) :
    s.evictable f = true ↔ (f.kind = .status ∨ f.kind = .answer) ∧ s.lnc.sending ≠ some f.entry := by
  simp [State.evictable, State.inAttempt]

/-- In a queue of 16 with nothing to evict a frame is refused. -/
theorem State.makeRoomAndEnter_of_full (hfull : 16 ≤ s.lnc.queue.length) (hnone : ∀ g ∈ s.lnc.queue, s.evictable g = false) :
    s.makeRoomAndEnter f = (s, false) := by
  unfold State.makeRoomAndEnter
  rw [if_neg (by rw [capacity]; omega)]
  cases hold : s.oldestEvictable with
  | none => rfl
  | some old =>
    obtain ⟨hmem, hev⟩ := State.oldestEvictable_mem hold
    rw [hnone old hmem] at hev
    exact absurd hev (by simp)

/-- A second frame of a single kind is refused. -/
theorem State.enqueue_of_second (hk : f.kind.single = true) (hq : s.queuedOf f.kind ≠ none) : s.enqueue f = (s, false) := by
  have hnot : f.kind ≠ .status := fun h => by
    rw [h] at hk
    exact absurd hk (by decide)
  have hsome : (s.queuedOf f.kind).isSome = true := Option.isSome_iff_ne_none.2 hq
  unfold State.enqueue
  split
  · rfl
  · rw [if_neg (by simpa using hnot), if_pos (by rw [hk, hsome]; rfl)]

end Enqueue

/-! ### Withdrawing a frame (R110) -/

section Withdraw
variable {s : State} {k : Kind} {g : QueuedFrame}

theorem State.withdraw_of_none (h : s.queuedOf k = none) : s.withdraw k = (s, .gone) := by
  simp only [State.withdraw, h]

theorem State.withdraw_of_waiting (h : s.queuedOf k = some g) (hs : s.lnc.sending ≠ some g.entry) :
    s.withdraw k = (s.removeEntry g.entry, .granted) := by
  simp [State.withdraw, h, State.inAttempt, hs]

theorem State.withdraw_of_attempt (h : s.queuedOf k = some g) (hs : s.lnc.sending = some g.entry) :
    s.withdraw k = ({ s with lnc := { s.lnc with
      queue := s.lnc.queue.map fun f => if f.entry = g.entry then { f with withdrawAsked := true } else f } }, .refused) := by
  simp [State.withdraw, h, State.inAttempt, hs]

end Withdraw

/-! ### A PENDING station (R62) -/

section Roles
variable {s : State} {w : Window}

theorem State.withdrawProbeOpen_of_not_pending (h : s.prb.role ≠ .pending) : s.withdrawProbeOpen = s := if_neg (by simpa using h)

theorem State.withdrawProbeOpen_of_waiting {g : QueuedFrame} (hr : s.prb.role = .pending) (hg : s.queuedOf .probeOpen = some g)
    (hs : s.lnc.sending ≠ some g.entry) :
    s.withdrawProbeOpen = (s.removeEntry g.entry).setPrb { s.prb with role := .none, byDue := false } := by
  simp [State.withdrawProbeOpen, hr, State.withdraw_of_waiting hg hs]

theorem State.withdrawProbeOpen_of_attempt {g : QueuedFrame} (hr : s.prb.role = .pending) (hg : s.queuedOf .probeOpen = some g)
    (hs : s.lnc.sending = some g.entry) :
    s.withdrawProbeOpen = { s with lnc := { s.lnc with
      queue := s.lnc.queue.map fun f => if f.entry = g.entry then { f with withdrawAsked := true } else f } } := by
  simp [State.withdrawProbeOpen, hr, State.withdraw_of_attempt hg hs]

/-! ### An injector (R65, R66, R68 to R70) -/

/-- A window whose injection has ended with a status. -/
def Window.closed (w : Window) (status : WindowStatus) (riso : Nat) : Window :=
  { w with status := some status, riso := riso, phase := some .closing }

theorem State.closeInjection_of_room (w : Window) (st : WindowStatus) (r : Nat) (ha : s.smu.address ≠ 0) (hroom : s.lnc.queue.length < 16) :
    s.closeInjection w st r =
      (s.setPrb { s.prb with window := some (w.closed st r), output := .released }).enterFrame (probeCloseFrame (w.closed st r)) := by
  have he : (s.setPrb { s.prb with window := some (w.closed st r), output := .released }).enqueue (probeCloseFrame (w.closed st r)) =
      (_, true) := State.enqueue_of_room (by exact ha) (by simp [probeCloseFrame, newFrame]) (by simp [probeCloseFrame, newFrame, Kind.single])
        (by exact hroom)
  simp only [State.closeInjection]
  rw [← Window.closed, he]
  rfl

theorem State.abortInjection_of_not_injecting (st : WindowStatus) (h : s.prb.role ≠ .injecting) : s.abortInjection st = s := by
  unfold State.abortInjection
  split <;> simp_all

theorem State.abortInjection_of_closing (hr : s.prb.role = .injecting) (hw : s.prb.window = some w) (hp : w.phase = some .closing) :
    s.abortInjection .aborted = s := by
  simp [State.abortInjection, hr, hw, hp]

theorem State.abortInjection_of_open (hr : s.prb.role = .injecting) (hw : s.prb.window = some w) (hp : w.phase ≠ some .closing) :
    s.abortInjection .aborted = s.closeInjection w .aborted 65535 := by
  simp [State.abortInjection, hr, hw, hp, rangeEnd]

/-! ### The abort (R62, R68) -/

theorem State.probeAbort_of_apart (h : s.prb.role = .none ∨ s.prb.role = .listening) : s.probeAbort = s := by
  have hp : s.prb.role ≠ .pending := by rcases h with h | h <;> simp [h]
  have hi : s.prb.role ≠ .injecting := by rcases h with h | h <;> simp [h]
  rw [State.probeAbort, State.withdrawProbeOpen_of_not_pending hp, State.abortInjection_of_not_injecting _ hi]

theorem State.probeAbort_of_waiting {g : QueuedFrame} (hr : s.prb.role = .pending) (hg : s.queuedOf .probeOpen = some g)
    (hs : s.lnc.sending ≠ some g.entry) :
    s.probeAbort = (s.removeEntry g.entry).setPrb { s.prb with role := .none, byDue := false } := by
  rw [State.probeAbort, State.withdrawProbeOpen_of_waiting hr hg hs, State.abortInjection_of_not_injecting _ (by simp)]

theorem State.probeAbort_of_attempt {g : QueuedFrame} (hr : s.prb.role = .pending) (hg : s.queuedOf .probeOpen = some g)
    (hs : s.lnc.sending = some g.entry) :
    s.probeAbort = { s with lnc := { s.lnc with
      queue := s.lnc.queue.map fun f => if f.entry = g.entry then { f with withdrawAsked := true } else f } } := by
  rw [State.probeAbort, State.withdrawProbeOpen_of_attempt hr hg hs, State.abortInjection_of_not_injecting _ (by simp [hr])]

theorem State.probeAbort_of_injecting (hr : s.prb.role = .injecting) : s.probeAbort = s.abortInjection .aborted := by
  rw [State.probeAbort, State.withdrawProbeOpen_of_not_pending (by simp [hr])]

end Roles

/-- The PROBE-CLOSE of an aborted injection, as it stands in the queue. -/
theorem probeCloseFrame_aborted (w : Window) : (probeCloseFrame (w.closed .aborted 65535)).kind = .probeClose ∧
    (probeCloseFrame (w.closed .aborted 65535)).rank = 0 ∧
    (probeCloseFrame (w.closed .aborted 65535)).payload =
      [BitVec.ofNat 8 w.tag.sequence, 3, BitVec.ofNat 8 w.halvesInjected, 255, 255] := by
  refine ⟨rfl, rfl, ?_⟩
  simp [probeCloseFrame, newFrame, Window.closed, WindowStatus.code, unsigned16, highByte, lowByte]

/-! ### SUPPLY_LOW (R62, R68, R186) -/

theorem exec_supplyLow_of_held {s : State} {u : SupplyWatch} (h : s.smu.phase = .inReset ∨
    (¬DropsToReset u.course ∧ (s.smu.supply = .low ∨ ¬HeldTenMs (fun v => v < 10500) u.course))) :
    exec (.supplyLow u) s = .next (s.elapse u.dt).settle := by
  obtain ⟨hreset, -, hchange, hless⟩ :=
    (s.elapse u.dt).watchSupply_eq u.course (fun v => decide (v < supplyLowMv)) State.supplyLow
  rw [testPassed_low] at hchange hless
  rw [exec_supplyLow]
  by_cases hp : s.smu.phase = .inReset
  · rw [hreset hp]
  obtain ⟨hd, hlow⟩ := h.resolve_left hp
  by_cases ht : HeldTenMs (fun v => v < 10500) u.course
  · rw [hchange hp hd ht, State.supplyLow, if_pos (by simp [hlow.resolve_right (not_not.2 ht)])]
  · rw [hless hd ht]

/-- The change to LOW: the supply state, then the abort of the station's part in a window of its own. -/
theorem exec_supplyLow_of_change {s : State} {u : SupplyWatch} (hp : s.smu.phase ≠ .inReset) (hs : s.smu.supply = .run)
    (hd : ¬DropsToReset u.course) (ht : HeldTenMs (fun v => v < 10500) u.course) :
    exec (.supplyLow u) s = .next ((s.elapse u.dt).setSmu { s.smu with supply := .low }).probeAbort.settle := by
  obtain ⟨-, -, hchange, -⟩ := (s.elapse u.dt).watchSupply_eq u.course (fun v => decide (v < supplyLowMv)) State.supplyLow
  rw [testPassed_low] at hchange
  rw [exec_supplyLow, hchange hp hd ht, State.supplyLow, if_neg (by simp [hp, hs])]
  rfl

/-- Settles O17. -/
theorem supplyLowEndsInjection : Obligations.SupplyLowEndsInjection := by
  refine fun u s => ⟨exec_supplyLow_of_held, fun hp hs hd ht => ⟨fun hr => ?_, fun f hr hf hsend => ?_, fun w hr hw hopen hlo hroom => ?_⟩⟩
  · rw [exec_supplyLow_of_change hp hs hd ht, State.probeAbort_of_apart (by exact hr)]
    rfl
  · rw [exec_supplyLow_of_change hp hs hd ht, State.probeAbort_of_waiting (by exact hr) (by exact hf) (by exact hsend)]
    rfl
  · rw [exec_supplyLow_of_change hp hs hd ht, State.probeAbort_of_injecting (by exact hr), State.abortInjection_of_open (by exact hr) (by exact hw) hopen,
      State.closeInjection_of_room _ _ _ (by simpa [State.listenOnly] using hlo) (by exact hroom)]
    obtain ⟨hkind, hrank, hpayload⟩ := probeCloseFrame_aborted w
    exact ⟨_, rfl, rfl, rfl, rfl, rfl, rfl, rfl, rfl, rfl, _, State.enterFrame_mem _ _, hkind, hrank, rfl, hpayload⟩

end Sys2Proof.Machine

/-! PROOFS. The drive engine and the memo writer go on (R144, R184 to R187), a memo attempt ends (R185), and remembered stops are released (R172). -/

namespace Sys2Proof.Machine

open Sys2Proof.Safety

/-! ### The engine takes the head of the Drive Queue (R143, R144) -/

section Drive
variable {s : State}

/-- The conditions under which the engine takes a request. -/
def State.drives (s : State) : Prop := s.started = true ∧ s.swc.engine = .idle ∧ s.swc.ready = true ∧ s.smu.supply = .run

theorem State.kickDrive_opens {k : StringNo} {rest : List StringNo} (h : s.drives) (hq : s.swc.openQ = k :: rest) :
    s.kickDrive = ({ s with swc := { s.swc with openQ := rest } }).beginPulse k .toOpen := by
  obtain ⟨hst, hengine, hready, hrun⟩ := h
  simp [State.kickDrive, hst, hengine, hready, hrun, hq]

theorem State.kickDrive_closes {k : StringNo} {rest : List StringNo} (h : s.drives) (ho : s.swc.openQ = [])
    (hq : s.swc.closeQ = k :: rest) :
    s.kickDrive = ({ s with swc := { s.swc with closeQ := rest } }).beginPulse k .toClose := by
  obtain ⟨hst, hengine, hready, hrun⟩ := h
  simp [State.kickDrive, hst, hengine, hready, hrun, ho, hq]

theorem State.kickDrive_rests (h : s.started = false ∨ s.swc.engine ≠ .idle ∨ s.swc.ready = false ∨ s.smu.supply = .low ∨
    (s.swc.openQ = [] ∧ s.swc.closeQ = [])) : s.kickDrive = s := by
  unfold State.kickDrive
  split
  · next hc =>
    simp only [Bool.and_eq_true, beq_iff_eq] at hc
    obtain ⟨⟨⟨hst, hengine⟩, hready⟩, hrun⟩ := hc
    obtain ⟨ho, hcl⟩ : s.swc.openQ = [] ∧ s.swc.closeQ = [] := by simpa [hst, hengine, hready, hrun] using h
    simp [ho, hcl]
  · rfl

end Drive

/-! ### The writer takes the first pending write (R184, R185) -/

section Writer
variable {s : State}

theorem State.kickMemo_rests (h : s.smu.phase = .inReset ∨ s.smu.supply = .low ∨ (s.smu.writer = none ∧ s.smu.memoQueue = [])) :
    s.kickMemo = s := by
  unfold State.kickMemo
  split
  · next hc =>
    simp only [State.memoRuns, Bool.and_eq_true, bne_iff_ne, beq_iff_eq] at hc
    obtain ⟨hw, hq⟩ : s.smu.writer = none ∧ s.smu.memoQueue = [] := by simpa [hc.1, hc.2] using h
    simp [hw, hq]
  · rfl

theorem State.kickMemo_begins {k : StringNo} {v : MemoValue} {rest : List (StringNo × MemoValue)} (hp : s.smu.phase ≠ .inReset)
    (hs : s.smu.supply = .run) (hw : s.smu.writer = none) (hq : s.smu.memoQueue = (k, v) :: rest) :
    s.kickMemo = s.setSmu { s.smu with
      memoQueue := rest, writer := some { string := k, value := v, failed := 0, busy := true, began := s.now } } := by
  simp [State.kickMemo, State.memoRuns, hp, hs, hw, hq]

theorem State.kickMemo_goesOn {w : MemoWrite} (hp : s.smu.phase ≠ .inReset) (hs : s.smu.supply = .run) (hw : s.smu.writer = some w) :
    s.kickMemo = s.setSmu { s.smu with writer := some (if w.busy = true then w else { w with busy := true, began := s.now }) } := by
  have hself : s.setSmu { s.smu with writer := some w } = s := by
    rw [← hw]
    rfl
  by_cases hb : w.busy = true
  · simp [State.kickMemo, State.memoRuns, hw, hb, hself]
  · simp [State.kickMemo, State.memoRuns, hp, hs, hw, hb]

end Writer

/-! ### SUPPLY_RUN (R186, R187) -/

theorem exec_supplyRun_of_held {s : State} {u : SupplyWatch} (h : s.smu.phase = .inReset ∨
    (¬DropsToReset u.course ∧ (s.smu.supply = .run ∨ ¬HeldTenMs (fun v => 11000 ≤ v) u.course))) :
    exec (.supplyRun u) s = .next (s.elapse u.dt).settle := by
  obtain ⟨hreset, -, hchange, hless⟩ :=
    (s.elapse u.dt).watchSupply_eq u.course (fun v => decide (supplyRunMv ≤ v)) State.supplyRun
  rw [testPassed_run] at hchange hless
  rw [exec_supplyRun]
  by_cases hp : s.smu.phase = .inReset
  · rw [hreset hp]
  obtain ⟨hd, hrun⟩ := h.resolve_left hp
  by_cases ht : HeldTenMs (fun v => 11000 ≤ v) u.course
  · rw [hchange hp hd ht, State.supplyRun, if_pos (by simp [hrun.resolve_right (not_not.2 ht)])]
  · rw [hless hd ht]

theorem exec_supplyRun_of_change {s : State} {u : SupplyWatch} (hp : s.smu.phase ≠ .inReset) (hs : s.smu.supply = .low)
    (hd : ¬DropsToReset u.course) (ht : HeldTenMs (fun v => 11000 ≤ v) u.course) :
    exec (.supplyRun u) s = .next ((s.elapse u.dt).setSmu { s.smu with supply := .run }).kickDrive.kickMemo.settle := by
  obtain ⟨-, -, hchange, -⟩ := (s.elapse u.dt).watchSupply_eq u.course (fun v => decide (supplyRunMv ≤ v)) State.supplyRun
  rw [testPassed_run] at hchange
  rw [exec_supplyRun, hchange hp hd ht, State.supplyRun, if_neg (by simp [hp, hs])]
  rfl

/-- Settles O18. -/
theorem supplyRunServesQueues : Obligations.SupplyRunServesQueues := by
  refine fun u s => ⟨exec_supplyRun_of_held, fun hp hs hd ht => ⟨_, exec_supplyRun_of_change hp hs hd ht, ?_⟩⟩
  generalize hr : (s.elapse u.dt).setSmu { s.smu with supply := .run } = r
  have hrs : r = { s.elapse u.dt with smu := { s.smu with supply := .run } } := hr.symm
  have hframe : Frame [.smu, .swc] (s.elapse u.dt) r.kickDrive.kickMemo := by
    rw [← hr]
    exact ((State.setSmu_frame _ _).mono (by simp)).trans
      (((State.kickDrive_frame _).mono (by simp)).trans ((State.kickMemo_frame _).mono (by simp)))
  have hsmu : r.kickDrive.smu = r.smu := r.kickDrive_frame.keeps .smu (by simp)
  have hnow : r.kickDrive.now = r.now := r.kickDrive_frame.2.1
  have hswc : r.kickDrive.kickMemo.swc = r.kickDrive.swc := (State.kickMemo_frame _).keeps .swc (by simp)
  have hkept : r.kickDrive.kickMemo.smu.withoutMemos = r.smu.withoutMemos := by simp
  refine ⟨(supply_of_withoutMemos hkept).trans (by rw [hrs]), hframe.keeps .ssu (by simp), hframe.keeps .eve (by simp), hframe.keeps .sel (by simp),
    hframe.keeps .prb (by simp), hframe.keeps .lnc (by simp), hframe.keeps .pvw (by simp), hframe.keeps .rsl (by simp),
    (mem_of_withoutMemos hkept).trans (by rw [hrs]), fun hst hengine hready => ?_, fun hrest => ?_, fun k v q hw hq => ?_, fun w hw => ?_⟩
  · have hdrives : r.drives := by rw [hrs]; exact ⟨hst, hengine, hready, rfl⟩
    simp only [State.settle_swc, hswc]
    refine ⟨fun k q hq => ?_, fun k q ho hq => ?_⟩
    · rw [State.kickDrive_opens hdrives (by rw [hrs]; exact hq), hrs]
      exact ⟨rfl, rfl, rfl, rfl⟩
    · rw [State.kickDrive_closes hdrives (by rw [hrs]; exact ho) (by rw [hrs]; exact hq)]
      exact ⟨rfl, rfl, rfl⟩
  · simp only [State.settle_swc, hswc]
    rw [State.kickDrive_rests, hrs]
    · exact ⟨rfl, rfl, rfl⟩
    · rw [hrs]
      rcases hrest with h | h | h | h
      · exact .inl h
      · exact .inr (.inl h)
      · exact .inr (.inr (.inl h))
      · exact .inr (.inr (.inr (.inr h)))
  · rw [State.settle_smu, State.kickMemo_begins (k := k) (v := v) (rest := q) (by rw [hsmu, hrs]; exact hp) (by rw [hsmu, hrs]) (by rw [hsmu, hrs]; exact hw)
      (by rw [hsmu, hrs]; exact hq), hnow, hrs]
    exact ⟨rfl, rfl⟩
  · rw [State.settle_smu, State.kickMemo_goesOn (w := w) (by rw [hsmu, hrs]; exact hp) (by rw [hsmu, hrs]) (by rw [hsmu, hrs]; exact hw), hnow, hsmu, hrs]
    exact ⟨rfl, rfl⟩

theorem Frame.str {bs : List Block} {s t : State} (h : Frame bs s t) (hb : Block.swc ∉ bs) : t.swc.str = s.swc.str := by
  rw [show t.swc = s.swc from h.keeps .swc hb]

/-! ### The end of a memo attempt (R185) -/

section Failed
variable {s : State} {w : MemoWrite}

@[simp] theorem State.kickMemo_mem (s : State) : s.kickMemo.smu.mem = s.smu.mem := mem_of_withoutMemos s.kickMemo_withoutMemos

@[simp] theorem State.kickMemo_memoFault (s : State) : s.kickMemo.smu.memoFault = s.smu.memoFault :=
  show s.kickMemo.smu.withoutMemos.memoFault = s.smu.withoutMemos.memoFault by rw [s.kickMemo_withoutMemos]

@[simp] theorem State.memoFailed_mem (s : State) (w : MemoWrite) : (s.memoFailed w).smu.mem = s.smu.mem := by
  unfold State.memoFailed
  repeat' split
  all_goals simp

theorem State.memoFailed_retried (hq : s.smu.memoQueue = []) (hf : w.failed < 3) :
    s.memoFailed w = (s.setSmu { s.smu with writer := some { w with failed := w.failed + 1, busy := false } }).kickMemo := by
  unfold State.memoFailed
  rw [if_neg (by simp [hq]), if_neg (by omega)]

theorem State.memoFailed_dropped (hq : s.smu.memoQueue = []) (hf : 3 ≤ w.failed) :
    s.memoFailed w = s.setSmu { s.smu with writer := none, memoFault := true } := by
  unfold State.memoFailed
  rw [if_neg (by simp [hq]), if_pos (by omega)]
  exact State.kickMemo_rests (.inr (.inr ⟨rfl, hq⟩))

theorem State.memoFailed_superseded {v : MemoValue} {q : List (StringNo × MemoValue)} (hq : s.smu.memoQueue = (w.string, v) :: q) :
    s.memoFailed w = (s.setSmu { s.smu with writer := none }).kickMemo := by
  unfold State.memoFailed
  rw [if_pos (by simp [hq])]

end Failed

/-- The state once the slot of the write in progress holds three bytes. -/
def State.slotWritten (s : State) (w : MemoWrite) (v h l : Byte) : State :=
  s.setSmu { s.smu with mem := Memory.writeSlot s.smu.mem w.string v h l }

section Done
variable {s : State} {w : MemoWrite} (hw : s.smu.writer = some w) (hb : w.busy = true) (v h l : Byte)
include hw hb

theorem State.memoDone_verified (he : (v, h, l) = slotBytes w.string w.value) (hq : s.smu.memoQueue = []) :
    s.memoDone v h l = (s.slotWritten w v h l).setSmu { (s.slotWritten w v h l).smu with writer := none } := by
  simp only [State.memoDone, hw, hb, if_true]
  rw [if_pos (by rw [he]; exact beq_self_eq_true _)]
  exact State.kickMemo_rests (.inr (.inr ⟨rfl, hq⟩))

theorem State.memoDone_failed (he : (v, h, l) ≠ slotBytes w.string w.value) :
    s.memoDone v h l = (s.slotWritten w v h l).memoFailed w := by
  simp only [State.memoDone, hw, hb, if_true]
  rw [if_neg (by simpa only [beq_iff_eq] using he)]
  rfl

end Done

/-- Settles O19: a write whose slot reads back as written ends; any other is a failed attempt. -/
theorem memoWriteIsVerified : Obligations.MemoWriteIsVerified := by
  intro dt v h l s w hp hw hb hs hq hm
  have hwritten : ((s.elapse dt).memoDone v h l).smu.mem = Memory.writeSlot s.smu.mem w.string v h l := by
    by_cases he : (v, h, l) = slotBytes w.string w.value
    · rw [State.memoDone_verified (s := s.elapse dt) hw hb v h l he hq]
      rfl
    · rw [State.memoDone_failed (s := s.elapse dt) hw hb v h l he, State.memoFailed_mem]
      rfl
  have hqueue : ((s.elapse dt).memoDone v h l).smu.memoQueue = [] := by
    by_cases he : (v, h, l) = slotBytes w.string w.value
    · rw [State.memoDone_verified (s := s.elapse dt) hw hb v h l he hq]
      exact hq
    · rw [State.memoDone_failed (s := s.elapse dt) hw hb v h l he]
      by_cases hf : w.failed < 3
      · rw [State.memoFailed_retried (by exact hq) hf, State.kickMemo_goesOn (by exact hp) (by exact hs) rfl]
        exact hq
      · rw [State.memoFailed_dropped (by exact hq) (by omega)]
        exact hq
  have hframe := (s.elapse dt).memoDone_frame v h l
  obtain ⟨hv, hh, hl⟩ := Memory.read_writeSlot_same w.string v h l hm
  refine ⟨_, exec_memoWriteDone s dt v h l, hframe.keeps .ssu (by simp), hframe.keeps .eve (by simp), hframe.keeps .sel (by simp),
    hframe.keeps .prb (by simp), hframe.keeps .lnc (by simp), hframe.keeps .pvw (by simp), hframe.keeps .rsl (by simp),
    hframe.str (by simp), hqueue, fun a ha => ?_, ?_, ?_, ?_, fun he => ⟨?_, ?_, ?_⟩, fun he hf => ?_,
    fun he hf => ?_⟩
  · rw [State.settle_smu, hwritten, Memory.read_writeSlot_other _ _ _ _ _ _ ha]
  · rw [State.settle_smu, hwritten, hv]
  · rw [State.settle_smu, hwritten, hh]
  · rw [State.settle_smu, hwritten, hl]
  · rw [State.memoDone_verified (s := s.elapse dt) hw hb v h l he hq]
    rfl
  · rw [State.memoDone_verified (s := s.elapse dt) hw hb v h l he hq]
    rfl
  · simp only [State.readSlot, State.settle_smu, hwritten, hv, hh, hl, if_true]
    have hbytes := slotValue_slotBytes w.string w.value
    rwa [← he] at hbytes
  · rw [State.memoDone_failed (s := s.elapse dt) hw hb v h l he, State.memoFailed_retried (by exact hq) hf,
      State.kickMemo_goesOn (by exact hp) (by exact hs) rfl]
    exact ⟨by simp [hb]; rfl, rfl⟩
  · rw [State.memoDone_failed (s := s.elapse dt) hw hb v h l he, State.memoFailed_dropped (by exact hq) hf]
    exact ⟨rfl, rfl⟩

theorem State.memoTimeout_failed {s : State} {w : MemoWrite} (hw : s.smu.writer = some w) (hb : w.busy = true)
    (hr : reached s.now (w.began.plus 10) = true) : s.memoTimeout =
      ({ s.slotWritten w s.freeBytes.1 s.freeBytes.2.1 s.freeBytes.2.2 with freeCount := s.freeCount + 3 }).memoFailed w := by
  simp only [State.memoTimeout, hw, hb, memoBusyMs, hr, Bool.and_self, if_true]
  rfl

/-- Settles O20: the failed attempt is retried, waits for RUN, is dropped or superseded. -/
theorem memoTimeoutFailsAttempt : Obligations.MemoTimeoutFailsAttempt := by
  intro dt s w hp hw hb hr
  have hframe := (s.elapse dt).memoTimeout_frame
  have hfailed := State.memoTimeout_failed (s := s.elapse dt) hw hb hr
  refine ⟨_, exec_memoBusyTimeout s dt, hframe.keeps .ssu (by simp), hframe.keeps .eve (by simp), hframe.keeps .sel (by simp),
    hframe.keeps .prb (by simp), hframe.keeps .lnc (by simp), hframe.keeps .pvw (by simp), hframe.keeps .rsl (by simp),
    hframe.str (by simp), fun a ha => ?_, fun hq hf => ?_, fun hq hf => ?_,
    fun v q hq hs => ?_⟩
  · rw [State.settle_smu, hfailed, State.memoFailed_mem]
    exact Memory.read_writeSlot_other _ _ _ _ _ _ ha
  · rw [hfailed, State.memoFailed_retried (by exact hq) hf]
    cases hs : s.smu.supply with
    | run =>
      rw [State.kickMemo_goesOn (by exact hp) (by exact hs) rfl]
      exact ⟨rfl, by simp [hb]; rfl⟩
    | low =>
      rw [State.kickMemo_rests (.inr (.inl (by exact hs)))]
      exact ⟨rfl, rfl⟩
  · rw [hfailed, State.memoFailed_dropped (by exact hq) hf]
    exact ⟨rfl, rfl⟩
  · rw [hfailed, State.memoFailed_superseded (by exact hq), State.kickMemo_begins (by exact hp) (by exact hs) rfl (by exact hq)]
    exact ⟨rfl, rfl, rfl⟩

/-! ### Remembered stops (R172) -/

theorem State.releaseRemembered_string (s : State) (k : StringNo) :
    (s.releaseRemembered.string k).iso = (s.string k).iso ∧
    (s.releaseRemembered.string k).holds = (if k.val < s.smu.strings ∧ (s.string k).holds.stop = some .remembered
      then { (s.string k).holds with stop := none } else (s.string k).holds) ∧
    (s.releaseRemembered.string k).state = (if k.val < s.smu.strings ∧ (s.string k).holds.stop = some .remembered ∧ (s.string k).state = .opened ∧
      ({ (s.string k).holds with stop := none } : HoldSet).isEmpty = true then .closing else (s.string k).state) := by
  obtain ⟨-, hout, hin⟩ := forStrings_at (fun t j => ((t.string j).iso, (t.string j).holds, (t.string j).state)) (fun _ => True)
    (fun t k => t.releaseHold k .stopRemembered) (fun t k j _ hj => by
      obtain ⟨hiso, hholds, hstate⟩ := t.releaseHold_string k j .stopRemembered
      rw [hiso, hholds, hstate, if_neg (by simp [hj]), if_neg (by simp [hj])]) (fun _ _ _ => trivial) s.fittedStrings s.nodup_fittedStrings s trivial k
  rw [State.mem_fittedStrings] at hout hin
  by_cases hk : k.val < s.smu.strings
  · obtain ⟨t, -, hget, hset⟩ := hin hk
    obtain ⟨hiso, hholds, hstate⟩ := t.releaseHold_string k k .stopRemembered
    rw [hiso, hholds, hstate] at hset
    simp only [Prod.mk.injEq] at hget hset
    obtain ⟨giso, gholds, gstate⟩ := hget
    obtain ⟨siso, sholds, sstate⟩ := hset
    rw [State.releaseRemembered, siso, sholds, sstate, giso, gholds, gstate]
    simp [hk, HoldSet.has, HoldSet.remove]
  · have hget := hout hk
    simp only [Prod.mk.injEq] at hget
    simpa [hk, State.releaseRemembered] using hget

/-- Settles O16. -/
theorem rememberedStopsAreReleased : Obligations.RememberedStopsAreReleased := by
  intro dt s hs ht
  have hexpiry : (s.elapse dt).rememberedExpiry =
      ((s.elapse dt).setSmu { s.smu with rememberedAt := none }).releaseRemembered := if_pos ht
  have hkept : (s.elapse dt).rememberedExpiry.smu.withoutMemos = ({ s.smu with rememberedAt := none } : Smu).withoutMemos := by
    rw [hexpiry]
    simp
  have hframe := (s.elapse dt).rememberedExpiry_frame
  refine ⟨_, exec_rememberedStopExpiry hs dt, rememberedAt_of_withoutMemos (s := (s.elapse dt).setSmu { s.smu with rememberedAt := none }) hkept,
    hframe.keeps .ssu (by simp), hframe.keeps .eve (by simp), hframe.keeps .sel (by simp), hframe.keeps .prb (by simp), hframe.keeps .lnc (by simp),
    hframe.keeps .pvw (by simp), hframe.keeps .rsl (by simp), mem_of_withoutMemos (s := (s.elapse dt).setSmu { s.smu with rememberedAt := none }) hkept,
    fun k => ?_⟩
  have hstring := ((s.elapse dt).setSmu { s.smu with rememberedAt := none }).releaseRemembered_string k
  rw [← hexpiry] at hstring
  exact hstring

end Sys2Proof.Machine

/-! PROOFS. Trips and current mismatch (R21, R140, R155). -/

namespace Sys2Proof.Machine

open Sys2Proof.Safety

/-! ### Trips (R21) -/

theorem trips_iff (before after qual : Nat) : trips before after qual = true ↔ after = qual ∧ before + 1 = qual := by
  simp [trips]

theorem trips_of_not_risen {before after : Nat} (h : after ≤ before) (qual : Nat) : trips before after qual = false := by
  simp only [Bool.eq_false_iff, ne_eq, trips_iff]
  omega

section Trip
variable {e e' : Evidence} {c : Settings}

theorem tripOf_reverse (hq : e.qr + 1 = c.revQual) (hq' : e'.qr = c.revQual) : tripOf e e' c = some .reverse :=
  if_pos ((trips_iff _ _ _).2 ⟨hq', hq⟩)

theorem tripOf_overcurrent (hq : e.qo + 1 = c.ocQual) (hq' : e'.qo = c.ocQual) (hr : e'.qr ≤ e.qr) : tripOf e e' c = some .overcurrent := by
  simp [tripOf, trips_of_not_risen hr, (trips_iff _ _ _).2 ⟨hq', hq⟩]

theorem tripOf_of_not_risen (hr : e'.qr ≤ e.qr) (ho : e'.qo ≤ e.qo) : tripOf e e' c = none := by
  simp [tripOf, trips_of_not_risen hr, trips_of_not_risen ho]

end Trip

/-- State and holds of a string after the trips of a set: those its own trip leaves. -/
theorem State.handTrips_string (s : State) (e : PerString Evidence) {k : StringNo} (hk : k.val < s.smu.strings) :
    ∃ t : State, (t.string k).state = (s.string k).state ∧ (t.string k).holds = (s.string k).holds ∧
      (tripOf e[k] s.eve[k] s.smu.settings = none → ((s.handTrips e).string k).state = (t.string k).state ∧
        ((s.handTrips e).string k).holds = (t.string k).holds) ∧
      ∀ c, tripOf e[k] s.eve[k] s.smu.settings = some c →
        ((s.handTrips e).string k).state = ((t.addHold k (.fault { cause := c, detail := HoldDetail.none })).string k).state ∧
        ((s.handTrips e).string k).holds = ((t.addHold k (.fault { cause := c, detail := HoldDetail.none })).string k).holds := by
  obtain ⟨-, -, hin⟩ := forStrings_at (fun t j => ((t.string j).state, (t.string j).holds)) (fun _ => True)
    (fun t j => match tripOf e[j] s.eve[j] s.smu.settings with
      | none => t
      | some c => t.addHold j (.fault { cause := c, detail := HoldDetail.none }))
    (fun t j i _ hi => by
      cases tripOf e[j] s.eve[j] s.smu.settings with
      | none => rfl
      | some c =>
        obtain ⟨-, hother, -⟩ := t.addHold_string j i (.fault { cause := c, detail := HoldDetail.none })
        exact Prod.ext (hother hi).1 (hother hi).2)
    (fun _ _ _ => trivial) s.fittedStrings s.nodup_fittedStrings s trivial k
  obtain ⟨t, -, hget, hset⟩ := hin ((s.mem_fittedStrings k).2 hk)
  simp only [Prod.mk.injEq] at hget hset
  refine ⟨t, hget.1, hget.2, fun hnone => ?_, fun c hc => ?_⟩
  · rw [hnone] at hset
    exact hset
  · rw [hc] at hset
    exact hset

/-! ### Current mismatch (R155) -/

section Mismatch
variable {s : State} {k : StringNo} (ho : (s.string k).state = .opened)
include ho

theorem State.mismatchTest_sticks (hi : 20 ≤ s.ssu.str[k].record.current.natAbs) (hm : 2 ≤ (s.string k).mismatch) :
    s.mismatchTest k = (s.setRelease k fun r => { r with recloseAt := none }).becomeStuck k .stuckClosed := by
  rw [State.mismatchTest, if_pos (by rw [ho]; rfl), if_pos hi, if_pos (by omega)]

theorem State.mismatchTest_counts (hi : 20 ≤ s.ssu.str[k].record.current.natAbs) (hm : (s.string k).mismatch < 2) :
    s.mismatchTest k = s.setString k fun r => { r with mismatch := r.mismatch + 1 } := by
  rw [State.mismatchTest, if_pos (by rw [ho]; rfl), if_pos hi, if_neg (by omega)]

theorem State.mismatchTest_clears (hi : s.ssu.str[k].record.current.natAbs < 20) :
    s.mismatchTest k = s.setString k fun r => { r with mismatch := 0 } := by
  rw [State.mismatchTest, if_pos (by rw [ho]; rfl), if_neg (by omega)]

end Mismatch

/-- What a string that becomes STUCK keeps (R154). -/
theorem State.becomeStuck_string (s : State) (k : StringNo) (st : StringState) :
    ((s.becomeStuck k st).string k).state = st ∧ ((s.becomeStuck k st).string k).holds = (s.string k).holds ∧
    ((s.becomeStuck k st).string k).request = none := by
  unfold State.becomeStuck
  generalize hu : (s.setString k fun r => { r with state := st, mismatch := 0, request := none }) = u
  have hstring : u.string k = { s.string k with state := st, mismatch := 0, request := none } := by
    rw [← hu, State.setString_string]
  have hsel := State.string_of_swc ((State.selStuck_frame (u.updateMemo k) k).keeps .swc (by simp)) k
  obtain ⟨hstate, hholds, -⟩ := u.updateMemo_string k k
  rw [hsel, hstate, hholds, u.updateMemo_request k k, hstring]
  exact ⟨rfl, rfl, rfl⟩

/-- Settles O29. -/
theorem tripsOpenAndMismatchSticks : Obligations.TripsOpenAndMismatchSticks := by
  refine ⟨fun _ _ _ => tripOf_reverse, fun _ _ _ => tripOf_overcurrent, fun _ _ _ => tripOf_of_not_risen, fun s e k hk => ?_,
    fun s k ho hi hm => ?_, fun s k ho hi hm => State.mismatchTest_counts ho hi hm, fun s k ho hi => State.mismatchTest_clears ho hi⟩
  · obtain ⟨t, hstate, hholds, hnone, hsome⟩ := s.handTrips_string e hk
    refine ⟨fun c hc hclosed hf => ?_, fun h => by rw [(hnone h).1, (hnone h).2, hstate, hholds]; exact ⟨rfl, rfl⟩⟩
    obtain ⟨-, -, hadd⟩ := t.addHold_string k k (.fault { cause := c, detail := HoldDetail.none })
    specialize hadd rfl
    rw [hstate, hclosed] at hadd
    rw [(hsome c hc).1, (hsome c hc).2, hadd.1, hadd.2, hholds]
    exact ⟨rfl, if_pos (by rw [hf]; rfl)⟩
  · rw [State.mismatchTest_sticks ho hi hm.ge]
    obtain ⟨hstate, hholds, -⟩ := (s.setRelease k fun r => { r with recloseAt := none }).becomeStuck_string k .stuckClosed
    have hrsl : ((s.setRelease k fun r => { r with recloseAt := none }).becomeStuck k .stuckClosed).rsl =
        (s.setRelease k fun r => { r with recloseAt := none }).rsl := (State.becomeStuck_frame _ _ _).keeps .rsl (by simp)
    refine ⟨hstate, ?_, hholds⟩
    rw [hrsl, State.setRelease_same]

end Sys2Proof.Machine

/-! PROOFS. The best of a list (R19, R29, R32, R86, R105), and the claims that lapse (R28, R48). -/

namespace Sys2Proof.Machine

open Sys2Proof.Safety

/-! ### The best of a list

The model takes the strongest claim, the winner of an onset, the best string and the frame to evict by one scan, which holds the best element so far. -/

/-- One step of the scan. -/
def pick {α : Type} (better : α → α → Bool) (best : Option α) (x : α) : Option α :=
  match best with
  | none => some x
  | some b => if better x b then some x else some b

section Pick
variable {α : Type} {better : α → α → Bool}

theorem foldl_pick_isSome (b : α) (xs : List α) : (xs.foldl (pick better) (some b)).isSome = true := by
  induction xs generalizing b with
  | nil => rfl
  | cons x xs ih =>
    rw [List.foldl_cons, pick]
    split <;> exact ih _

theorem foldl_pick_eq_none (xs : List α) : xs.foldl (pick better) none = none ↔ xs = [] := by
  cases xs with
  | nil => simp
  | cons x xs =>
    have hsome := foldl_pick_isSome (better := better) x xs
    simp only [List.foldl_cons, pick, reduceCtorEq, iff_false]
    exact fun h => by simp [h] at hsome

variable (hasymm : ∀ a b, better a b = true → better b a = false)
  (hneg : ∀ a b c, better a b = false → better b c = false → better a c = false)
include hasymm hneg

/-- The scan's element is better than every one before it, and none after it is better. -/
theorem foldl_pick_spec {xs : List α} {r : α} (h : xs.foldl (pick better) none = some r) :
    ∃ pre post, xs = pre ++ r :: post ∧ (∀ y ∈ pre, better r y = true) ∧ ∀ y ∈ post, better y r = false := by
  induction xs using List.reverseRecOn generalizing r with
  | nil => simp at h
  | append_singleton xs x ih =>
    rw [List.foldl_append, List.foldl_cons, List.foldl_nil] at h
    cases hb : xs.foldl (pick better) none with
    | none =>
      rw [hb] at h
      cases h
      exact ⟨[], [], by simp [(foldl_pick_eq_none xs).1 hb], by simp, by simp⟩
    | some b =>
      obtain ⟨pre, post, rfl, hpre, hpost⟩ := ih hb
      rw [hb, pick] at h
      split at h
      · next hx =>
        cases h
        refine ⟨pre ++ b :: post, [], rfl, fun y hy => ?_, by simp⟩
        rw [List.mem_append, List.mem_cons] at hy
        by_contra hxy
        rw [Bool.not_eq_true] at hxy
        rcases hy with hy | rfl | hy
        · have := hneg _ _ _ (hasymm _ _ hx) hxy
          rw [hpre y hy] at this
          exact absurd this (by simp)
        · exact absurd (hx.symm.trans hxy) (by simp)
        · have := hneg _ _ _ hxy (hpost y hy)
          exact absurd (hx.symm.trans this) (by simp)
      · next hx =>
        cases h
        refine ⟨pre, post ++ [x], by simp, hpre, fun y hy => ?_⟩
        rcases List.mem_append.1 hy with hy | hy
        · exact hpost y hy
        · rw [List.mem_singleton.1 hy]
          simpa using hx

/-- The scan's element is one of the list, and none is better. -/
theorem foldl_pick_unbeaten {xs : List α} {r : α} (h : xs.foldl (pick better) none = some r) :
    r ∈ xs ∧ ∀ y ∈ xs, better y r = false := by
  obtain ⟨pre, post, rfl, hpre, hpost⟩ := foldl_pick_spec hasymm hneg h
  refine ⟨by simp, fun y hy => ?_⟩
  rcases List.mem_append.1 hy with hy | hy
  · exact hasymm _ _ (hpre y hy)
  · rcases List.mem_cons.1 hy with rfl | hy
    · by_contra hself
      rw [Bool.not_eq_false] at hself
      exact absurd ((hasymm _ _ hself).symm.trans hself) (by simp)
    · exact hpost y hy

end Pick

/-! ### Outranking (R29, R32) -/

theorem outranks_iff (r a r' a' : Nat) : outranks r a r' a' = true ↔ r' < r ∨ (r = r' ∧ a < a') := by
  simp [outranks]

theorem outranks_eq_false (r a r' a' : Nat) : outranks r a r' a' = false ↔ r < r' ∨ (r = r' ∧ a' ≤ a) := by
  rw [← Bool.not_eq_true, outranks_iff]
  omega

theorem strongest_eq (es : List ClaimEntry) :
    strongest es = es.foldl (pick fun e b => outranks e.rank e.source b.rank b.source) none := by
  unfold strongest
  congr 1
  funext best e
  cases best <;> rfl

theorem strongest_eq_none (es : List ClaimEntry) : strongest es = none ↔ es = [] := by
  rw [strongest_eq, foldl_pick_eq_none]

theorem strongest_unbeaten {es : List ClaimEntry} {b : ClaimEntry} (h : strongest es = some b) :
    b ∈ es ∧ ∀ e ∈ es, outranks e.rank e.source b.rank b.source = false := by
  rw [strongest_eq] at h
  refine foldl_pick_unbeaten (fun a b => ?_) (fun a b c => ?_) h
  · simp only [outranks_iff, outranks_eq_false]
    omega
  · simp only [outranks_eq_false]
    omega

theorem exists_strongest {es : List ClaimEntry} (h : es ≠ []) : ∃ b, strongest es = some b := by
  cases hb : strongest es with
  | none => exact absurd ((strongest_eq_none es).1 hb) h
  | some b => exact ⟨b, rfl⟩

/-- Settles O30. -/
theorem strongestClaimIsUnbeaten : Obligations.StrongestClaimIsUnbeaten := by
  refine ⟨outranks_iff, fun s e rank => ⟨outranks_iff _ _ _ _, fun ha => ?_⟩, fun r a => ?_, fun r a r' a' r'' a'' => ?_,
    fun r a r' a' hne => ?_, fun es hes => ?_⟩
  · rw [State.entryOutranks, outranks_iff, ha]
    omega
  · rw [outranks_eq_false]
    omega
  · simp only [outranks_iff]
    omega
  · rw [outranks_iff, outranks_eq_false]
    omega
  · obtain ⟨b, hb⟩ := exists_strongest hes
    obtain ⟨hmem, hunbeaten⟩ := strongest_unbeaten hb
    refine ⟨b, hmem, hb, fun e he => ⟨hunbeaten e he, ?_⟩⟩
    have hranks := hunbeaten e he
    rwa [outranks_eq_false] at hranks

/-! ### Claims and decisions that lapse (R28, R48) -/

/-- Settles O32. -/
theorem claimMemoryLapses : Obligations.ClaimMemoryLapses := by
  refine fun dt s hs => ⟨fun p k => ?_, fun r d hr => ?_⟩
  · have hfilter : (fun e : ClaimEntry => !(e.source == p.address && e.kind == k && reached (s.now.plus dt) (e.arrival.plus claimAgeMs))) =
        fun e => decide (¬(e.source = p.val + 1 ∧ e.kind = k ∧ reached (s.now.plus dt) (e.arrival.plus 10000) = true)) := by
      funext e
      rw [Bool.eq_iff_iff]
      simp [PeerNo.address, claimAgeMs, or_assoc]
    rw [exec_claimExpiry hs, ← hfilter]
    rfl
  · rw [exec_recentDecisionExpiry hs]
    have hexpired : expired (s.elapse dt).now ((s.elapse dt).sel.recent.map fun x => x.2.plus recentMs) =
        reached (s.now.plus dt) (d.plus 10000) := by
      rw [show (s.elapse dt).sel.recent = some (r, d) from hr]
      rfl
    rw [State.recentExpiry, hexpired]
    split
    · rfl
    · rw [← hr]
      rfl

end Sys2Proof.Machine

/-! PROOFS. The decision point and the ground decision (R38, R44, R52, R54). -/

namespace Sys2Proof.Machine

open Sys2Proof.Safety

/-! ### A claim withdrawn, and an incident that closes (R35, R44, R110) -/

theorem afterWithdrawal_of_none {l : Lnc} {k : Kind} (h : l.queue.find? (fun f => f.kind == k) = none) : afterWithdrawal l k = l := by
  unfold afterWithdrawal
  rw [h]

section Withdrawal
variable {s : State} {k : IncidentKind} {i : Incident} (hi : s.incident k = some i)
include hi

/-- A claim that is still QUEUED after its withdrawal was asked is not moved by asking again. -/
theorem State.withdrawClaim_settled :
    let l := if i.claim = .queued then afterWithdrawal s.lnc k.frame else s.lnc
    let granted := i.claim = .queued ∧ ∃ g, s.queuedOf k.frame = some g ∧ s.lnc.sending ≠ some g.entry
    ∃ c, s.withdrawClaim k = ({ s with lnc := l }).setIncident k (some { i with claim := c }) ∧
      (granted → c = .withdrawn) ∧ (¬granted → c = i.claim) ∧ (c = .queued → afterWithdrawal l k.frame = l) := by
  intro l granted
  obtain ⟨c, hwithdraw, hgranted, hnot⟩ := State.withdrawClaim_whole hi
  refine ⟨c, hwithdraw, hgranted, hnot, fun hc => ?_⟩
  have hng : ¬granted := fun hg => by
    rw [hgranted hg] at hc
    exact absurd hc (by simp)
  have hqueued : i.claim = .queued := (hnot hng).symm.trans hc
  have hl : l = afterWithdrawal s.lnc k.frame := if_pos hqueued
  rw [hl]
  cases hq : s.queuedOf k.frame with
  | none =>
    rw [afterWithdrawal_of_none hq, afterWithdrawal_of_none hq]
  | some g =>
    have hsending : s.lnc.sending = some g.entry := by
      by_contra hs
      exact hng ⟨hqueued, g, hq, hs⟩
    exact afterWithdrawal_again hq hsending

theorem State.closeIncident_eq :
    s.closeIncident k = ({ s with lnc := if i.claim = ClaimState.queued then afterWithdrawal s.lnc k.frame else s.lnc }).setIncident k none := by
  obtain ⟨c, hwithdraw, -⟩ := State.withdrawClaim_whole hi
  rw [State.closeIncident, hwithdraw]
  cases k <;> rfl

theorem State.closeIncident_of_settled (hl : i.claim = .queued → afterWithdrawal s.lnc k.frame = s.lnc) :
    s.closeIncident k = s.setIncident k none := by
  rw [State.closeIncident_eq hi]
  by_cases hc : i.claim = .queued
  · rw [if_pos hc, hl hc]
  · rw [if_neg hc]

end Withdrawal

/-! ### A fault hold asked for an incident's string (R38, R44, R52) -/

theorem faultHoldTaken_congr {s s' t t' : State} {k : StringNo} {h : FaultHold} (hs : s'.swc = s.swc) (hsmu : s'.smu = s.smu)
    (ht : t'.swc = t.swc) (htmu : t'.smu = t.smu) (hold : FaultHoldTaken s t k h) : FaultHoldTaken s' t' k h := by
  have hs' := State.string_of_swc hs
  have ht' := State.string_of_swc ht
  unfold FaultHoldTaken
  simp only [hs', ht', hsmu, htmu, ht]
  exact hold

theorem State.setIncident_swc (s : State) (k : IncidentKind) (i : Option Incident) : (s.setIncident k i).swc = s.swc := by
  cases k <;> rfl

theorem State.setIncident_smu (s : State) (k : IncidentKind) (i : Option Incident) : (s.setIncident k i).smu = s.smu := by
  cases k <;> rfl

theorem State.setIncident_lnc (s : State) (k : IncidentKind) (i : Option Incident) : (s.setIncident k i).lnc = s.lnc := by
  cases k <;> rfl

/-- Everything the request of a hold for the string of an incident does, its claim's withdrawal settled. -/
theorem State.requestHold_spec {s : State} {x : IncidentKind} {i : Incident} (k : StringNo) (h : FaultHold) (hi : s.incident x = some i)
    (hl : i.claim = .queued → afterWithdrawal s.lnc x.frame = s.lnc) :
    FaultHoldTaken s (s.requestHold x k h) k h ∧ (s.requestHold x k h).lnc = s.lnc ∧
    (NoOpeningComes (s.string k) → (s.requestHold x k h).sel = (s.setIncident x none).sel) ∧
    (¬NoOpeningComes (s.string k) → (s.requestHold x k h).sel = s.sel) := by
  have hframe := s.addHold_frame k (.fault h)
  have hsel : (s.addHold k (.fault h)).sel = s.sel := hframe.keeps .sel (by simp)
  have hlnc : (s.addHold k (.fault h)).lnc = s.lnc := hframe.keeps .lnc (by simp)
  have hold := s.addHold_faultTaken k h
  have hi' : (s.addHold k (.fault h)).incident x = some i := by
    rw [← hi]
    cases x <;> simp only [State.incident, hsel]
  have hclose := State.closeIncident_of_settled hi' (by rwa [hlnc])
  by_cases hno : NoOpeningComes (s.string k)
  · have hreq : s.requestHold x k h = (s.addHold k (.fault h)).setIncident x none := by
      rw [State.requestHold, if_pos ((StringRecord.noOpening_iff _).2 hno), hclose]
    rw [hreq]
    refine ⟨faultHoldTaken_congr rfl rfl (State.setIncident_swc _ _ _) (State.setIncident_smu _ _ _) hold,
      (State.setIncident_lnc _ _ _).trans hlnc, fun _ => ?_, fun hn => absurd hno hn⟩
    cases x <;> simp only [State.setIncident, State.setArc, State.setGround, hsel]
  · have hreq : s.requestHold x k h = s.addHold k (.fault h) :=
      if_neg fun hn => hno ((StringRecord.noOpening_iff _).1 hn)
    rw [hreq]
    exact ⟨hold, hlnc, fun hn => absurd hn hno, fun _ => hsel⟩

/-! ### DECISION_POINT (R38) -/

theorem State.decideArc_rests {s : State} {i : Incident} (hi : s.sel.arc = some i)
    (h : i.state ≠ .claiming ∨ reached s.now i.decision = false) : s.decideArc = s := by
  simp only [State.decideArc, hi]
  refine if_neg ?_
  rcases h with h | h <;> simp [h]

theorem State.decideArc_decides {s : State} {i : Incident} (hi : s.sel.arc = some i) (hs : i.state = .claiming)
    (hd : reached s.now i.decision = true) :
    ∃ u : State, s.decideArc = u.requestHold .arc i.string { cause := .arc, detail := { rank := i.rank, round := i.round, tag := none } } ∧
      u = { ((s.setArc (some { i with state := .decided })).withdrawClaim .arc) with
        sel := { ((s.setArc (some { i with state := .decided })).withdrawClaim .arc).sel with recent := some (i.rank, i.decision) } } := by
  refine ⟨_, ?_, rfl⟩
  simp [State.decideArc, hi, hs, hd]

/-- Settles O33. -/
theorem decisionPointAddsArcHold : Obligations.DecisionPointAddsArcHold := by
  intro dt s i hs hi granted
  refine ⟨fun hc hd => ?_, fun h => ?_⟩
  · obtain ⟨u, hdecide, hu⟩ := State.decideArc_decides (s := s.elapse dt) hi hc hd
    obtain ⟨c, hwithdraw, hgranted, hnot, hsettled⟩ :=
      State.withdrawClaim_settled (s := (s.elapse dt).setArc (some { i with state := .decided })) (k := .arc) rfl
    rw [hwithdraw] at hu
    obtain ⟨hold, hlnc, hcloses, hstays⟩ := State.requestHold_spec (s := u) (x := .arc) (i := { i with state := .decided, claim := c })
      i.string { cause := .arc, detail := { rank := i.rank, round := i.round, tag := none } } (by rw [hu]; rfl) (by rw [hu]; exact hsettled)
    have hkept : (s.elapse dt).decideArc.smu.withoutMemos = s.smu.withoutMemos := by
      rw [hdecide, State.requestHold_withoutMemos, hu]
      rfl
    have hframe := (s.elapse dt).decideArc_frame
    rw [hdecide] at hframe hkept
    refine ⟨_, exec_decisionPoint hs dt, ?_⟩
    rw [hdecide]
    have hstring : u.string i.string = s.string i.string := by rw [hu]; rfl
    refine ⟨faultHoldTaken_congr (by rw [hu]; rfl) (by rw [hu]; rfl) rfl rfl hold, ?_, fun hno => ?_, fun hopen => ?_, hlnc.trans (by rw [hu]; rfl),
      hframe.keeps .ssu (by simp), hframe.keeps .eve (by simp), hframe.keeps .prb (by simp), hframe.keeps .pvw (by simp),
      mem_of_withoutMemos (s := s) hkept⟩
    · by_cases hno : NoOpeningComes (u.string i.string)
      · rw [State.settle_sel, hcloses hno, hu]
        rfl
      · rw [State.settle_sel, hstays hno, hu]
        rfl
    · rw [State.settle_sel, hcloses (by rwa [hstring])]
      rfl
    · refine ⟨c, ?_, hgranted, hnot⟩
      rw [State.settle_sel, hstays (by rwa [hstring]), hu]
      rfl
  · rw [exec_decisionPoint hs, State.decideArc_rests (s := s.elapse dt) hi h]

/-! ### GROUND_DECISION (R52, R54) -/

section Ground
variable {s : State} {i : Incident} (hi : s.sel.ground = some i)
include hi

theorem State.decideGround_rests (h : ¬reached s.now i.decision = true ∨ i.state = .decided) : s.decideGround = s := by
  simp only [State.decideGround, hi]
  rcases h with h | h
  · rw [if_neg h]
  · simp [h]

variable (hd : reached s.now i.decision = true)
include hd

theorem State.decideGround_yields (hs : i.state = .yielded) : s.decideGround = (s.setSuspect i.string false).closeIncident .ground := by
  simp [State.decideGround, hi, hd, hs]

theorem State.decideGround_isolates (hs : i.state = .claiming) (ht : i.riso.getD rangeEnd < s.smu.settings.gfTrip)
    (ha : s.smu.settings.gfAction = .isolate) :
    s.decideGround = (((s.setGround (some { i with state := .decided })).withdrawClaim .ground).setSuspect i.string false).requestHold .ground
      i.string { cause := .ground, detail := { rank := i.rank, round := 0, tag := i.tag } } := by
  have hsmu : ((s.setGround (some { i with state := .decided })).withdrawClaim .ground).smu = s.smu :=
    (State.withdrawClaim_frame _ _).keeps .smu (by simp)
  simp [State.decideGround, hi, hd, hs, hsmu, ht, ha]

theorem State.decideGround_marks (hs : i.state = .claiming)
    (h : s.smu.settings.gfTrip ≤ i.riso.getD rangeEnd ∨ s.smu.settings.gfAction = .report) :
    s.decideGround =
      (((s.setGround (some { i with state := .decided })).withdrawClaim .ground).setSuspect i.string true).closeIncident .ground := by
  have hsmu : ((s.setGround (some { i with state := .decided })).withdrawClaim .ground).smu = s.smu :=
    (State.withdrawClaim_frame _ _).keeps .smu (by simp)
  have hnot : ¬(i.riso.getD rangeEnd < s.smu.settings.gfTrip ∧ s.smu.settings.gfAction = .isolate) := by
    rintro ⟨hlt, hact⟩
    rcases h with h | h
    · omega
    · rw [h] at hact
      exact absurd hact (by simp)
  simp only [State.decideGround, hi, hd, hs, if_true, hsmu, hnot, if_false]

end Ground

/-- Settles O34. -/
theorem groundDecisionIsolatesOrMarks : Obligations.GroundDecisionIsolatesOrMarks := by
  intro dt s i r hs hi hr due run granted l marked
  have hrun : run = .next (s.elapse dt).decideGround.settle := exec_groundDecision hs dt
  have hriso : i.riso.getD rangeEnd = r := by rw [hr]; rfl
  obtain ⟨c, hwithdraw, hgranted, hnot, hsettled⟩ :=
    State.withdrawClaim_settled (s := (s.elapse dt).setGround (some { i with state := .decided })) (k := .ground) rfl
  refine ⟨fun hd hc ht ha => ?_, fun hd hc h => ?_, fun hd hy => ?_, fun h => ?_⟩
  · have hdecide := State.decideGround_isolates (s := s.elapse dt) hi hd hc (by rw [hriso]; exact ht) ha
    generalize hu : (((s.elapse dt).setGround (some { i with state := .decided })).withdrawClaim .ground).setSuspect i.string false = u at hdecide
    rw [hwithdraw] at hu
    obtain ⟨hold, hlnc, hcloses, hstays⟩ := State.requestHold_spec (s := u) (x := .ground) (i := { i with state := .decided, claim := c })
      i.string { cause := .ground, detail := { rank := i.rank, round := 0, tag := i.tag } } (by rw [← hu]; rfl) (by rw [← hu]; exact hsettled)
    have hkept : (s.elapse dt).decideGround.smu.withoutMemos = s.smu.withoutMemos := by
      rw [hdecide, State.requestHold_withoutMemos, ← hu]
      rfl
    have hframe := (s.elapse dt).decideGround_frame
    rw [hdecide] at hframe hkept hrun
    have hstring : u.string i.string = s.string i.string := by rw [← hu]; rfl
    refine ⟨_, hrun, faultHoldTaken_congr (by rw [← hu]; rfl) (by rw [← hu]; rfl) rfl rfl hold, ?_, fun hno => ?_, fun hopen => ?_,
      hlnc.trans (by rw [← hu]; rfl), hframe.keeps .ssu (by simp), hframe.keeps .eve (by simp), hframe.keeps .prb (by simp),
      hframe.keeps .pvw (by simp), mem_of_withoutMemos (s := s) hkept⟩
    · by_cases hno : NoOpeningComes (u.string i.string)
      · rw [State.settle_sel, hcloses hno, ← hu]
        rfl
      · rw [State.settle_sel, hstays hno, ← hu]
        rfl
    · rw [State.settle_sel, hcloses (by rwa [hstring])]
      rfl
    · refine ⟨c, ?_, hgranted, hnot⟩
      rw [State.settle_sel, hstays (by rwa [hstring]), ← hu]
      rfl
  · rw [hrun, State.decideGround_marks (s := s.elapse dt) hi hd hc (by rw [hriso]; exact h), hwithdraw,
      State.closeIncident_of_settled (i := { i with state := .decided, claim := c }) rfl hsettled]
    rfl
  · rw [hrun, State.decideGround_yields (s := s.elapse dt) hi hd hy, State.closeIncident_eq (s := (s.elapse dt).setSuspect i.string false) (k := .ground) hi]
    rfl
  · rw [hrun, State.decideGround_rests (s := s.elapse dt) hi h]

end Sys2Proof.Machine

/-! PROOFS. Rounds of an arc incident: an onset claims or yields, and so does the round after a yield hold (R19, R20, R31 to R33, R40 to R43). -/

namespace Sys2Proof.Machine

open Sys2Proof.Safety

/-! ### The oldest frame that may be evicted (R105) -/

theorem State.oldestEvictable_eq (s : State) :
    s.oldestEvictable = (s.lnc.queue.filter s.evictable).foldl (pick fun f b => decide (f.entry < b.entry)) none := by
  unfold State.oldestEvictable
  congr 1
  funext best f
  cases best <;> simp [pick]

theorem State.oldestEvictable_oldest {s : State} {old : QueuedFrame} (h : s.oldestEvictable = some old) :
    ∀ f ∈ s.lnc.queue, s.evictable f = true → old.entry ≤ f.entry := by
  rw [State.oldestEvictable_eq] at h
  obtain ⟨-, hold⟩ := foldl_pick_unbeaten (fun a b => by simp; omega) (fun a b c => by simp; omega) h
  intro f hf hev
  simpa using hold f (List.mem_filter.2 ⟨hf, hev⟩)

theorem State.makeRoomAndEnter_of_eviction {s : State} {f g : QueuedFrame} (hfull : 16 ≤ s.lnc.queue.length) (hg : g ∈ s.lnc.queue)
    (hev : s.evictable g = true) : ∃ old ∈ s.lnc.queue, s.evictable old = true ∧
      (∀ x ∈ s.lnc.queue, s.evictable x = true → old.entry ≤ x.entry) ∧
      s.makeRoomAndEnter f = ((s.removeEntry old.entry).enterFrame f, true) := by
  cases hold : s.oldestEvictable with
  | none =>
    rw [State.oldestEvictable_eq, foldl_pick_eq_none] at hold
    exact absurd (List.mem_filter.2 ⟨hg, hev⟩) (by rw [hold]; simp)
  | some old =>
    obtain ⟨hmem, hevictable⟩ := State.oldestEvictable_mem hold
    refine ⟨old, hmem, hevictable, State.oldestEvictable_oldest hold, ?_⟩
    simp only [State.makeRoomAndEnter, hold, capacity]
    rw [if_neg (by omega)]

/-- Entering a frame of another kind leaves the queued frame of a kind. -/
theorem find?_insertFrame_other {f : QueuedFrame} {k : Kind} (h : f.kind ≠ k) (q : List QueuedFrame) :
    (insertFrame f q).find? (fun g => g.kind == k) = q.find? fun g => g.kind == k := by
  induction q with
  | nil => simp [insertFrame, h]
  | cons g rest ih =>
    unfold insertFrame
    split
    · simp [h]
    · rw [List.find?_cons, List.find?_cons, ih]

/-! ### Candidates and winner (R19, R20) -/

theorem State.mem_candidates (s : State) (e : PerString Evidence) (k : StringNo) : k ∈ s.candidates e ↔ k.val < s.smu.strings ∧
    s.eve[k].eligible = true ∧ s.smu.settings.arcQual ≤ s.eve[k].q ∧ tripOf e[k] s.eve[k] s.smu.settings = none := by
  simp only [State.candidates, List.mem_filter, State.mem_fittedStrings, Bool.and_eq_true, decide_eq_true_eq, Option.isNone_iff_eq_none,
    and_assoc]

theorem State.candidates_ascending (s : State) (e : PerString Evidence) : (s.candidates e).Pairwise (· < ·) := by
  have hall : allStrings.Pairwise (· < ·) := by decide
  exact (hall.filter _).filter _

theorem State.winner_eq (s : State) (ks : List StringNo) :
    s.winner ks = ks.foldl (pick fun k b => decide (s.eve[b].peak < s.eve[k].peak)) none := by
  unfold State.winner
  congr 1
  funext best k
  cases best <;> simp [pick]

theorem State.winner_eq_none (s : State) (ks : List StringNo) : s.winner ks = none ↔ ks = [] := by
  rw [State.winner_eq, foldl_pick_eq_none]

/-- The winner has the highest run peak, and a higher one than every candidate before it. -/
theorem State.winner_spec {s : State} {ks : List StringNo} {k : StringNo} (hks : ks.Pairwise (· < ·)) (h : s.winner ks = some k) :
    k ∈ ks ∧ ∀ j ∈ ks, s.eve[j].peak ≤ s.eve[k].peak ∧ (j < k → s.eve[j].peak < s.eve[k].peak) := by
  rw [State.winner_eq] at h
  obtain ⟨pre, post, rfl, hpre, hpost⟩ := foldl_pick_spec (fun a b => by simp only [decide_eq_true_eq, decide_eq_false_iff_not]; omega)
    (fun a b c => by simp only [decide_eq_false_iff_not]; omega) h
  simp only [decide_eq_true_eq, decide_eq_false_iff_not, not_lt] at hpre hpost
  refine ⟨by simp, fun j hj => ?_⟩
  rcases List.mem_append.1 hj with hj | hj
  · exact ⟨(hpre j hj).le, fun _ => hpre j hj⟩
  · rcases List.mem_cons.1 hj with rfl | hj
    · exact ⟨le_rfl, fun h => absurd h (lt_irrefl _)⟩
    · have hafter : k < j := List.rel_of_pairwise_cons (List.pairwise_append.1 hks).2.1 hj
      exact ⟨hpost j hj, fun h => absurd h hafter.not_gt⟩

/-! ### A round opens (R31 to R33, R42) -/

section Round
variable {s : State} {i : Incident}

/-- An entry that beats an incident of a round: relevant, of the last SEL_WIN, and outranking (R32). -/
theorem State.mem_lookback (s : State) (i : Incident) (e : ClaimEntry) : e ∈ s.lookback i ↔ e ∈ s.sel.claimLog ∧
    relevant i e = true ∧ i.onset.since e.arrival ≤ s.smu.settings.selWin ∧ (i.rank < e.rank ∨ (e.rank = i.rank ∧ e.source < s.smu.address)) := by
  simp only [State.lookback, List.mem_filter, Bool.and_eq_true, decide_eq_true_eq, State.entryOutranks, outranks_iff, and_assoc]

theorem relevant_arc (hk : i.kind = .arc) (e : ClaimEntry) : relevant i e = true ↔ e.kind = .arcClaim ∨ (e.kind = .isolated ∧
    e.cause = some .arc ∧ ¬(1 < i.round ∧ ∃ b, i.beatenBy = some b ∧ b.source = e.source)) := by
  simp only [relevant, hk]
  by_cases hround : 1 < i.round <;> cases e.kind <;> simp [hround]

theorem State.openRound_yields (hf : s.forced i = false) {e : ClaimEntry} (he : e ∈ s.lookback i) : ∃ b ∈ s.lookback i,
    (∀ x ∈ s.lookback i, outranks x.rank x.source b.rank b.source = false) ∧
    s.openRound i = s.setArc (some { i with state := .yielded, claim := .none, beatenBy := some { source := b.source, rank := b.rank } }) := by
  obtain ⟨b, hb⟩ := exists_strongest (List.ne_nil_of_mem he)
  obtain ⟨hmem, hunbeaten⟩ := strongest_unbeaten hb
  refine ⟨b, hmem, hunbeaten, ?_⟩
  simp [State.openRound, hf, hb]

theorem State.openRound_claims (h : s.forced i = true ∨ ∀ e, e ∉ s.lookback i) : s.openRound i = s.openClaiming i := by
  have hnone : (if s.forced i then none else strongest (s.lookback i)) = none := by
    split
    · rfl
    · next hf => rw [strongest_eq_none]; exact List.eq_nil_iff_forall_not_mem.2 (h.resolve_left hf)
  have hclaim : s.openClaiming { i with claim := .none } = s.openClaiming i := rfl
  simp only [State.openRound, hnone, hclaim]

/-! An incident that takes CLAIMING, by what becomes of its frame (R33). -/

theorem State.openClaiming_listenOnly (ha : s.smu.address = 0) :
    s.openClaiming i = s.setIncident i.kind (some { i with state := .claiming, claim := .none }) := by
  simp [State.openClaiming, State.listenOnly, ha]

theorem State.openClaiming_sent (ha : s.smu.address ≠ 0) {t : State} (ht : s.enqueue (claimFrame i) = (t, true)) :
    s.openClaiming i = t.setIncident i.kind (some { i with state := .claiming, claim := .queued }) := by
  have ht' : s.enqueue (claimFrame { i with state := .claiming }) = (t, true) := ht
  simp [State.openClaiming, State.listenOnly, ha, ht']

theorem State.openClaiming_dropped (ha : s.smu.address ≠ 0) (ht : s.enqueue (claimFrame i) = (s, false)) :
    s.openClaiming i = s.setIncident i.kind (some { i with state := .claiming, claim := .dropped }) := by
  have ht' : s.enqueue (claimFrame { i with state := .claiming }) = (s, false) := ht
  simp [State.openClaiming, State.listenOnly, ha, ht']

theorem claimFrame_kind (i : Incident) : (claimFrame i).kind = i.kind.frame := by
  unfold claimFrame
  cases i.kind <;> rfl

theorem IncidentKind.frame_single (k : IncidentKind) : k.frame.single = true := by cases k <;> rfl

theorem IncidentKind.frame_ne_status (k : IncidentKind) : k.frame ≠ .status := by cases k <;> decide

theorem State.enqueue_claim (ha : s.smu.address ≠ 0) (hq : s.queuedOf i.kind.frame = none) :
    s.enqueue (claimFrame i) = s.makeRoomAndEnter (claimFrame i) :=
  State.enqueue_of_not_status ha (by rw [claimFrame_kind]; exact i.kind.frame_ne_status)
    (by rw [claimFrame_kind]; exact fun _ => State.queuedOf_none.1 hq)

theorem State.enqueue_claim_of_room (ha : s.smu.address ≠ 0) (hq : s.queuedOf i.kind.frame = none) (hroom : s.lnc.queue.length < 16) :
    s.enqueue (claimFrame i) = (s.enterFrame (claimFrame i), true) := by
  rw [State.enqueue_claim ha hq, State.makeRoomAndEnter_of_room hroom]

theorem State.enqueue_claim_refused (ha : s.smu.address ≠ 0)
    (h : s.queuedOf i.kind.frame ≠ none ∨ (16 ≤ s.lnc.queue.length ∧ ∀ g ∈ s.lnc.queue, s.evictable g = false)) :
    s.enqueue (claimFrame i) = (s, false) := by
  by_cases hq : s.queuedOf i.kind.frame = none
  · obtain ⟨hfull, hnone⟩ := h.resolve_left (not_not.2 hq)
    rw [State.enqueue_claim ha hq, State.makeRoomAndEnter_of_full hfull hnone]
  · exact State.enqueue_of_second (by rw [claimFrame_kind]; exact i.kind.frame_single) (by rwa [claimFrame_kind])

theorem claimFrame_arc (hk : i.kind = .arc) : claimFrame i =
    { kind := .arcClaim, rank := i.rank, payload := [BitVec.ofNat 8 (i.string.val + 1), BitVec.ofNat 8 i.round], failed := 0, entry := 0,
      withdrawAsked := false, flagNote := false } := by
  simp only [claimFrame, hk]
  rfl

/-- What an opening round does to the queue: nothing, or its claim enters it. -/
theorem State.openRound_lnc (hk : i.kind = .arc) (hroom : s.lnc.queue.length < 16) :
    (s.openRound i).lnc = s.lnc ∨ ∃ f, f.kind = .arcClaim ∧ (s.openRound i).lnc = (s.enterFrame f).lnc := by
  by_cases h : s.forced i = true ∨ ∀ e, e ∉ s.lookback i
  · rw [State.openRound_claims h]
    by_cases ha : s.smu.address = 0
    · rw [State.openClaiming_listenOnly ha]
      exact .inl (State.setIncident_lnc _ _ _)
    · by_cases hq : s.queuedOf i.kind.frame = none
      · rw [State.openClaiming_sent ha (State.enqueue_claim_of_room ha hq hroom)]
        exact .inr ⟨_, (claimFrame_kind _).trans (by rw [hk]; rfl), State.setIncident_lnc _ _ _⟩
      · rw [State.openClaiming_dropped ha (State.enqueue_claim_refused ha (.inl hq))]
        exact .inl (State.setIncident_lnc _ _ _)
  · rw [not_or, not_forall] at h
    obtain ⟨hf, e, he⟩ := h
    obtain ⟨b, -, -, hround⟩ := State.openRound_yields (by simpa using hf) (not_not.1 he)
    rw [hround]
    exact .inl rfl

end Round

/-! ### The onset (R20, R31, R62, R68) -/

section Onset
variable {s : State} {k : StringNo}

theorem State.openArc_prb (s : State) (k : StringNo) (p : Nat) : (s.openArc k p).prb = s.prb :=
  (State.openArc_frame s k p).keeps .prb (by simp)

theorem State.openArc_smu (s : State) (k : StringNo) (p : Nat) : (s.openArc k p).smu = s.smu :=
  (State.openArc_frame s k p).keeps .smu (by simp)

theorem State.openArc_lnc (hroom : s.lnc.queue.length < 16) (p : Nat) :
    (s.openArc k p).lnc = s.lnc ∨ ∃ f, f.kind = .arcClaim ∧ (s.openArc k p).lnc = (s.enterFrame f).lnc :=
  State.openRound_lnc rfl hroom

/-- The claim an onset queues leaves the queued frame of another kind, and the attempt in progress. -/
theorem State.openArc_queuedOf (hroom : s.lnc.queue.length < 16) (p : Nat) {x : Kind} (hx : x ≠ .arcClaim) :
    (s.openArc k p).queuedOf x = s.queuedOf x ∧ (s.openArc k p).lnc.sending = s.lnc.sending ∧
      (s.openArc k p).lnc.queue.length ≤ s.lnc.queue.length + 1 := by
  rcases State.openArc_lnc (k := k) hroom p with h | ⟨f, hf, h⟩
  · rw [State.queuedOf, h]
    exact ⟨rfl, rfl, by omega⟩
  · rw [State.queuedOf, h]
    exact ⟨find?_insertFrame_other (by simpa [hf] using hx.symm) _, rfl, (length_insertFrame _ _).le⟩

theorem State.mem_find?_of_queuedOf {x : Kind} {f : QueuedFrame} (h : s.queuedOf x = some f) : f ∈ s.lnc.queue :=
  (State.queuedOf_mem h).1

/-- An onset at a station with a part in a window of its own ends that part after its claim. -/
theorem State.arcOnset_pending {f : QueuedFrame} (hr : s.prb.role = .pending) (hroom : s.lnc.queue.length < 16)
    (hf : s.queuedOf .probeOpen = some f) :
    (s.lnc.sending ≠ some f.entry → (s.arcOnset k).prb = { s.prb with role := .none, byDue := false } ∧
      ∀ g ∈ (s.arcOnset k).lnc.queue, g.entry ≠ f.entry) ∧
    (s.lnc.sending = some f.entry → (s.arcOnset k).prb = s.prb ∧ { f with withdrawAsked := true } ∈ (s.arcOnset k).lnc.queue) := by
  obtain ⟨hqueued, hsending, -⟩ := State.openArc_queuedOf (k := k) hroom s.eve[k].peak (x := .probeOpen) (by decide)
  have hprb := s.openArc_prb k s.eve[k].peak
  have hr' : (s.openArc k s.eve[k].peak).prb.role = .pending := by rw [hprb, hr]
  rw [hf] at hqueued
  rw [State.arcOnset]
  refine ⟨fun hs => ?_, fun hs => ?_⟩
  · rw [State.probeAbort_of_waiting hr' hqueued (by rwa [hsending])]
    refine ⟨by rw [State.setPrb_prb, hprb], fun g hg => ?_⟩
    simpa using (List.mem_filter.1 hg).2
  · rw [State.probeAbort_of_attempt hr' hqueued (by rwa [hsending])]
    exact ⟨hprb, List.mem_map.2 ⟨f, State.mem_find?_of_queuedOf hqueued, if_pos rfl⟩⟩

theorem State.arcOnset_injecting {w : Window} (hr : s.prb.role = .injecting) (hw : s.prb.window = some w) :
    (w.phase = some .closing → s.arcOnset k = s.openArc k s.eve[k].peak) ∧
    (w.phase ≠ some .closing → s.smu.address ≠ 0 → s.lnc.queue.length < 15 →
      (s.arcOnset k).prb = { s.prb with
        output := .released, window := some { w with status := some .aborted, riso := 65535, phase := some .closing } } ∧
      ∃ g ∈ (s.arcOnset k).lnc.queue, g.kind = .probeClose ∧ g.rank = 0 ∧
        g.payload = [BitVec.ofNat 8 w.tag.sequence, 3, BitVec.ofNat 8 w.halvesInjected, 255, 255]) := by
  rw [State.arcOnset]
  have hprb := s.openArc_prb k s.eve[k].peak
  have hsmu := s.openArc_smu k s.eve[k].peak
  have hlength : s.lnc.queue.length < 15 → (s.openArc k s.eve[k].peak).lnc.queue.length ≤ s.lnc.queue.length + 1 := fun hroom =>
    (State.openArc_queuedOf (s := s) (k := k) (by omega) s.eve[k].peak (x := .probeOpen) (by decide)).2.2
  generalize s.openArc k s.eve[k].peak = u at hprb hsmu hlength ⊢
  rw [← hprb] at hr hw ⊢
  rw [State.probeAbort_of_injecting hr]
  refine ⟨fun hp => State.abortInjection_of_closing hr hw hp, fun hp ha hroom => ?_⟩
  have hroom' : u.lnc.queue.length < 16 := by
    have := hlength hroom
    omega
  rw [State.abortInjection_of_open hr hw hp, State.closeInjection_of_room _ _ _ (by rwa [hsmu]) hroom']
  obtain ⟨hkind, hrank, hpayload⟩ := probeCloseFrame_aborted w
  exact ⟨rfl, _, State.enterFrame_mem _ _, hkind, hrank, hpayload⟩

end Onset

theorem State.eveInterval_of_no_onset {s : State}
    (h : s.sel.arc ≠ none ∨ ∀ k, k ∉ s.evidenceUpdate.candidates s.eve) : s.eveInterval = s.evidenceUpdate.handTrips s.eve := by
  simp only [State.eveInterval]
  by_cases ha : s.sel.arc = none
  · rw [(State.winner_eq_none _ _).2 (List.eq_nil_iff_forall_not_mem.2 (h.resolve_left (not_not.2 ha)))]
    exact ite_self _
  · rw [if_pos (Option.isSome_iff_ne_none.2 ha)]

theorem State.eveInterval_of_onset {s : State} {k : StringNo} (ha : s.sel.arc = none)
    (hk : s.evidenceUpdate.winner (s.evidenceUpdate.candidates s.eve) = some k) :
    s.eveInterval = (s.evidenceUpdate.handTrips s.eve).arcOnset k := by
  simp only [State.eveInterval, ha, hk]
  rfl

/-! ### Round 1 (R31 to R33) -/

/-- The incident of round 1 as it is handed over for opening. -/
def State.firstRound (s : State) (k : StringNo) (p : Nat) : Incident :=
  { kind := .arc, string := k, rank := s.roundRank 1 p, round := 1, onset := s.now, decision := s.now.plus s.smu.settings.selWin,
    tag := none, response := none, riso := none, state := .claiming, claim := .none, beatenBy := none }

section FirstRound
variable (s : State) (k : StringNo) (p : Nat)

theorem State.openArc_eq : s.openArc k p = s.openRound (s.firstRound k p) := rfl

theorem State.roundRank_first : s.roundRank 1 p = if s.smu.settings.arcRounds = 1 then 255 else p := by
  simp [State.roundRank, eq_comm (a := 1)]

theorem State.firstRound_forced : s.forced (s.firstRound k p) = true ↔ s.smu.settings.arcRounds = 1 := by
  simp [State.forced, State.firstRound, eq_comm (a := 1)]

theorem State.mem_lookback_first (e : ClaimEntry) : e ∈ s.lookback (s.firstRound k p) ↔ e ∈ s.sel.claimLog ∧
    (e.kind = .arcClaim ∨ (e.kind = .isolated ∧ e.cause = some .arc)) ∧ s.now.since e.arrival ≤ s.smu.settings.selWin ∧
    (s.roundRank 1 p < e.rank ∨ (e.rank = s.roundRank 1 p ∧ e.source < s.smu.address)) := by
  rw [State.mem_lookback, relevant_arc rfl]
  simp [State.firstRound]

end FirstRound

/-- Settles O31. -/
theorem arcOnsetClaimsOrYields : Obligations.ArcOnsetClaimsOrYields := by
  refine ⟨State.mem_candidates, fun s e => ⟨?_, fun k hk => State.winner_spec (s.candidates_ascending e) hk⟩,
    fun s => ⟨State.eveInterval_of_no_onset, fun k => State.eveInterval_of_onset⟩,
    fun s k => ⟨fun hr => State.probeAbort_of_apart (by rwa [State.openArc_prb]), fun f hr hroom hf => (State.arcOnset_pending hr hroom hf).1,
      fun f hr hroom hf => (State.arcOnset_pending hr hroom hf).2, fun w hr hw => State.arcOnset_injecting hr hw⟩, ?_⟩
  · rw [State.winner_eq_none, List.eq_nil_iff_forall_not_mem]
  · intro s k p rank i beats
    have hrank : s.roundRank 1 p = rank := s.roundRank_first p
    have hi : { s.firstRound k p with claim := .queued } = i := by rw [State.firstRound, hrank]
    have hlook (e : ClaimEntry) : e ∈ s.lookback (s.firstRound k p) ↔ e ∈ s.sel.claimLog ∧ beats e := by
      rw [State.mem_lookback_first, hrank]
    have hclaims (h : s.smu.settings.arcRounds = 1 ∨ ∀ e ∈ s.sel.claimLog, ¬beats e) :
        s.openArc k p = s.openClaiming (s.firstRound k p) := by
      rw [State.openArc_eq, State.openRound_claims]
      exact h.imp (s.firstRound_forced k p).2 fun h e he => h e ((hlook e).1 he).1 ((hlook e).1 he).2
    have hframe : claimFrame (s.firstRound k p) =
        { kind := .arcClaim, rank := rank, payload := [BitVec.ofNat 8 (k.val + 1), 1], failed := 0, entry := 0, withdrawAsked := false,
          flagNote := false } := by
      rw [claimFrame_arc rfl, ← hrank]
      rfl
    refine ⟨fun hf ⟨e, hlog, hbeats⟩ => ?_, fun h ha => ?_, fun h ha => ⟨fun hq hroom => ?_, fun hfull hnone => ?_⟩⟩
    · obtain ⟨b, hb, hunbeaten, hround⟩ := State.openRound_yields (s := s) (i := s.firstRound k p)
        (by rw [← Bool.not_eq_true, State.firstRound_forced]; exact hf) ((hlook e).2 ⟨hlog, hbeats⟩)
      refine ⟨b, ((hlook b).1 hb).1, ((hlook b).1 hb).2, fun x hx hxb => hunbeaten x ((hlook x).2 ⟨hx, hxb⟩), ?_⟩
      rw [State.openArc_eq, hround, ← hi]
      rfl
    · rw [hclaims h, State.openClaiming_listenOnly ha, ← hi]
      rfl
    · rw [hclaims h, State.openClaiming_sent ha (State.enqueue_claim_of_room (i := s.firstRound k p) ha (by exact hq) hroom), hframe, ← hi]
      rfl
    · rw [hclaims h, State.openClaiming_dropped ha (State.enqueue_claim_refused ha (.inr ⟨hfull, fun g hg => ?_⟩)), ← hi]
      · rfl
      · rw [← Bool.not_eq_true, State.evictable_iff]
        exact fun hev => hev.1.elim (hnone g hg).1 (hnone g hg).2

/-! ### YIELD_HOLD_EXPIRY (R40 to R43) -/

@[simp] theorem afterWithdrawal_sending (l : Lnc) (k : Kind) : (afterWithdrawal l k).sending = l.sending := by
  unfold afterWithdrawal
  repeat' split
  all_goals rfl

@[simp] theorem afterWithdrawal_nextEntry (l : Lnc) (k : Kind) : (afterWithdrawal l k).nextEntry = l.nextEntry := by
  unfold afterWithdrawal
  repeat' split
  all_goals rfl

/-- Withdrawing an ARC claim leaves the Claim Log, the attempt in progress and the entry numbers. -/
theorem State.withdrawClaim_keeps (s : State) : (s.withdrawClaim .arc).sel.claimLog = s.sel.claimLog ∧
    (s.withdrawClaim .arc).lnc.sending = s.lnc.sending ∧ (s.withdrawClaim .arc).lnc.nextEntry = s.lnc.nextEntry := by
  cases hi : s.sel.arc with
  | none =>
    have hnone : s.withdrawClaim .arc = s := by simp [State.withdrawClaim, State.incident, hi]
    rw [hnone]
    exact ⟨rfl, rfl, rfl⟩
  | some i =>
    obtain ⟨c, hwithdraw, -⟩ := State.withdrawClaim_whole (s := s) (k := .arc) hi
    rw [hwithdraw]
    refine ⟨rfl, ?_, ?_⟩
    · rw [State.setIncident_lnc]
      dsimp only
      split <;> simp
    · rw [State.setIncident_lnc]
      dsimp only
      split <;> simp

section YieldHold
variable {s : State} {i : Incident} (hi : s.sel.arc = some i)
include hi

theorem State.yieldExpiry_rests (h : i.state ≠ .yielded ∨
    ¬reached s.now (i.onset.plus (s.smu.settings.selWin + s.smu.settings.yieldHold)) = true) : s.yieldExpiry = s := by
  simp only [State.yieldExpiry, hi, State.yieldEnd]
  refine if_neg ?_
  rcases h with h | h <;> simp [h]

variable (hy : i.state = .yielded) (hd : reached s.now (i.onset.plus (s.smu.settings.selWin + s.smu.settings.yieldHold)) = true)
include hy hd

theorem State.yieldExpiry_closes (h : s.eve[i.string].q < s.smu.settings.arcQual ∨ s.smu.settings.arcRounds ≤ i.round) :
    s.yieldExpiry = (s.withdrawClaim .arc).setArc none := by
  have hnot : ¬(s.smu.settings.arcQual ≤ s.eve[i.string].q ∧ i.round < s.smu.settings.arcRounds) := by omega
  simp only [State.yieldExpiry, hi, hy, State.yieldEnd, hd, Bool.and_true, beq_self_eq_true, if_true, if_neg hnot]
  rfl

/-- The incident of the round that follows a yield hold. -/
def State.nextRound (s : State) (i : Incident) : Incident :=
  { i with round := i.round + 1, rank := s.roundRank (i.round + 1) s.eve[i.string].peak, onset := s.now,
           decision := s.now.plus s.smu.settings.selWin }

theorem State.yieldExpiry_opens (h : ¬(s.eve[i.string].q < s.smu.settings.arcQual ∨ s.smu.settings.arcRounds ≤ i.round)) :
    s.yieldExpiry = (s.withdrawClaim .arc).openRound (s.nextRound i) := by
  have hgoes : s.smu.settings.arcQual ≤ s.eve[i.string].q ∧ i.round < s.smu.settings.arcRounds := by omega
  simp only [State.yieldExpiry, hi, hy, State.yieldEnd, hd, Bool.and_true, beq_self_eq_true, if_true, if_pos hgoes]
  rfl

end YieldHold

/-- Settles O35. -/
theorem yieldHoldEndsInRoundOrClosing : Obligations.YieldHoldEndsInRoundOrClosing := by
  intro dt s i hs hi hk now run due s' rank next beats evictable closes sent
  have hrun : run = .next (s.elapse dt).yieldExpiry.settle := exec_yieldHoldExpiry hs dt
  obtain ⟨hlog, hsending, hentry⟩ := (s.elapse dt).withdrawClaim_keeps
  have hsmu : s'.smu = s.smu := (State.withdrawClaim_frame _ _).keeps .smu (by simp)
  have hrank : (s.elapse dt).roundRank (i.round + 1) (s.elapse dt).eve[i.string].peak = rank := by
    simp only [State.roundRank, beq_iff_eq]
    rfl
  have hround (st : IncidentState) (c : ClaimState) : { (s.elapse dt).nextRound i with state := st, claim := c } =
      { next with state := st, claim := c } := by
    simp only [State.nextRound, hrank]
    rfl
  have hevictable (f : QueuedFrame) : s'.evictable f = true ↔ evictable f := by
    rw [State.evictable_iff, hsending]
    rfl
  have hlook (e : ClaimEntry) : e ∈ s'.lookback ((s.elapse dt).nextRound i) ↔ e ∈ s.sel.claimLog ∧ beats e := by
    rw [State.mem_lookback, relevant_arc (by exact hk), hlog, hsmu]
    simp only [State.nextRound, hrank]
    rfl
  have hforced : s'.forced ((s.elapse dt).nextRound i) = true ↔ i.round + 1 = s.smu.settings.arcRounds := by
    simp [State.forced, State.nextRound, hk, hsmu]
  have hframe : { claimFrame ((s.elapse dt).nextRound i) with entry := s.lnc.nextEntry } = sent := by
    rw [claimFrame_arc (by exact hk)]
    simp only [State.nextRound, hrank]
    rfl
  have henter (u : State) (hu : u.lnc.nextEntry = s.lnc.nextEntry) : u.enterFrame (claimFrame ((s.elapse dt).nextRound i)) =
      { u with lnc := { u.lnc with queue := insertFrame sent u.lnc.queue, nextEntry := s.lnc.nextEntry + 1 } } := by
    rw [State.enterFrame, hu, hframe]
  refine ⟨fun h => ?_, fun f hq hf => ⟨fun hf' => ?_, fun hf' => ?_⟩, fun h => ?_, fun hy hd hc => ?_, fun hy hd hc hlast ⟨e, he, hbeats⟩ => ?_,
    fun hy hd hc h => ?_⟩
  · exact State.withdrawClaim_of_none (s := s.elapse dt) (k := .arc) hi h
  · exact State.withdrawClaim_of_waiting (s := s.elapse dt) (k := .arc) hi hq hf hf'
  · exact State.withdrawClaim_of_attempt (s := s.elapse dt) (k := .arc) hi hq hf hf'
  · rw [hrun, State.yieldExpiry_rests (s := s.elapse dt) hi h]
  · rw [hrun, State.yieldExpiry_closes (s := s.elapse dt) hi hy hd hc]
  · obtain ⟨b, hb, hunbeaten, hopen⟩ := State.openRound_yields (s := s') (i := (s.elapse dt).nextRound i)
      (by rw [← Bool.not_eq_true, hforced]; exact hlast) ((hlook e).2 ⟨he, hbeats⟩)
    refine ⟨b, ((hlook b).1 hb).1, ((hlook b).1 hb).2, fun x hx hxb => hunbeaten x ((hlook x).2 ⟨hx, hxb⟩), ?_⟩
    rw [hrun, State.yieldExpiry_opens (s := s.elapse dt) hi hy hd hc, hopen]
    simp only [State.nextRound, hrank]
    rfl
  · have hclaims : (s.elapse dt).yieldExpiry = s'.openClaiming ((s.elapse dt).nextRound i) := by
      rw [State.yieldExpiry_opens (s := s.elapse dt) hi hy hd hc, State.openRound_claims]
      exact h.imp hforced.2 fun h e he => h e ((hlook e).1 he).1 ((hlook e).1 he).2
    have hkind : ((s.elapse dt).nextRound i).kind = .arc := hk
    rw [hrun, hclaims]
    refine ⟨fun ha => ?_, fun ha hq hroom => ?_, fun ha hq hfull ⟨f, hf, hev⟩ => ?_, fun ha href => ?_⟩
    · rw [State.openClaiming_listenOnly (by rwa [hsmu]), hround, hkind]
      rfl
    · rw [State.openClaiming_sent (by rwa [hsmu]) (State.enqueue_claim_of_room (by rwa [hsmu]) (by rw [hkind]; exact hq) hroom), hround, hkind,
        henter s' hentry]
      rfl
    · obtain ⟨old, hold, holdEv, holdest, hmake⟩ := State.makeRoomAndEnter_of_eviction (s := s')
        (f := claimFrame ((s.elapse dt).nextRound i)) hfull hf ((hevictable f).2 hev)
      refine ⟨old, hold, (hevictable old).1 holdEv, fun x hx hxe => holdest x hx ((hevictable x).2 hxe), ?_⟩
      rw [State.openClaiming_sent (by rwa [hsmu]) ((State.enqueue_claim (by rwa [hsmu]) (by rw [hkind]; exact hq)).trans hmake), hround, hkind,
        henter (s'.removeEntry old.entry) hentry]
      rfl
    · rw [State.openClaiming_dropped (by rwa [hsmu]) (State.enqueue_claim_refused (by rwa [hsmu]) (href.imp (by rw [hkind]; exact id)
        fun h => ⟨h.1, fun g hg => by rw [← Bool.not_eq_true, hevictable]; exact h.2 g hg⟩)), hround, hkind]
      rfl

end Sys2Proof.Machine

/-! PROOFS. The triggers of a probe, the balance alarm and the injector's phases (R58 to R60, R64 to R66, R73, R82). -/

namespace Sys2Proof.Machine

open Sys2Proof.Safety

/-! ### The balance alarm (R60, R73) -/

theorem absDiff_eq (a b : Nat) : (absDiff a b : Int) = |(a : Int) - b| := by
  unfold absDiff
  rcases abs_cases ((a : Int) - b) with ⟨h, hsign⟩ | ⟨h, hsign⟩ <;> omega

section Balance
variable {s : State}

theorem State.balanceCount_elsewhere (h : s.prb.role ≠ .none) : s.balanceCount = s.setPrb { s.prb with alarmCount := 0 } := by
  simp [State.balanceCount, h]

theorem State.balanceCount_disarmed (h : s.prb.role = .none) (ha : s.prb.alarmArmed = false) : s.balanceCount = s := by
  simp [State.balanceCount, h, ha]

theorem State.balanceCount_armed (h : s.prb.role = .none) (ha : s.prb.alarmArmed = true) :
    let away := (s.smu.settings.balShift : Int) ≤ |(s.ssu.ground.balance : Int) - s.prb.balRef|
    (¬away → s.balanceCount = s.setPrb { s.prb with alarmCount := 0 }) ∧
    (away → s.prb.alarmCount < 99 → s.balanceCount = s.setPrb { s.prb with alarmCount := s.prb.alarmCount + 1 }) ∧
    (away → 99 ≤ s.prb.alarmCount → s.balanceCount = s.setPrb { s.prb with
      alarmArmed := false, alarmCount := 0, staggerAt := some (s.now.plus (s.smu.address * 2000)) }) := by
  intro away
  have haway : s.smu.settings.balShift ≤ absDiff s.ssu.ground.balance s.prb.balRef ↔ away := by
    rw [← Int.ofNat_le, absDiff_eq]
  have harmed : s.balanceCount =
      if away then
        (if 100 ≤ s.prb.alarmCount + 1 then
          s.setPrb { s.prb with alarmArmed := false, alarmCount := 0, staggerAt := some (s.now.plus (s.smu.address * 2000)) }
        else s.setPrb { s.prb with alarmCount := s.prb.alarmCount + 1 })
      else s.setPrb { s.prb with alarmCount := 0 } := by
    simp only [State.balanceCount, h, ha, haway]
    rfl
  rw [harmed]
  refine ⟨fun hn => if_neg hn, fun hw hc => ?_, fun hw hc => ?_⟩
  · rw [if_pos hw, if_neg (by omega)]
  · rw [if_pos hw, if_pos (by omega)]

theorem State.balanceCount_role (s : State) : s.balanceCount.prb.role = s.prb.role := by
  unfold State.balanceCount
  repeat' split
  all_goals rfl

theorem State.probeInterval_without_window (h : s.prb.role = .none ∨ s.prb.role = .pending) : s.probeInterval =
    (s.setPrb { s.prb with balances := (s.ssu.ground.balance :: s.prb.balances).take 100 }).balanceCount := by
  have hrole := (s.setPrb { s.prb with balances := (s.ssu.ground.balance :: s.prb.balances).take 100 }).balanceCount_role
  rw [State.setPrb_prb] at hrole
  unfold State.probeInterval
  dsimp only
  rcases h with h | h
  · rw [hrole, h]
  · rw [hrole, h]

end Balance

/-! ### Triggers (R58, R59) -/

/-- The conditions of R58, at the present time. -/
def State.probeAllowed (s : State) : Prop :=
  s.prb.role = .none ∧ (s.lnc.line = .up ∨ s.lnc.line = .degraded) ∧ s.smu.phase = .running ∧ s.sel.arc = none ∧
    s.smu.supply = .run ∧ (∀ e, s.prb.lastEnd = some e → 30000 ≤ s.now.since e) ∧ s.smu.address ≠ 0 ∧
    s.pvw.stopSet = [] ∧ s.rsl.lockKey.accepted = false

theorem State.gapPassed_iff (s : State) : s.gapPassed = true ↔ ∀ e, s.prb.lastEnd = some e → 30000 ≤ s.now.since e := by
  unfold State.gapPassed
  cases s.prb.lastEnd with
  | none => simp
  | some e =>
    simp only [Option.some.injEq, forall_eq', decide_eq_true_eq]
    rfl

theorem State.probingBarred_eq_false (s : State) : s.probingBarred = false ↔ s.pvw.stopSet = [] ∧ s.rsl.lockKey.accepted = false := by
  simp [State.probingBarred]

theorem State.lineUsable_iff (s : State) : s.lineUsable = true ↔ s.lnc.line = .up ∨ s.lnc.line = .degraded := by
  simp [State.lineUsable]

theorem State.probeConditions_iff (s : State) : s.probeConditions = true ↔ s.probeAllowed := by
  simp only [State.probeConditions, State.probeAllowed, Bool.and_eq_true, beq_iff_eq, State.lineUsable_iff, Option.isNone_iff_eq_none,
    State.gapPassed_iff, Bool.not_eq_true', State.listenOnly, beq_eq_false_iff_ne, State.probingBarred_eq_false, and_assoc]

section Trigger
variable {s : State}

theorem State.trigger_refused (h : ¬s.probeAllowed) (b : Bool) : s.trigger b = (s, false) :=
  if_neg fun hc => h (s.probeConditions_iff.1 hc)

theorem State.trigger_taken (h : s.probeAllowed) (hq : s.queuedOf .probeOpen = none) (hroom : s.lnc.queue.length < 16) (b : Bool) :
    s.trigger b = ((s.enterFrame s.probeOpenFrame).setPrb { s.prb with role := .pending, byDue := b, alarmCount := 0 }, true) := by
  obtain ⟨-, -, -, -, -, -, ha, -⟩ := id h
  have henter : s.enqueue s.probeOpenFrame = (s.enterFrame s.probeOpenFrame, true) :=
    State.enqueue_of_room ha (by simp [State.probeOpenFrame, newFrame]) (fun _ => State.queuedOf_none.1 hq) hroom
  simp only [State.trigger, s.probeConditions_iff.2 h, if_true, henter]
  rfl

theorem State.dueTrigger_latched (hf : s.prb.fault = true) :
    s.dueTrigger = s.setPrb { s.prb with duePending := false, retryAt := none } := if_pos hf

theorem State.dueTrigger_refused (hf : s.prb.fault = false) (h : ¬s.probeAllowed) :
    s.dueTrigger = s.setPrb { s.prb with duePending := true, retryAt := some (s.now.plus 1000) } := by
  simp [State.dueTrigger, hf, State.trigger_refused h]

theorem State.dueTrigger_taken (hf : s.prb.fault = false) (h : s.probeAllowed) (hq : s.queuedOf .probeOpen = none)
    (hroom : s.lnc.queue.length < 16) : s.dueTrigger = (s.enterFrame s.probeOpenFrame).setPrb { s.prb with
      role := .pending, byDue := true, alarmCount := 0, duePending := false, retryAt := none } := by
  simp only [State.dueTrigger, hf, State.trigger_taken h hq hroom]
  rfl

theorem State.balanceTrigger_refused (h : s.prb.fault = true ∨ ¬s.probeAllowed) : s.balanceTrigger = s := by
  unfold State.balanceTrigger
  split
  · rfl
  · next hf => rw [State.trigger_refused (h.resolve_left hf)]

theorem State.balanceTrigger_taken (hf : s.prb.fault = false) (h : s.probeAllowed) (hq : s.queuedOf .probeOpen = none)
    (hroom : s.lnc.queue.length < 16) : s.balanceTrigger =
      (s.enterFrame s.probeOpenFrame).setPrb { s.prb with role := .pending, byDue := false, alarmCount := 0 } := by
  simp only [State.balanceTrigger, hf, State.trigger_taken h hq hroom]
  rfl

/-! The three timers that evaluate a trigger. -/

theorem State.probeDue_of_expired (h : expired s.now s.prb.dueAt = true) : s.probeDue = (s.setPrb { s.prb with dueAt := none }).dueTrigger :=
  if_pos h

theorem State.dueRetry_of_expired (hp : s.prb.duePending = true) (h : expired s.now s.prb.retryAt = true) : s.dueRetry = s.dueTrigger :=
  if_pos (by rw [hp, h]; rfl)

theorem State.stagger_of_expired (h : expired s.now s.prb.staggerAt = true) :
    s.stagger = (s.setPrb { s.prb with staggerAt := none }).balanceTrigger := if_pos h

end Trigger

/-- Settles O36. -/
theorem probeTriggersQueueProbeOpen : Obligations.ProbeTriggersQueueProbeOpen := by
  refine ⟨fun s => ⟨State.balanceCount_elsewhere, State.balanceCount_disarmed, State.balanceCount_armed, State.probeInterval_without_window⟩,
    fun dt s hs => ?_⟩
  intro allowed f queued
  refine ⟨fun hd => ?_, fun hp hd => ?_, fun hd => ?_⟩
  · rw [exec_probeDueExpiry hs, State.probeDue_of_expired (s := s.elapse dt) hd]
    refine ⟨fun hf ha hq hroom => ?_, fun hf ha => ?_, fun hf => ?_⟩
    · rw [State.dueTrigger_taken (by exact hf) (by exact ha) (by exact hq) (by exact hroom)]
      rfl
    · rw [State.dueTrigger_refused (by exact hf) (by exact ha)]
      rfl
    · rw [State.dueTrigger_latched (by exact hf)]
      rfl
  · rw [exec_dueRetry hs, State.dueRetry_of_expired (s := s.elapse dt) hp hd]
    refine ⟨fun hf ha hq hroom => ?_, fun hf ha => ?_, fun hf => ?_⟩
    · rw [State.dueTrigger_taken (by exact hf) (by exact ha) (by exact hq) (by exact hroom)]
      rfl
    · rw [State.dueTrigger_refused (by exact hf) (by exact ha)]
      have hprb : { s.prb with duePending := true, retryAt := some ((s.now.plus dt).plus 1000) } =
          { s.prb with retryAt := some ((s.now.plus dt).plus 1000) } := by rw [← hp]
      exact congrArg (fun p => Host.Outcome.next (State.settle { s.elapse dt with prb := p })) hprb
    · rw [State.dueTrigger_latched (by exact hf)]
      rfl
  · rw [exec_staggerExpiry hs, State.stagger_of_expired (s := s.elapse dt) hd]
    refine ⟨fun hf ha hq hroom => ?_, fun h => ?_⟩
    · rw [State.balanceTrigger_taken (by exact hf) (by exact ha) (by exact hq) (by exact hroom)]
      rfl
    · rw [State.balanceTrigger_refused (by exact h)]
      rfl

/-! ### The reference halves (R65) -/

section Reference
variable {s : State} {w : Window} (hr : s.prb.role = .injecting) (hw : s.prb.window = some w)
include hr hw

theorem State.referenceHalfEnd_up (hp : w.phase = some .reference) (hu : w.refUp = none) (ht : reached s.now (w.start.plus 200) = true) :
    s.referenceHalfEnd =
      s.setPrb { s.prb with window := some { w with refUp := some (s.ssu.probeV, s.ssu.probeI) }, output := .referenceDown } := by
  simp [State.referenceHalfEnd, hr, hw, hp, hu, ht]

/-- The window once the DOWN reference sample is taken. -/
def Window.referenced (w : Window) (down : Nat × Int) (r : Nat) : Window := { w with refDown := some down, rRef := r }

theorem State.referenceHalfEnd_down {up : Nat × Int} (hp : w.phase = some .reference) (hu : w.refUp = some up)
    (ht : reached s.now (w.start.plus 400) = true) :
    let r := rawResistance (up.1, up.2) (s.ssu.probeV, s.ssu.probeI)
    let w' := w.referenced (s.ssu.probeV, s.ssu.probeI) r
    (450 ≤ r → r ≤ 550 → s.referenceHalfEnd =
      s.setPrb { s.prb with window := some { w' with phase := some .transfer }, output := .notDriven }) ∧
    (r < 450 ∨ 550 < r → s.referenceHalfEnd = s.closeInjection w' .fault rangeEnd) := by
  intro r w'
  have hstep : s.referenceHalfEnd = if 450 ≤ r ∧ r ≤ 550 then
      s.setPrb { s.prb with window := some { w' with phase := some .transfer }, output := .notDriven }
    else s.closeInjection w' .fault rangeEnd := by
    unfold State.referenceHalfEnd
    rw [hr, hw]
    dsimp only
    rw [if_pos (by rw [hp]; rfl), hu]
    dsimp only
    rw [if_pos ht, ← hu]
    rfl
  rw [hstep]
  exact ⟨fun hlo hhi => if_pos ⟨hlo, hhi⟩, fun h => if_neg (by omega)⟩

/-! ### The injection halves (R64, R66) -/

theorem State.injectionStart_at (hp : w.phase = some .transfer) (ht : reached s.now (w.start.plus 500) = true) : s.injectionStart =
    s.setPrb { s.prb with
      window := some { w with phase := some .injection, halfCount := 1, halves := w.halves ++ [newHalf (w.start.plus 500) true] },
      output := .up } := by
  simp only [State.injectionStart, hr, hw, hp, ht]
  simp [Window.beginHalf, Window.halfStart]

/-- The window once an injection half has ended with its pair. -/
def Window.halfTaken (w : Window) (pair : Nat × Int) : Window :=
  { w with samples := w.samples ++ [pair], halvesInjected := w.halvesInjected + 1, halves := decideLast w.halves (some w.hp) true }

theorem State.injectionHalfEnd_at (hp : w.phase = some .injection)
    (ht : reached s.now (w.start.plus (500 + (w.halvesInjected + 1) * w.hp)) = true) :
    let k := w.halvesInjected + 1
    let w' := w.halfTaken (s.ssu.ground.vpg, s.ssu.probeI)
    (k < w.np → s.injectionHalfEnd =
      s.setPrb { s.prb with window := some (w'.beginHalf (k + 1)), output := if (k + 1) % 2 == 1 then .up else .down }) ∧
    (w.np ≤ k → s.injectionHalfEnd = s.closeInjection w' .ok (insulation w'.samples w.rRef)) := by
  intro k w'
  have ht' : reached s.now (w.halfStart (k + 1)) = true := ht
  have hstep : s.injectionHalfEnd = if k < w.np then
      s.setPrb { s.prb with window := some (w'.beginHalf (k + 1)), output := if (k + 1) % 2 == 1 then .up else .down }
    else s.closeInjection w' .ok (insulation w'.samples w.rRef) := by
    unfold State.injectionHalfEnd
    rw [hr, hw]
    dsimp only
    rw [if_pos (by rw [hp, ht']; rfl)]
    rfl
  rw [hstep]
  exact ⟨fun h => if_pos h, fun h => if_neg (by omega)⟩

end Reference

theorem probeCloseFrame_closed (w : Window) (st : WindowStatus) (r : Nat) : probeCloseFrame (w.closed st r) = newFrame .probeClose 0
    ([BitVec.ofNat 8 w.tag.sequence, BitVec.ofNat 8 st.code, BitVec.ofNat 8 w.halvesInjected] ++ unsigned16 r) := rfl

theorem unsigned16_rangeEnd : unsigned16 65535 = [255, 255] := by decide

/-- Settles O37. -/
theorem referenceHalvesCheckInjector : Obligations.ReferenceHalvesCheckInjector := by
  intro dt s w hs hr hw hp
  rw [exec_referenceHalfEnd hs]
  refine ⟨fun hu ht => ?_, fun v i hu ht => ?_⟩
  · rw [State.referenceHalfEnd_up (s := s.elapse dt) hr hw hp hu ht]
    rfl
  · obtain ⟨hgood, hbad⟩ := State.referenceHalfEnd_down (s := s.elapse dt) hr hw hp hu ht
    intro d r w'
    refine ⟨fun hlo hhi => ?_, fun h ha hroom => ?_⟩
    · rw [hgood hlo hhi]
      rfl
    · rw [hbad h, State.closeInjection_of_room _ _ _ (by exact ha) (by exact hroom), probeCloseFrame_closed, rangeEnd, unsigned16_rangeEnd]
      rfl

/-- Settles O38. -/
theorem injectionRunsItsHalves : Obligations.InjectionRunsItsHalves := by
  intro dt s w hs hr hw
  refine ⟨fun hp ht => ?_, fun hp ht => ?_⟩
  · rw [exec_injectionStart hs, State.injectionStart_at (s := s.elapse dt) hr hw hp ht]
    rfl
  · obtain ⟨hmore, hlast⟩ := State.injectionHalfEnd_at (s := s.elapse dt) hr hw hp ht
    intro k samples rows
    refine ⟨fun hk => ?_, fun hk ha hroom => ?_⟩
    · have hup (j : Nat) : ((j + 1) % 2 == 1) = decide (j % 2 = 0) := by
        rw [Bool.eq_iff_iff, beq_iff_eq, decide_eq_true_eq]
        omega
      rw [exec_injectionHalfEnd hs, hmore hk]
      simp only [Window.beginHalf, hup, decide_eq_true_eq]
      rfl
    · rw [exec_injectionHalfEnd hs, hlast hk, State.closeInjection_of_room _ _ _ (by exact ha) (by exact hroom)]
      exact ⟨_, rfl, rfl, rfl, rfl, rfl, rfl, rfl, rfl, rfl, rfl⟩

end Sys2Proof.Machine

/-! PROOFS. The listener's flip tracker, its half table, the residual sampling and its timeouts (R72, R78 to R80, R83, R90). -/

namespace Sys2Proof.Machine

open Sys2Proof.Safety

/-! ### The last row of the half table -/

theorem changeLast_concat (hs : List Half) (h : Half) (f : Half → Half) : changeLast (hs ++ [h]) f = hs ++ [f h] := by
  induction hs with
  | nil => rfl
  | cons a hs ih =>
    cases hs with
    | nil => rfl
    | cons b hs => exact congrArg (a :: ·) ih

theorem decideLast_eq_changeLast (hs : List Half) (len : Option Nat) (valid : Bool) :
    decideLast hs len valid = changeLast hs fun h => { h with length := len, valid := some valid } := by
  induction hs with
  | nil => rfl
  | cons a hs ih =>
    cases hs with
    | nil => rfl
    | cons b hs => exact congrArg (a :: ·) ih

theorem decideLast_concat (hs : List Half) (h : Half) (len : Option Nat) (valid : Bool) :
    decideLast (hs ++ [h]) len valid = hs ++ [{ h with length := len, valid := some valid }] := by
  rw [decideLast_eq_changeLast, changeLast_concat]

/-! ### The flip tracker (R78 to R80) -/

section Tracker
variable {w : Window} {now : Time} {v shift : Nat}

theorem Window.flip_first (h : w.halves = []) (up : Bool) : w.flip now up v = { w with
    halfCount := w.halfCount + 1, extreme := v, tracker := if up then Tracker.upHalf else Tracker.downHalf, halves := [newHalf now up] } := by
  simp [Window.flip, h]

theorem Window.flip_next {hs : List Half} {h : Half} (hh : w.halves = hs ++ [h]) (up : Bool) : w.flip now up v = { w with
    halfCount := w.halfCount + 1, extreme := v, tracker := if up then Tracker.upHalf else Tracker.downHalf,
    halves := hs ++ [{ h with length := some (now.since h.start),
                              valid := some (decide (3 * w.hp ≤ 4 * now.since h.start ∧ 4 * now.since h.start ≤ 5 * w.hp)) },
                     newHalf now up] } := by
  simp [Window.flip, hh, decideLast_concat]

theorem Window.track_early (h : now.since w.start < 400) : w.track now v shift = w := if_pos h

theorem Window.track_ended (h : w.tracker = .ended) : w.track now v shift = w := by
  simp [Window.track, h]

section Running
variable (hlate : 400 ≤ now.since w.start)
include hlate

theorem Window.track_waiting (h : w.tracker = .waiting) : w.track now v shift = { w with tracker := .first, low := v, high := v } := by
  rw [Window.track, if_neg (Nat.not_lt.mpr hlate), h]

theorem Window.track_first (h : w.tracker = .first) : w.track now v shift =
    if 500 + w.hp / 2 < now.since w.start then { w with tracker := .ended }
    else if w.low + shift ≤ v then w.flip now true v
    else if v + shift ≤ w.high then w.flip now false v
    else { w with low := min w.low v, high := max w.high v } := by
  rw [Window.track, if_neg (Nat.not_lt.mpr hlate), h]

theorem Window.track_upHalf (h : w.tracker = .upHalf) : w.track now v shift =
    if v + shift ≤ w.extreme then (if w.halfCount < w.np then w.flip now false v else w)
    else { w with extreme := max w.extreme v } := by
  rw [Window.track, if_neg (Nat.not_lt.mpr hlate), h]

theorem Window.track_downHalf (h : w.tracker = .downHalf) : w.track now v shift =
    if w.extreme + shift ≤ v then (if w.halfCount < w.np then w.flip now true v else w)
    else { w with extreme := min w.extreme v } := by
  rw [Window.track, if_neg (Nat.not_lt.mpr hlate), h]

/-- In the last half no flip is recognised any more. -/
theorem Window.track_lastHalf (h : w.tracker = .upHalf ∨ w.tracker = .downHalf) (hlast : w.np ≤ w.halfCount) :
    (w.track now v shift).halfCount = w.halfCount ∧ (w.track now v shift).halves = w.halves ∧
    (w.track now v shift).tracker = w.tracker := by
  rcases h with h | h
  · rw [Window.track_upHalf hlate h, if_neg (Nat.not_lt.mpr hlast)]
    split <;> exact ⟨rfl, rfl, rfl⟩
  · rw [Window.track_downHalf hlate h, if_neg (Nat.not_lt.mpr hlast)]
    split <;> exact ⟨rfl, rfl, rfl⟩

end Running
end Tracker

/-! ### Residual sampling (R83) -/

/-- A half with the residual mean of one string added. -/
def State.addResidual (s : State) (h : Half) (k : StringNo) : Half :=
  if s.ssu.str[k].sensorFault then h
  else { h with acc := modifyAt h.acc k fun a => { sum := a.sum + s.ssu.str[k].record.residual, count := a.count + 1 } }

theorem State.accumulate_eq (s : State) (h : Half) : s.accumulate h = s.fittedStrings.foldl s.addResidual h := rfl

theorem State.addResidual_other (s : State) (h : Half) {k j : StringNo} (hj : j ≠ k) : (s.addResidual h k).acc[j] = h.acc[j] := by
  unfold State.addResidual
  split
  · rfl
  · exact modifyAt_other _ _ _ _ hj

theorem State.addResidual_same (s : State) (h : Half) (k : StringNo) : (s.addResidual h k).acc[k] =
    if s.ssu.str[k].sensorFault = false then { sum := h.acc[k].sum + s.ssu.str[k].record.residual, count := h.acc[k].count + 1 }
    else h.acc[k] := by
  unfold State.addResidual
  by_cases hf : s.ssu.str[k].sensorFault = true
  · rw [if_pos hf, if_neg (by rw [hf]; simp)]
  · rw [if_neg hf, if_pos (Bool.eq_false_iff.mpr hf)]
    exact modifyAt_same _ _ _

theorem State.addResidual_rest (s : State) (h : Half) (k : StringNo) : ∃ acc, s.addResidual h k = { h with acc := acc } := by
  unfold State.addResidual
  split
  · exact ⟨h.acc, rfl⟩
  · exact ⟨_, rfl⟩

theorem State.foldl_addResidual (s : State) {ks : List StringNo} (hks : ks.Nodup) (h : Half) :
    ∃ acc, ks.foldl s.addResidual h = { h with acc := acc } ∧
      ∀ j : StringNo, acc[j] = if j ∈ ks then (s.addResidual h j).acc[j] else h.acc[j] := by
  induction ks generalizing h with
  | nil => exact ⟨h.acc, rfl, fun j => rfl⟩
  | cons k ks ih =>
    obtain ⟨hk, hks⟩ := List.nodup_cons.mp hks
    obtain ⟨acc, hfold, hacc⟩ := ih hks (s.addResidual h k)
    obtain ⟨acc', hrest⟩ := s.addResidual_rest h k
    refine ⟨acc, by rw [List.foldl_cons, hfold, hrest], fun j => ?_⟩
    rw [hacc j]
    by_cases hjk : j = k
    · subst hjk
      rw [if_neg hk, if_pos List.mem_cons_self]
    · have hout := s.addResidual_other h hjk
      have hmem : j ∈ k :: ks ↔ j ∈ ks := by simp [hjk]
      rw [s.addResidual_same, s.addResidual_same, hout]
      simp only [hmem]

theorem State.accumulate_acc (s : State) (h : Half) : ∃ acc, s.accumulate h = { h with acc := acc } ∧
    ∀ k : StringNo, acc[k] =
      if k.val < s.smu.strings ∧ s.ssu.str[k].sensorFault = false then
        { sum := h.acc[k].sum + s.ssu.str[k].record.residual, count := h.acc[k].count + 1 }
      else h.acc[k] := by
  obtain ⟨acc, hacc, hk⟩ := s.foldl_addResidual s.nodup_fittedStrings h
  refine ⟨acc, hacc, fun k => ?_⟩
  rw [hk k, s.addResidual_same]
  by_cases hfit : k.val < s.smu.strings
  · simp only [mem_fittedStrings, hfit, true_and, if_true]
  · simp only [mem_fittedStrings, hfit, false_and, if_false]

theorem inSpan_iff (w : Window) (h : Half) (now : Time) :
    inSpan w h now = true ↔ w.settle + 10 ≤ now.since h.start ∧ now.since h.start + 20 ≤ w.hp := by
  rw [inSpan, Bool.and_eq_true, decide_eq_true_eq, decide_eq_true_eq]
  rfl

section Sampling
variable (s : State) {w : Window}

theorem State.sampleWindow_empty (h : w.halves = []) : s.sampleWindow w = w := by
  simp [State.sampleWindow, h]

theorem State.sampleWindow_concat {hs : List Half} {h : Half} (hh : w.halves = hs ++ [h]) : s.sampleWindow w =
    if inSpan w h s.now = true then { w with halves := hs ++ [s.accumulate h] } else w := by
  simp [State.sampleWindow, hh, changeLast_concat]

/-- A listener tracks flips and samples, an injector samples. -/
theorem State.probeInterval_window (hw : s.prb.window = some w) :
    (s.prb.role = .listening →
      s.probeInterval.prb.window = some (s.sampleWindow (w.track s.now s.ssu.ground.vpg s.smu.settings.shiftMin))) ∧
    (s.prb.role = .injecting → s.probeInterval.prb.window = some (s.sampleWindow w)) := by
  constructor <;> intro hr
  all_goals
    unfold State.probeInterval
    rw [State.balanceCount_elsewhere (by show s.prb.role ≠ .none; rw [hr]; decide)]
    simp only [State.setPrb, hr, hw]
    rfl

end Sampling

/-! ### The timeouts of a listener (R80, R90) -/

section Timeouts
variable {s : State} {w : Window} (hr : s.prb.role = .listening) (hw : s.prb.window = some w)
include hr hw

theorem State.halfExpiry_at {hs : List Half} {h : Half} (hh : w.halves = hs ++ [h])
    (htr : w.tracker = .upHalf ∨ w.tracker = .downHalf) (hmore : w.halfCount < w.np)
    (ht : reached s.now (h.start.plus (5 * w.hp / 4)) = true) : s.halfExpiry =
      s.setWindow { w with tracker := .ended, halves := hs ++ [{ h with length := none, valid := some false }] } := by
  have htracking : (w.tracker == .upHalf || w.tracker == .downHalf) = true := by
    rcases htr with e | e <;> rw [e] <;> rfl
  have hlast : w.halves.getLast? = some h := by rw [hh, List.getLast?_concat]
  unfold State.halfExpiry
  rw [hr, hw]
  dsimp only
  rw [hlast]
  dsimp only
  rw [if_pos (by rw [htracking, ht, decide_eq_true hmore]; rfl), hh, decideLast_concat]

theorem State.wMax_at (ht : expired s.now w.wMaxAt = true) : s.wMax = (s.windowEndSeen none).discardWindow := by
  have hempty : s.windowReport (emptyReport w) = s := s.windowReport_empty w
  simp [State.wMax, hr, hw, ht, State.listenerEnd, hempty]

end Timeouts

/-- Settles O39. -/
theorem listenerTimeouts : Obligations.ListenerTimeouts := by
  refine ⟨fun w now v shift => ⟨fun h => h.elim Window.track_early Window.track_ended, fun hlate => ?_⟩, fun w now up v => ?_,
    fun s w hw => ?_, fun dt s w hs hr hw => ⟨fun hs' h hh htr hmore ht => ?_, fun ht => ?_⟩⟩
  · refine ⟨Window.track_waiting hlate, fun h => ⟨fun hend => ?_, fun hopen => ⟨fun hup => ?_, fun hup hdown => ?_, fun hup hdown => ?_⟩⟩,
      fun h => ⟨fun hx => ?_, fun hx hn => ?_⟩, fun h => ⟨fun hx => ?_, fun hx hn => ?_⟩, Window.track_lastHalf hlate⟩
    · rw [Window.track_first hlate h, if_pos hend]
    · rw [Window.track_first hlate h, if_neg (by omega), if_pos hup]
    · rw [Window.track_first hlate h, if_neg (by omega), if_neg (by omega), if_pos hdown]
    · rw [Window.track_first hlate h, if_neg (by omega), if_neg (by omega), if_neg (by omega)]
    · rw [Window.track_upHalf hlate h, if_neg (by omega)]
    · rw [Window.track_upHalf hlate h, if_pos hx, if_pos hn]
    · rw [Window.track_downHalf hlate h, if_neg (by omega)]
    · rw [Window.track_downHalf hlate h, if_pos hx, if_pos hn]
  · exact ⟨fun h => Window.flip_first h up, fun hs h hh => Window.flip_next hh up⟩
  · obtain ⟨hlistener, hinjector⟩ := s.probeInterval_window hw
    refine ⟨hlistener, hinjector, s.sampleWindow_empty, fun hs h hh => ⟨fun hout => ?_, fun hlo hhi => ?_⟩⟩
    · rw [s.sampleWindow_concat hh, if_neg (by rw [inSpan_iff]; omega)]
    · obtain ⟨acc, hacc, hk⟩ := s.accumulate_acc h
      exact ⟨acc, by rw [s.sampleWindow_concat hh, if_pos ((inSpan_iff _ _ _).mpr ⟨hlo, hhi⟩), hacc], hk⟩
  · rw [exec_halfExpiry hs, State.halfExpiry_at (s := s.elapse dt) hr hw hh htr hmore ht]
    rfl
  · rw [exec_wMaxExpiry hs, State.wMax_at (s := s.elapse dt) hr hw ht]
    by_cases ha : s.smu.address = 0
    · simp [State.windowEndSeen, State.discardWindow, State.listenOnly, State.setPrb, ha]
    · simp [State.windowEndSeen, State.discardWindow, State.listenOnly, State.setPrb, ha]

end Sys2Proof.Machine

/-! PROOFS. The insulation arithmetic (R67). -/

namespace Sys2Proof.Machine

open Sys2Proof.Safety

theorem rawResistance_eq (u d : Int × Int) : rawResistance u d =
    if u.2 - d.2 ≤ 0 then 65535 else min 65535 (1000 * |u.1 - d.1| / (u.2 - d.2)).toNat := by
  unfold rawResistance
  by_cases hi : u.2 - d.2 ≤ 0
  · rw [if_pos hi, if_pos hi]
    rfl
  · rw [if_neg hi, if_neg hi, rangeEnd]
    congr 1
    have hnum : (1000 : Int) * |u.1 - d.1| = ((1000 * (u.1 - d.1).natAbs : Nat) : Int) := by
      push_cast
      rfl
    have hden : u.2 - d.2 = ((u.2 - d.2).toNat : Int) := (Int.toNat_of_nonneg (by omega)).symm
    rw [hnum, hden, ← Int.natCast_ediv, Int.toNat_natCast, Int.toNat_natCast]

theorem rawResistance_le (u d : Int × Int) : rawResistance u d ≤ 65535 := by
  rw [rawResistance_eq]
  split <;> omega

theorem rawResistance_of_not_rising {u d : Int × Int} (h : u.2 ≤ d.2) : rawResistance u d = 65535 := by
  rw [rawResistance_eq, if_pos (by omega)]

theorem rawResistance_of_rising {u d : Int × Int} (h : d.2 < u.2) :
    (rawResistance u d : Int) = min 65535 (1000 * |u.1 - d.1| / (u.2 - d.2)) := by
  have hquot : 0 ≤ 1000 * |u.1 - d.1| / (u.2 - d.2) :=
    Int.ediv_nonneg (Int.mul_nonneg (by decide) (abs_nonneg _)) (by omega)
  rw [rawResistance_eq, if_neg (by omega)]
  omega

theorem insulation_eq (xs : List (Nat × Int)) (r : Nat) : insulation xs r =
    let raw := rawResistance (pairMean (usedSamples xs 1)) (pairMean (usedSamples xs 0))
    if raw = 65535 then 65535 else min 65535 (raw * 500 / r) := rfl

theorem insulation_le (xs : List (Nat × Int)) (r : Nat) : insulation xs r ≤ 65535 := by
  rw [insulation_eq]
  dsimp only
  split
  · exact le_rfl
  · exact min_le_left _ _

theorem insulation_at_reference (xs : List (Nat × Int)) :
    insulation xs 500 = rawResistance (pairMean (usedSamples xs 1)) (pairMean (usedSamples xs 0)) := by
  have hle := rawResistance_le (pairMean (usedSamples xs 1)) (pairMean (usedSamples xs 0))
  rw [insulation_eq]
  dsimp only
  split
  · next h => exact h.symm
  · rw [Nat.mul_div_cancel _ (by decide)]
    exact min_eq_right hle

theorem usedSamples_cons (x y : Nat × Int) (xs : List (Nat × Int)) (parity : Nat) :
    usedSamples (x :: xs) parity = usedSamples (y :: xs) parity := by
  simp [usedSamples, List.zipIdx_cons]

theorem pairMean_eq (ps : List (Nat × Int)) : pairMean ps =
    ((ps.map fun p => (p.1 : Int)).sum.tdiv (ps.map fun p => (p.1 : Int)).length, (ps.map Prod.snd).sum.tdiv (ps.map Prod.snd).length) := by
  rw [pairMean, meanInt_eq_sum, meanInt_eq_sum, List.length_map, List.length_map]

/-- Settles O40. -/
theorem insulationScalesByReference : Obligations.InsulationScalesByReference := by
  refine ⟨fun u d => ⟨rawResistance_le u d, rawResistance_of_not_rising, fun h => ?_, fun h hle => ?_⟩, fun xs r => ?_,
    fun x xs => ?_, fun xs np r hlen heven h4 _ _ => ?_⟩
  · rw [rawResistance_of_rising h]
    exact min_le_right _ _
  · rw [rawResistance_of_rising h, min_eq_right hle]
  · refine ⟨insulation_le xs r, fun h => ?_, insulation_at_reference xs, fun h _ _ => ?_⟩
    · rw [insulation_eq, if_pos h]
    · rw [insulation_eq, if_neg (by omega)]
  · funext r
    rw [insulation_eq, insulation_eq, usedSamples_cons x (0, 0) xs 1, usedSamples_cons x (0, 0) xs 0]
  · have hhalf : xs.length = 2 * (np / 2) := by omega
    intro half ups downs mean dv di raw
    have hup : usedSamples xs 1 = ups := usedSamples_up (np / 2) xs hhalf
    have hdown : usedSamples xs 0 = downs := usedSamples_down (np / 2) xs hhalf
    have hraw : rawResistance (pairMean (usedSamples xs 1)) (pairMean (usedSamples xs 0)) = raw := by
      rw [rawResistance_eq, hup, hdown, pairMean_eq, pairMean_eq]
    exact ⟨hup, hdown, by rw [insulation_eq, hraw]⟩

end Sys2Proof.Machine

/-! PROOFS. Demodulation and what the SEL makes of a window report (R46, R50, R51, R54, R84 to R86). -/

namespace Sys2Proof.Machine

open Sys2Proof.Safety

/-! ### The response of a string (R84, R85) -/

/-- A half is used for a string: it is valid and has a count for it. -/
def Half.usedFor (k : StringNo) (h : Half) : Bool := decide (h.valid = some true ∧ h.acc[k].count ≠ 0)

/-- The term of a used half. -/
def Half.term (k : StringNo) (h : Half) : Int :=
  if h.up = true then (h.acc[k].sum).tdiv h.acc[k].count else -(h.acc[k].sum).tdiv h.acc[k].count

theorem halfTerm_eq (h : Half) (k : StringNo) : halfTerm h k = if h.usedFor k = true then some (h.term k) else none := by
  have hused : (h.valid == some true && h.acc[k].count != 0) = h.usedFor k := by
    rw [Bool.eq_iff_iff, Half.usedFor, decide_eq_true_eq, Bool.and_eq_true, beq_iff_eq, bne_iff_ne]
  rw [halfTerm, hused]
  rfl

theorem filterMap_halfTerm (halves : List Half) (k : StringNo) :
    (halves.filterMap fun h => halfTerm h k) = (halves.filter (Half.usedFor k)).map (Half.term k) := by
  induction halves with
  | nil => rfl
  | cons h hs ih =>
    by_cases hu : h.usedFor k = true
    · rw [List.filter_cons_of_pos hu, List.map_cons, ← ih]
      exact List.filterMap_cons_some (by rw [halfTerm_eq, if_pos hu])
    · rw [List.filter_cons_of_neg hu, ← ih]
      exact List.filterMap_cons_none (by rw [halfTerm_eq, if_neg hu])

theorem responseOf_eq (halves : List Half) (k : StringNo) : responseOf halves k =
    let terms := ((halves.drop 1).filter (Half.usedFor k)).map (Half.term k)
    if terms.length < 2 then none else some (max 0 (min 2047 (terms.sum.tdiv terms.length))).toNat := by
  unfold responseOf
  rw [filterMap_halfTerm]
  dsimp only
  rw [meanInt_eq_sum]
  rfl

/-! ### The best string (R86) -/

/-- The result of one string. -/
def resultOf (halves : List Half) (k : StringNo) : Option (StringNo × Nat × Nat) :=
  (responseOf halves k).map fun q => (k, locateRank q, q)

theorem State.bestString_eq (s : State) (halves : List Half) : s.bestString halves =
    (s.fittedStrings.filterMap (resultOf halves)).foldl (pick fun x b => decide (b.2.1 < x.2.1)) none := by
  rw [List.foldl_filterMap]
  unfold State.bestString
  congr 1
  funext best k
  cases hq : responseOf halves k <;> cases best <;> simp [resultOf, hq, pick]

theorem mem_results (s : State) (halves : List Half) (j : StringNo) (l q : Nat) :
    (j, l, q) ∈ s.fittedStrings.filterMap (resultOf halves) ↔ j.val < s.smu.strings ∧ responseOf halves j = some q ∧ l = locateRank q := by
  simp only [List.mem_filterMap, resultOf, Option.map_eq_some_iff, State.mem_fittedStrings, Prod.mk.injEq]
  constructor
  · rintro ⟨k, hk, p, hp, rfl, rfl, rfl⟩
    exact ⟨hk, hp, rfl⟩
  · rintro ⟨hj, hq, rfl⟩
    exact ⟨j, hj, q, hq, rfl, rfl, rfl⟩

theorem results_ascending (s : State) (halves : List Half) :
    (s.fittedStrings.filterMap (resultOf halves)).Pairwise fun x y => x.1 < y.1 := by
  have hall : allStrings.Pairwise (· < ·) := by decide
  refine List.Pairwise.filterMap _ (fun a b hab x hx y hy => ?_) (hall.filter _)
  simp only [resultOf, Option.map_eq_some_iff] at hx hy
  obtain ⟨p, -, rfl⟩ := hx
  obtain ⟨q, -, rfl⟩ := hy
  exact hab

theorem State.bestString_ne_none (s : State) (halves : List Half) :
    (∃ k : StringNo, k.val < s.smu.strings ∧ responseOf halves k ≠ none) ↔ s.bestString halves ≠ none := by
  rw [State.bestString_eq, Ne, foldl_pick_eq_none]
  constructor
  · rintro ⟨k, hk, hq⟩
    obtain ⟨q, hq⟩ := Option.ne_none_iff_exists'.1 hq
    exact List.ne_nil_of_mem ((mem_results s halves k _ q).2 ⟨hk, hq, rfl⟩)
  · intro hne
    obtain ⟨⟨k, l, q⟩, hmem⟩ := List.exists_mem_of_ne_nil _ hne
    obtain ⟨hk, hq, -⟩ := (mem_results s halves k l q).1 hmem
    exact ⟨k, hk, by rw [hq]; simp⟩

theorem State.bestString_spec {s : State} {halves : List Half} {k : StringNo} {l q : Nat} (h : s.bestString halves = some (k, l, q)) :
    (k.val < s.smu.strings ∧ responseOf halves k = some q ∧ l = locateRank q) ∧
      ∀ (j : StringNo) (p : Nat), j.val < s.smu.strings → responseOf halves j = some p →
        locateRank p ≤ l ∧ (j < k → locateRank p < l) := by
  rw [State.bestString_eq] at h
  obtain ⟨pre, post, hsplit, hpre, hpost⟩ := foldl_pick_spec
    (fun a b => by simp only [decide_eq_true_eq, decide_eq_false_iff_not]; omega)
    (fun a b c => by simp only [decide_eq_false_iff_not]; omega) h
  simp only [decide_eq_true_eq, decide_eq_false_iff_not, not_lt] at hpre hpost
  have hasc := results_ascending s halves
  refine ⟨(mem_results s halves k l q).1 (by rw [hsplit]; simp), fun j p hj hp => ?_⟩
  have hmem := (mem_results s halves j _ p).2 ⟨hj, hp, rfl⟩
  rw [hsplit] at hmem hasc
  rcases List.mem_append.1 hmem with hj | hj
  · exact ⟨(hpre _ hj).le, fun _ => hpre _ hj⟩
  · rcases List.mem_cons.1 hj with heq | hj
    · cases heq
      exact ⟨le_rfl, fun h => absurd h (lt_irrefl _)⟩
    · have hafter : k < j := List.rel_of_pairwise_cons (List.pairwise_append.1 hasc).2.1 hj
      exact ⟨hpost _ hj, fun h => absurd h hafter.not_gt⟩

/-! ### The window report (R46, R50, R51, R54) -/

theorem forStrings_clearSuspect (k : StringNo) (ks : List StringNo) (s : State) :
    ∃ v : PerString Bool, forStrings ks (fun t j => if j == k then t else t.setSuspect j false) s =
        { s with sel := { s.sel with suspect := v } } ∧
      ∀ j : StringNo, v[j] = if j ∈ ks ∧ j ≠ k then false else s.sel.suspect[j] := by
  induction ks generalizing s with
  | nil => exact ⟨s.sel.suspect, rfl, fun j => by simp⟩
  | cons i ks ih =>
    by_cases hik : i = k
    · obtain ⟨v, hfold, hv⟩ := ih s
      refine ⟨v, by rw [← hfold, hik]; simp [forStrings], fun j => ?_⟩
      have hiff : (j ∈ i :: ks ∧ j ≠ k) ↔ (j ∈ ks ∧ j ≠ k) := by
        rw [List.mem_cons, hik]
        tauto
      rw [hv j]
      simp only [hiff]
    · obtain ⟨v, hfold, hv⟩ := ih (s.setSuspect i false)
      refine ⟨v, ?_, fun j => ?_⟩
      · have hstep : (if (i == k) = true then s else s.setSuspect i false) = s.setSuspect i false := if_neg (by simpa using hik)
        simp only [forStrings, List.foldl_cons, hstep] at hfold ⊢
        rw [hfold]
        rfl
      · have hget : (s.setSuspect i false).sel.suspect[j] = if j = i then false else s.sel.suspect[j] := modifyAt_get _ _ _ _
        rw [hv j, hget]
        by_cases hji : j = i
        · subst hji
          simp [hik]
        · simp [hji]

/-- The marks a window report leaves: none but its own string's, as that stood. -/
def State.suspectOnly (s : State) (k : StringNo) : State :=
  { s with sel := { s.sel with suspect := (Vector.replicate 12 false : PerString Bool).set k.val s.sel.suspect[k] } }

theorem State.keepSuspectOnly_eq (s : State) (k : StringNo) : s.keepSuspectOnly k = s.suspectOnly k := by
  obtain ⟨v, hfold, hv⟩ := forStrings_clearSuspect k allStrings s
  have hmarks : v = (Vector.replicate 12 false : PerString Bool).set k.val s.sel.suspect[k] := by
    refine Vector.ext fun j hj => ?_
    have hvj := hv ⟨j, hj⟩
    simp only [Fin.getElem_fin, mem_allStrings, true_and, Ne, Fin.ext_iff] at hvj
    rw [hvj, Vector.getElem_set, Vector.getElem_replicate]
    by_cases hjk : k.val = j
    · simp [← hjk]
    · simp [hjk, Ne.symm hjk]
  rw [State.keepSuspectOnly, hfold, hmarks]
  rfl

theorem State.suspectOnly_cleared (s : State) (k : StringNo) :
    (s.suspectOnly k).setSuspect k false = { s with sel := { s.sel with suspect := Vector.replicate 12 false } } := by
  have hmarks : modifyAt ((Vector.replicate 12 false : PerString Bool).set k.val s.sel.suspect[k]) k (fun _ => false) =
      Vector.replicate 12 false := by
    refine Vector.ext fun j hj => ?_
    rw [modifyAt, Vector.getElem_set, Vector.getElem_set, Vector.getElem_replicate]
    split <;> rfl
  exact congrArg (fun v => ({ s with sel := { s.sel with suspect := v } } : State)) hmarks

/-- The GROUND incident of a window report as it is handed over for opening. -/
def State.groundOf (s : State) (r : WindowReport) (k : StringNo) (l q : Nat) : Incident :=
  { kind := .ground, string := k, rank := l, round := 0, onset := s.now, decision := s.now.plus 200, tag := some r.tag,
    response := some q, riso := some r.riso, state := .claiming, claim := .none, beatenBy := none }

theorem claimFrame_ground {i : Incident} {t : Tag} {q : Nat} (hk : i.kind = .ground) (ht : i.tag = some t) (hq : i.response = some q) :
    claimFrame i = newFrame .locate i.rank [BitVec.ofNat 8 t.injector, BitVec.ofNat 8 t.sequence, BitVec.ofNat 8 (i.string.val + 1),
      BitVec.ofNat 8 (q / 256), BitVec.ofNat 8 q] := by
  simp only [claimFrame, hk, ht, hq]
  rfl

theorem claimFrame_rank (i : Incident) : (claimFrame i).rank = i.rank := by
  unfold claimFrame
  split <;> rfl

/-- The entries that beat a GROUND incident (R50). -/
def State.groundBeats (s : State) (r : WindowReport) (k : StringNo) (l q : Nat) : List ClaimEntry :=
  s.sel.claimLog.filter fun e => relevant (s.groundOf r k l q) e && s.entryOutranks e l

theorem State.mem_groundBeats (s : State) (r : WindowReport) (k : StringNo) (l q : Nat) (e : ClaimEntry) :
    e ∈ s.groundBeats r k l q ↔ e ∈ s.sel.claimLog ∧ e.kind = .locate ∧ e.tag = some r.tag ∧
      (l < e.rank ∨ (e.rank = l ∧ e.source < s.smu.address)) := by
  have hrelevant : relevant (s.groundOf r k l q) e = true ↔ e.kind = .locate ∧ e.tag = some r.tag := by
    show (e.kind == .locate && e.tag.isSome && e.tag == some r.tag) = true ↔ _
    rw [Bool.and_eq_true, Bool.and_eq_true, beq_iff_eq, beq_iff_eq]
    exact ⟨fun ⟨⟨hk, _⟩, ht⟩ => ⟨hk, ht⟩, fun ⟨hk, ht⟩ => ⟨⟨hk, by rw [ht]; rfl⟩, ht⟩⟩
  rw [State.groundBeats, List.mem_filter, Bool.and_eq_true, hrelevant, State.entryOutranks, outranks_iff, and_assoc]

section Report
variable {s : State} {r : WindowReport}

theorem State.windowReport_without_result (h : r.status ≠ some .ok ∨ r.disturbed = true ∨ r.result = none) : s.windowReport r = s := by
  unfold State.windowReport
  rcases h with h | h | h
  · exact if_neg (by simp [h])
  · exact if_neg (by simp [h])
  · rw [h]
    exact ite_self _

variable {k : StringNo} {l q : Nat} (hok : r.status = some .ok) (hd : r.disturbed = false) (hr : r.result = some (k, l, q))
include hok hd hr

theorem State.windowReport_eq : s.windowReport r =
    if l < s.smu.settings.locMin then (s.suspectOnly k).setSuspect k false
    else if s.sel.ground.isSome then s
    else if s.probingBarred then s.suspectOnly k
    else (s.suspectOnly k).openGround r k l q := by
  unfold State.windowReport
  rw [if_pos (by rw [hok, hd]; rfl), hr]
  dsimp only
  rw [State.keepSuspectOnly_eq]

theorem State.windowReport_opens (hl : s.smu.settings.locMin ≤ l) (hg : s.sel.ground = none) (hstop : s.pvw.stopSet = [])
    (hlock : s.rsl.lockKey.accepted = false) : s.windowReport r = (s.suspectOnly k).openGround r k l q := by
  rw [State.windowReport_eq hok hd hr, if_neg (by omega), if_neg (by rw [hg]; simp),
    if_neg (by rw [(State.probingBarred_eq_false s).2 ⟨hstop, hlock⟩]; simp)]

end Report

theorem State.openGround_eq (s : State) (r : WindowReport) (k : StringNo) (l q : Nat) : s.openGround r k l q =
    match strongest (s.groundBeats r k l q) with
    | some e => s.setGround (some { s.groundOf r k l q with
        state := .yielded, beatenBy := some { source := e.source, rank := e.rank } })
    | none => s.openClaiming (s.groundOf r k l q) := rfl

theorem State.openGround_yields {s : State} {r : WindowReport} {k : StringNo} {l q : Nat} {e : ClaimEntry} (he : e ∈ s.groundBeats r k l q) :
    ∃ b ∈ s.groundBeats r k l q, (∀ x ∈ s.groundBeats r k l q, outranks x.rank x.source b.rank b.source = false) ∧
      s.openGround r k l q = s.setGround (some { s.groundOf r k l q with
        state := .yielded, beatenBy := some { source := b.source, rank := b.rank } }) := by
  obtain ⟨b, hb⟩ := exists_strongest (List.ne_nil_of_mem he)
  obtain ⟨hmem, hunbeaten⟩ := strongest_unbeaten hb
  refine ⟨b, hmem, hunbeaten, ?_⟩
  rw [State.openGround_eq, hb]

theorem State.openGround_claims {s : State} {r : WindowReport} {k : StringNo} {l q : Nat} (h : ∀ e, e ∉ s.groundBeats r k l q) :
    s.openGround r k l q = s.openClaiming (s.groundOf r k l q) := by
  have hnone : strongest (s.groundBeats r k l q) = none := by
    rw [strongest_eq_none]
    exact List.eq_nil_iff_forall_not_mem.2 h
  rw [State.openGround_eq, hnone]

/-- Settles O41. -/
theorem bestStringHasHighestRank : Obligations.BestStringHasHighestRank := by
  refine ⟨fun q => rfl, fun halves k => ?_, fun i _ => claimFrame_rank i,
    fun s halves => ⟨s.bestString_ne_none halves, fun k l q h => ?_⟩, fun s r => State.windowReport_without_result,
    fun s r k l q hok hd hr => ?_⟩
  · intro value used terms
    have hterms : ((halves.drop 1).filter (Half.usedFor k)).map (Half.term k) = terms := rfl
    rw [responseOf_eq, hterms]
    exact ⟨fun h => if_pos h, fun h => if_neg (by omega)⟩
  · obtain ⟨⟨hk, hq, hl⟩, hbest⟩ := State.bestString_spec h
    exact ⟨hk, hq, hl, hbest⟩
  · intro clear marked i beats
    refine ⟨fun hl => ?_, fun hl hg => ?_, fun hl hg hbar => ?_, fun hl hg hstop hlock => ?_⟩
    · rw [State.windowReport_eq hok hd hr, if_pos hl, State.suspectOnly_cleared]
    · rw [State.windowReport_eq hok hd hr, if_neg (by omega), if_pos (Option.isSome_iff_ne_none.2 hg)]
    · have hbarred : s.probingBarred = true := by
        rw [← Bool.not_eq_false, State.probingBarred_eq_false]
        rintro ⟨hstop, hlock⟩
        exact hbar.elim (· hstop) (by simp [hlock])
      rw [State.windowReport_eq hok hd hr, if_neg (by omega), if_neg (by rw [hg]; simp), if_pos hbarred]
      rfl
    · have hmem (e : ClaimEntry) : e ∈ (s.suspectOnly k).groundBeats r k l q ↔ e ∈ s.sel.claimLog ∧ beats e :=
        (s.suspectOnly k).mem_groundBeats r k l q e
      rw [State.windowReport_opens hok hd hr hl hg hstop hlock]
      refine ⟨fun ⟨e, hlog, hbeats⟩ => ?_, fun hnone => ?_⟩
      · obtain ⟨b, hb, hunbeaten, hopen⟩ := State.openGround_yields ((hmem e).2 ⟨hlog, hbeats⟩)
        exact ⟨b, ((hmem b).1 hb).1, ((hmem b).1 hb).2, fun x hx hxb => hunbeaten x ((hmem x).2 ⟨hx, hxb⟩), hopen⟩
      · have hframe := claimFrame_ground (i := (s.suspectOnly k).groundOf r k l q) rfl rfl rfl
        rw [State.openGround_claims fun e he => hnone e ((hmem e).1 he).1 ((hmem e).1 he).2]
        refine ⟨fun ha => ?_, fun ha hq hroom => ?_, fun ha hfull hkinds => ?_⟩
        · rw [State.openClaiming_listenOnly (by exact ha)]
          rfl
        · rw [State.openClaiming_sent (by exact ha) (State.enqueue_claim_of_room (by exact ha) (by exact hq) (by exact hroom)), hframe]
          rfl
        · rw [State.openClaiming_dropped (by exact ha) (State.enqueue_claim_refused (by exact ha) (.inr ⟨by exact hfull, fun g hg => ?_⟩))]
          · rfl
          · rw [← Bool.not_eq_true, State.evictable_iff]
            exact fun hev => hev.1.elim (hkinds g hg).1 (hkinds g hg).2

end Sys2Proof.Machine

/-! PROOFS. Reception: characters, frames and their sorting (R99 to R102, R111). -/

namespace Sys2Proof.Machine

open Sys2Proof.Safety

/-- The error count after one more error event; a suspended count does not move (R111). -/
def Lnc.errorsCounted (l : Lnc) : Nat := if l.suspended = true then l.errors else min 255 (l.errors + 1)

theorem State.countError_eq (s : State) : s.countError = s.setLnc { s.lnc with errors := s.lnc.errorsCounted } := by
  unfold State.countError Lnc.errorsCounted
  split <;> rfl

/-- The receiver gives a character up: the error is counted and the receiver goes to SYNC. -/
def State.characterFails (s : State) : State := s.setLnc { s.lnc with errors := s.lnc.errorsCounted, rx := .sync, rxChars := [] }

theorem State.countError_sync (s : State) :
    s.countError.setLnc { s.countError.lnc with rx := .sync, rxChars := [] } = s.characterFails := by
  rw [State.countError_eq]
  rfl

/-! ### Characters (R99, R100) -/

section Characters
variable {s : State} {c : Byte} {mark stop : Level}

theorem charAt_concat_last {xs : List Byte} (h : (xs ++ [c]).length = 4) : charAt (xs ++ [c]) 3 = c := by
  have hxs : xs.length = 3 := by simpa using h
  rw [charAt, List.getD_eq_getElem?_getD, ← hxs, List.getElem?_concat_length, Option.getD_some]

theorem State.appendChar_tooLong (h : (s.lnc.rxChars ++ [c]).length = 4) (hc : 16 < c.toNat) : s.appendChar c = s.characterFails := by
  have hlong : ((s.lnc.rxChars ++ [c]).length == 4 && decide (16 < announced (s.lnc.rxChars ++ [c]))) = true := by
    rw [announced, charAt_concat_last h, h, decide_eq_true hc]
    rfl
  unfold State.appendChar
  dsimp only
  rw [if_pos hlong, State.countError_sync]

theorem State.appendChar_last (hlen : (s.lnc.rxChars ++ [c]).length = announced (s.lnc.rxChars ++ [c]) + 6) : s.appendChar c =
    s.setLnc { s.lnc with rx := .ready, rxChars := [], rxDone := some (s.lnc.rxChars ++ [c]) } := by
  have hnot : ¬((s.lnc.rxChars ++ [c]).length == 4 && decide (16 < announced (s.lnc.rxChars ++ [c]))) = true := by
    rw [Bool.and_eq_true, beq_iff_eq]
    omega
  have hfull : (decide (4 ≤ (s.lnc.rxChars ++ [c]).length) && (s.lnc.rxChars ++ [c]).length == announced (s.lnc.rxChars ++ [c]) + 6) = true := by
    rw [Bool.and_eq_true, decide_eq_true_eq, beq_iff_eq]
    omega
  unfold State.appendChar
  dsimp only
  rw [if_neg hnot, if_pos hfull]

theorem State.appendChar_inside (h : (s.lnc.rxChars ++ [c]).length < 4 ∨ ((s.lnc.rxChars ++ [c]).length = 4 ∧ c.toNat ≤ 16) ∨
    (4 < (s.lnc.rxChars ++ [c]).length ∧ (s.lnc.rxChars ++ [c]).length ≠ announced (s.lnc.rxChars ++ [c]) + 6)) :
    s.appendChar c = s.setLnc { s.lnc with rxChars := s.lnc.rxChars ++ [c] } := by
  have hshort : (s.lnc.rxChars ++ [c]).length = 4 → announced (s.lnc.rxChars ++ [c]) = c.toNat := fun h4 => by
    rw [announced, charAt_concat_last h4]
  have hnot : ¬((s.lnc.rxChars ++ [c]).length == 4 && decide (16 < announced (s.lnc.rxChars ++ [c]))) = true := by
    rw [Bool.and_eq_true, beq_iff_eq, decide_eq_true_eq]
    omega
  have hmore : ¬(decide (4 ≤ (s.lnc.rxChars ++ [c]).length) && (s.lnc.rxChars ++ [c]).length == announced (s.lnc.rxChars ++ [c]) + 6) = true := by
    rw [Bool.and_eq_true, decide_eq_true_eq, beq_iff_eq]
    omega
  unfold State.appendChar
  dsimp only
  rw [if_neg hnot, if_neg hmore]

section Listening
variable (hb : s.lnc.breakEndAt = none) (hl : s.lnc.line ≠ .stuck)
include hb hl

theorem State.characterTaken_eq : s.characterTaken c mark stop =
    match s.lnc.rx, stop, mark with
    | .sync, _, _ => s
    | .ready, .dominant, _ => s.characterFails
    | .ready, .recessive, .recessive => s.setLnc { s.lnc with rx := .frame, rxChars := [c] }
    | .ready, .recessive, .dominant => s
    | .frame, .dominant, _ => s.characterFails
    | .frame, .recessive, .recessive => s.setLnc { s.lnc with rxChars := [c] }
    | .frame, .recessive, .dominant => s.appendChar c := by
  have hnot : ¬(s.lnc.breakEndAt.isSome || s.lnc.line == .stuck) = true := by simp [hb, hl]
  unfold State.characterTaken
  rw [if_neg hnot, State.countError_sync]
  cases s.lnc.rx <;> cases stop <;> cases mark <;> rfl

theorem State.characterTaken_stopDominant (hrx : s.lnc.rx ≠ .sync) : s.characterTaken c mark .dominant = s.characterFails := by
  rw [State.characterTaken_eq hb hl]
  cases h : s.lnc.rx with
  | sync => exact absurd h hrx
  | ready => rfl
  | frame => rfl

theorem State.characterTaken_marked (hrx : s.lnc.rx ≠ .sync) :
    s.characterTaken c .recessive .recessive = s.setLnc { s.lnc with rx := .frame, rxChars := [c] } := by
  rw [State.characterTaken_eq hb hl]
  cases h : s.lnc.rx with
  | sync => exact absurd h hrx
  | ready => rfl
  | frame => exact congrArg (fun r => s.setLnc { s.lnc with rx := r, rxChars := [c] }) h

end Listening

theorem State.characterGap_inFrame (hrx : s.lnc.rx = .frame) (hs : s.lnc.sending = none) :
    s.characterGap = s.setLnc { s.lnc with errors := s.lnc.errorsCounted, rx := .ready, rxChars := [] } := by
  unfold State.characterGap
  rw [if_pos (by rw [hrx, hs]; rfl), State.countError_eq]
  rfl

theorem State.characterGap_elsewhere (hrx : s.lnc.rx ≠ .frame) : s.characterGap = s := if_neg (by simp [hrx])

end Characters

/-- Settles O42. -/
theorem charactersAssembleFrames : Obligations.CharactersAssembleFrames := by
  intro dt c mark stop s hs hb hl errors run after xs
  have hrun : run = .next ((s.elapse dt).characterTaken c mark stop).settle := exec_characterTaken hs dt c mark stop
  refine ⟨fun hrx => ?_, fun hrx hstop => ?_, fun hrx hstop hmark => ?_, fun hrx hstop hmark => ?_, fun hrx hstop hmark => ?_,
    fun hrx hsend => ?_, fun hrx => ?_⟩
  · rw [hrun, State.characterTaken_eq (s := s.elapse dt) hb hl, State.elapse_lnc, hrx]
    rfl
  · rw [hrun, hstop, State.characterTaken_stopDominant (s := s.elapse dt) hb hl hrx]
    rfl
  · rw [hrun, hstop, hmark, State.characterTaken_marked (s := s.elapse dt) hb hl hrx]
    rfl
  · rw [hrun, hstop, hmark, State.characterTaken_eq (s := s.elapse dt) hb hl, State.elapse_lnc, hrx]
    rfl
  · have happend : run = .next ((s.elapse dt).appendChar c).settle := by
      rw [hrun, hstop, hmark, State.characterTaken_eq (s := s.elapse dt) hb hl, State.elapse_lnc, hrx]
    rw [happend]
    refine ⟨fun h4 hc => ?_, fun _ hlen => ?_, fun h => ?_⟩
    · rw [State.appendChar_tooLong (s := s.elapse dt) h4 hc]
      rfl
    · rw [State.appendChar_last (s := s.elapse dt) hlen]
      rfl
    · rw [State.appendChar_inside (s := s.elapse dt) h]
      rfl
  · rw [exec_characterGapExpiry hs, State.characterGap_inFrame (s := s.elapse dt) hrx hsend]
    rfl
  · rw [exec_characterGapExpiry hs, State.characterGap_elsewhere (s := s.elapse dt) hrx]
    rfl

/-! ### The sorting of a frame (R101, R102) -/

/-- The line state once a good frame is heard (R114). -/
def Lnc.heardAt (l : Lnc) (t : Time) : Lnc :=
  { l with lastGood := some t, line := if l.line = .down then .up else l.line, cleanRun := if l.line = .down then 0 else l.cleanRun }

theorem State.heard_eq (s : State) (p : PeerNo) :
    s.heard p = (s.setPeer p { presence := .present, lastHeard := some s.now }).setLnc (s.lnc.heardAt s.now) := by
  unfold State.heard Lnc.heardAt
  by_cases h : s.lnc.line = .down
  · simp [State.setPeer, h, State.setLnc]
  · simp [State.setPeer, h, State.setLnc]

section Sorting
variable {s : State} {f : Received}

theorem State.sortFrame_discarded (h : f.source = 0 ∨ 31 < f.source) : s.sortFrame f = s := if_pos h

theorem State.sortFrame_own (h0 : f.source ≠ 0) (h31 : f.source ≤ 31) (hown : f.source = s.smu.address) :
    s.sortFrame f = s.setLnc { s.lnc with conflict := true } := by
  unfold State.sortFrame
  rw [if_neg (by omega), if_pos hown]

/-- A good frame of another station, by its kind and its form. -/
theorem State.sortFrame_heard {p : PeerNo} (hp : f.source = p.val + 1) (hother : f.source ≠ s.smu.address) :
    (Kind.ofCode f.code = none → s.sortFrame f = s.heard p) ∧
    (∀ k, Kind.ofCode f.code = some k → FormFails k f.payload → s.sortFrame f = s.heard p) ∧
    (∀ k, Kind.ofCode f.code = some k → ¬FormFails k f.payload → s.sortFrame f = (s.heard p).deliver k f) := by
  have hpeer : Fin.ofNat 31 (f.source - 1) = p := by
    rw [hp, Nat.add_sub_cancel]
    exact Fin.ext (Nat.mod_eq_of_lt p.isLt)
  have hstep : s.sortFrame f = match Kind.ofCode f.code with
      | none => s.heard p
      | some k => if encodingFits k f.payload then (s.heard p).deliver k f else s.heard p := by
    unfold State.sortFrame
    rw [if_neg (by omega), if_neg hother, hpeer] <;> rfl
  rw [hstep]
  refine ⟨fun hk => by rw [hk], fun k hk hform => ?_, fun k hk hform => ?_⟩
  · rw [hk]
    exact if_neg (by rw [(encodingFits_false k f.payload).2 hform]; simp)
  · rw [hk]
    exact if_pos (by rw [← Bool.not_eq_false, encodingFits_false]; exact hform)

end Sorting

section Completion
variable {s : State} {xs : List Byte} (h : s.lnc.rxDone = some xs)
include h

theorem State.frameCompleted_echo (hs : s.lnc.sending ≠ none) : s.frameCompleted = s.setLnc { s.lnc with rxDone := none } := by
  unfold State.frameCompleted
  rw [h]
  exact if_pos (Option.isSome_iff_ne_none.2 hs)

theorem State.frameCompleted_checkError (hs : s.lnc.sending = none) (hp : parseFrame xs = none) :
    s.frameCompleted = s.setLnc { s.lnc with rxDone := none, errors := s.lnc.errorsCounted } := by
  unfold State.frameCompleted
  rw [h]
  dsimp only
  rw [if_neg (by rw [State.setLnc_lnc, hs]; simp), hp]
  exact State.countError_eq _

theorem State.frameCompleted_good (hs : s.lnc.sending = none) {f : Received} (hp : parseFrame xs = some f) :
    s.frameCompleted = (s.setLnc { s.lnc with rxDone := none }).sortFrame f := by
  unfold State.frameCompleted
  rw [h]
  dsimp only
  rw [if_neg (by rw [State.setLnc_lnc, hs]; simp), hp]

end Completion

/-- Settles O44. -/
theorem frameCompletionSortsFrames : Obligations.FrameCompletionSortsFrames := by
  refine ⟨fun s f => rfl, fun dt s xs hs hdone => ?_⟩
  have hexec : exec (.frameCompletion dt) s = .next (s.elapse dt).frameCompleted.settle := exec_frameCompletion hs dt
  rw [hexec]
  refine ⟨fun hsend => ?_, fun hsend hparse => ?_, fun f hsend hparse => ?_⟩
  · rw [State.frameCompleted_echo (s := s.elapse dt) hdone hsend]
    rfl
  · rw [State.frameCompleted_checkError (s := s.elapse dt) hdone hsend hparse]
    rfl
  · rw [State.frameCompleted_good (s := s.elapse dt) hdone hsend hparse]
    generalize ht : (s.elapse dt).setLnc { (s.elapse dt).lnc with rxDone := none } = t
    refine ⟨fun h => ?_, fun h0 h31 hown => ?_, fun p hp hother => ?_⟩
    · rw [State.sortFrame_discarded h, ← ht]
      rfl
    · rw [State.sortFrame_own h0 h31 (by rw [← ht]; exact hown), ← ht]
      rfl
    · intro u
      have hu : t.heard p = u := by
        rw [State.heard_eq, ← ht]
        rfl
      obtain ⟨hunknown, hunfit, hfit⟩ := State.sortFrame_heard (s := t) hp (by rw [← ht]; exact hother)
      rw [hu] at hunknown hunfit hfit
      refine ⟨fun hk => by rw [hunknown hk], fun k hk h => ?_, fun k hk h => by rw [hfit k hk h]⟩
      by_cases hform : FormFails k f.payload
      · rw [hunfit k hk hform]
      · rw [hfit k hk hform, h.resolve_left hform]
        rfl

end Sys2Proof.Machine

/-! PROOFS. Health periods, silence and a stuck line (R62, R70, R110 to R116, R123). -/

namespace Sys2Proof.Machine

open Sys2Proof.Safety

/-! ### Health periods (R111, R112, R115) -/

section Health
variable {s : State} {due : Time}

/-- The LNC after a health period, but for its line state and its run of clean periods. -/
def Lnc.periodEnded (l : Lnc) (due : Time) (errLim floor : Nat) : Lnc :=
  { l with errors := 0, periodEndAt := some (due.plus 1000), suspended := decide (errLim ≤ l.errors ∧ l.line ≠ .stuck),
           level := if errLim ≤ l.errors ∧ l.line ≠ .stuck then (if l.level < 7 then l.level + 1 else floor) else l.level }

theorem State.healthPeriodEnd_at (h : s.lnc.periodEndAt = some due) (hd : reached s.now due = true) : s.healthPeriodEnd =
    let next := lineAfterPeriod s.lnc.line s.lnc.cleanRun (decide (s.smu.settings.errLim ≤ s.lnc.errors))
      (decide (s.lnc.errors = 0 ∧ s.lnc.suspended = false))
    s.setLnc { s.lnc.periodEnded due s.smu.settings.errLim s.smu.settings.rxFloor with line := next.1, cleanRun := next.2 } := by
  have hclean : (s.lnc.errors == 0 && !s.lnc.suspended) = decide (s.lnc.errors = 0 ∧ s.lnc.suspended = false) := by
    rw [Bool.eq_iff_iff]
    simp
  have hsteps : (decide (s.smu.settings.errLim ≤ s.lnc.errors) && s.lnc.line != .stuck) =
      decide (s.smu.settings.errLim ≤ s.lnc.errors ∧ s.lnc.line ≠ .stuck) := by
    rw [Bool.eq_iff_iff]
    simp
  unfold State.healthPeriodEnd
  rw [h]
  dsimp only
  rw [if_pos hd, hclean, hsteps]
  simp only [Lnc.periodEnded, decide_eq_true_eq, steppedLevel, healthMs]

end Health

/-- Settles O50. -/
theorem healthPeriodsStepTheLevel : Obligations.HealthPeriodsStepTheLevel := by
  intro dt s due hs hdue hd bad clean l after
  have hexec (line : LineState) (run : Nat)
      (hnext : lineAfterPeriod s.lnc.line s.lnc.cleanRun (decide bad) (decide clean) = (line, run)) :
      exec (.healthPeriodEnd dt) s = after { l with line := line, cleanRun := run } := by
    rw [exec_healthPeriodEnd hs, State.healthPeriodEnd_at (s := s.elapse dt) hdue hd]
    exact congrArg (fun p => after { l with line := p.1, cleanRun := p.2 }) hnext
  have hrests (hnext : lineAfterPeriod s.lnc.line s.lnc.cleanRun (decide bad) (decide clean) = (s.lnc.line, s.lnc.cleanRun)) :
      exec (.healthPeriodEnd dt) s = after l := hexec _ _ hnext
  refine ⟨fun hl hb => hexec _ _ ?_, fun hl hb => ?_, fun hl hb hc hr => hexec _ _ ?_, fun hl hb hc hr => ?_, fun hl hb hc => hrests ?_,
    fun hl hb => hrests ?_, fun hl => hrests ?_⟩
  · simp [lineAfterPeriod, hl, hb]
  · rw [hexec .degraded 0 (by simp [lineAfterPeriod, hl, hb]), ← hl]
  · simp [lineAfterPeriod, hl, hb, hc, hr]
  · rw [hexec .degraded (s.lnc.cleanRun + 1) (by simp [lineAfterPeriod, hl, hb, hc, Nat.not_le.2 hr]), ← hl]
  · simp [lineAfterPeriod, hl, hb, hc]
  · simp [lineAfterPeriod, hl, hb]
  · rcases hl with hl | hl | hl <;> simp [lineAfterPeriod, hl]

/-! ### Silence (R114, R123) -/

section Silence
variable {s : State}

theorem State.silence_at {g : Time} (hg : s.lnc.lastGood = some g) (hl : s.lnc.line = .up ∨ s.lnc.line = .degraded)
    (hd : reached s.now (g.plus (s.smu.settings.silenceLim * 1000)) = true) :
    s.silence = s.setLnc { s.lnc with line := .down, cleanRun := 0 } := by
  have hexpired : expired s.now (s.lnc.lastGood.map fun t => t.plus s.silenceMs) = true := by rw [hg]; exact hd
  exact if_pos (by rw [(State.lineUsable_iff s).2 hl, hexpired]; rfl)

theorem State.silence_rests {g : Time} (hg : s.lnc.lastGood = some g) (h : (s.lnc.line ≠ .up ∧ s.lnc.line ≠ .degraded) ∨
    reached s.now (g.plus (s.smu.settings.silenceLim * 1000)) = false) : s.silence = s := by
  have hexpired : expired s.now (s.lnc.lastGood.map fun t => t.plus s.silenceMs) =
      reached s.now (g.plus (s.smu.settings.silenceLim * 1000)) := by rw [hg]; rfl
  refine if_neg ?_
  rw [Bool.and_eq_true, State.lineUsable_iff, hexpired]
  rintro ⟨hl, hd⟩
  rcases h with h | h
  · exact hl.elim h.1 h.2
  · exact absurd (h.symm.trans hd) (by simp)

theorem State.peerSilence_eq {p : PeerNo} {h : Time} (hp : s.pvw.peers[p] = { presence := .present, lastHeard := some h }) : s.peerSilence p =
    if reached s.now (h.plus (s.smu.settings.silenceLim * 1000)) = true then s.setPeer p { presence := .silent, lastHeard := some h } else s := by
  unfold State.peerSilence
  dsimp only
  rw [hp]
  rfl

end Silence

/-! ### A window that is lost, and a stuck line (R62, R70, R71, R116) -/

/-- The PRB after a window end without a PROBE-CLOSE, its window discarded. -/
def State.prbAfterLoss (s : State) : Prb :=
  if s.smu.address = 0 then { s.prb with role := .none, window := none, output := .released, lastEnd := some s.now }
  else { s.prb with role := .none, window := none, output := .released, lastEnd := some s.now, alarmArmed := true, staggerAt := none,
                    alarmCount := 0 }

section Stuck
variable {s : State}

theorem State.windowEndSeen_discarded (s : State) : (s.windowEndSeen none).discardWindow = s.setPrb s.prbAfterLoss := by
  unfold State.windowEndSeen State.discardWindow State.prbAfterLoss State.listenOnly
  by_cases ha : s.smu.address = 0
  · simp [ha, State.setPrb]
  · simp [ha, State.setPrb]

theorem State.windowLost_of_window {w : Window} (hw : s.prb.window = some w) : s.windowLost = s.setPrb s.prbAfterLoss := by
  unfold State.windowLost
  rw [hw]
  dsimp only
  rw [State.windowReport_empty, State.windowEndSeen_discarded]

/-- The injector's output is released at once, whatever becomes of its window. -/
theorem State.windowLost_released {w : Window} (hw : s.prb.window = some w) :
    (s.setPrb { s.prb with output := .released }).windowLost = s.setPrb s.prbAfterLoss := by
  rw [State.windowLost_of_window (s := s.setPrb _) (by exact hw)]
  unfold State.prbAfterLoss
  by_cases ha : s.smu.address = 0
  · simp [ha, State.setPrb]
  · simp [ha, State.setPrb]

theorem State.probeStuck_of_apart (h : s.prb.role = .none ∨ s.prb.role = .listening) : s.probeStuck = s := by
  unfold State.probeStuck
  rw [State.withdrawProbeOpen_of_not_pending (by rcases h with h | h <;> simp [h])]
  dsimp only
  rcases h with h | h <;> rw [h]

theorem State.probeStuck_of_waiting {g : QueuedFrame} (hr : s.prb.role = .pending) (hg : s.queuedOf .probeOpen = some g)
    (hs : s.lnc.sending ≠ some g.entry) : s.probeStuck = (s.removeEntry g.entry).setPrb { s.prb with role := .none, byDue := false } := by
  unfold State.probeStuck
  rw [State.withdrawProbeOpen_of_waiting hr hg hs]
  rfl

theorem State.probeStuck_of_attempt {g : QueuedFrame} (hr : s.prb.role = .pending) (hg : s.queuedOf .probeOpen = some g)
    (hs : s.lnc.sending = some g.entry) : s.probeStuck = { s with lnc := { s.lnc with
      queue := s.lnc.queue.map fun f => if f.entry = g.entry then { f with withdrawAsked := true } else f } } := by
  unfold State.probeStuck
  rw [State.withdrawProbeOpen_of_attempt hr hg hs]
  dsimp only
  rw [hr]

section Injector
variable {w : Window} (hr : s.prb.role = .injecting) (hw : s.prb.window = some w)
include hr hw

theorem State.probeStuck_of_open (hp : w.phase ≠ some .closing) : s.probeStuck = s.setPrb s.prbAfterLoss := by
  unfold State.probeStuck
  rw [State.withdrawProbeOpen_of_not_pending (by simp [hr])]
  dsimp only
  rw [hr, hw]
  dsimp only
  rw [if_neg (by simpa using hp), ← hr, ← hw, State.windowLost_released hw]

theorem State.probeStuck_of_closing (hp : w.phase = some .closing) : s.probeStuck =
    let r := (s.setPrb { s.prb with output := .released }).withdraw .probeClose
    if r.2 = .granted then r.1.windowLost else r.1 := by
  unfold State.probeStuck
  rw [State.withdrawProbeOpen_of_not_pending (by simp [hr])]
  dsimp only
  rw [hr, hw]
  dsimp only
  rw [if_pos (by rw [hp]; rfl), ← hr, ← hw]
  cases h : ((s.setPrb { s.prb with output := .released }).withdraw .probeClose).2 <;> rfl

theorem State.probeStuck_of_closing_waiting {g : QueuedFrame} (hp : w.phase = some .closing) (hg : s.queuedOf .probeClose = some g)
    (hs : s.lnc.sending ≠ some g.entry) : s.probeStuck = (s.removeEntry g.entry).setPrb s.prbAfterLoss := by
  rw [State.probeStuck_of_closing hr hw hp, State.withdraw_of_waiting (by exact hg) (by exact hs)]
  exact State.windowLost_released (s := s.removeEntry g.entry) hw

theorem State.probeStuck_of_closing_attempt {g : QueuedFrame} (hp : w.phase = some .closing) (hg : s.queuedOf .probeClose = some g)
    (hs : s.lnc.sending = some g.entry) : s.probeStuck = { s with
      prb := { s.prb with output := .released }
      lnc := { s.lnc with queue := s.lnc.queue.map fun f => if f.entry = g.entry then { f with withdrawAsked := true } else f } } := by
  rw [State.probeStuck_of_closing hr hw hp, State.withdraw_of_attempt (by exact hg) (by exact hs)]
  rfl

end Injector
end Stuck

/-- The LNC of a line that a dominant run has made STUCK. -/
def Lnc.stuckAt (l : Lnc) (run : Nat) : Lnc := { l with line := .stuck, cleanRun := 0, dominantRun := run, rx := .sync, rxChars := [] }

theorem State.stuckLine_short {s : State} {run : Nat} (h : run < 1500) : s.stuckLine run = s.setLnc { s.lnc with dominantRun := run } :=
  if_neg (by rw [stuckMs]; omega)

theorem State.stuckLine_long {s : State} {run : Nat} (h : 1500 ≤ run) : s.stuckLine run = (s.setLnc (s.lnc.stuckAt run)).probeStuck :=
  if_pos h

/-- Settles O51. -/
theorem silentAndStuckLines : Obligations.SilentAndStuckLines := by
  intro dt run s hs stuck
  have hstuck : stuck = .next ((s.elapse dt).stuckLine run).settle := exec_stuckLine hs { dt := dt, run := run }
  refine ⟨fun g hg => ⟨fun hl hd => ?_, fun h => ?_⟩, fun p h hp => ?_, fun hrun => ?_, ?_⟩
  · rw [exec_silenceExpiry hs, State.silence_at (s := s.elapse dt) hg hl hd]
    rfl
  · rw [exec_silenceExpiry hs, State.silence_rests (s := s.elapse dt) hg h]
  · rw [exec_peerSilenceExpiry hs, State.peerSilence_eq (s := s.elapse dt) hp]
    exact (apply_ite (fun t : State => Host.Outcome.next t.settle) _ _ _)
  · rw [hstuck, State.stuckLine_short hrun]
    rfl
  · intro l hrun
    rw [hstuck, State.stuckLine_long hrun]
    generalize ht : (s.elapse dt).setLnc ((s.elapse dt).lnc.stuckAt run) = t
    refine ⟨fun hr => ?_, ?_⟩
    · rw [State.probeStuck_of_apart (by rw [← ht]; exact hr), ← ht]
      rfl
    · intro without asked lost
      refine ⟨fun g hr hg => ⟨fun hsend => ?_, fun hsend => ?_⟩, fun w hr hw => ⟨fun hp => ?_, fun g hp hg => ⟨fun hsend => ?_, fun hsend => ?_⟩⟩⟩
      · rw [State.probeStuck_of_waiting (g := g) (by rw [← ht]; exact hr) (by rw [← ht]; exact hg) (by rw [← ht]; exact hsend), ← ht]
        rfl
      · rw [State.probeStuck_of_attempt (g := g) (by rw [← ht]; exact hr) (by rw [← ht]; exact hg) (by rw [← ht]; exact hsend), ← ht]
        rfl
      · rw [State.probeStuck_of_open (w := w) (by rw [← ht]; exact hr) (by rw [← ht]; exact hw) hp, ← ht]
        rfl
      · rw [State.probeStuck_of_closing_waiting (w := w) (g := g) (by rw [← ht]; exact hr) (by rw [← ht]; exact hw) hp (by rw [← ht]; exact hg)
          (by rw [← ht]; exact hsend), ← ht]
        rfl
      · rw [State.probeStuck_of_closing_attempt (w := w) (g := g) (by rw [← ht]; exact hr) (by rw [← ht]; exact hw) hp (by rw [← ht]; exact hg)
          (by rw [← ht]; exact hsend), ← ht]
        rfl

end Sys2Proof.Machine

/-! PROOFS. The STATUS frame: what it holds and how it enters the queue (R105, R128 to R130). -/

namespace Sys2Proof.Machine

open Sys2Proof.Safety

/-! ### The payload of a STATUS (R129, R130) -/

theorem getLsbD_flagBits : ∀ b7 b6 b5 b4 b3 b2 b1 b0 : Bool,
    let x := BitVec.ofNat 8 (flagBit b7 7 + flagBit b6 6 + flagBit b5 5 + flagBit b4 4 + flagBit b3 3 + flagBit b2 2 + flagBit b1 1 + flagBit b0 0)
    x.getLsbD 7 = b7 ∧ x.getLsbD 6 = b6 ∧ x.getLsbD 5 = b5 ∧ x.getLsbD 4 = b4 ∧ x.getLsbD 3 = b3 ∧ x.getLsbD 2 = b2 ∧
      x.getLsbD 1 = b1 ∧ x.getLsbD 0 = b0 := by
  decide +kernel

theorem getLsbD_highFlagBits : ∀ b7 b6 b5 : Bool,
    let x := BitVec.ofNat 8 (flagBit b7 7 + flagBit b6 6 + flagBit b5 5)
    x.getLsbD 7 = b7 ∧ x.getLsbD 6 = b6 ∧ x.getLsbD 5 = b5 ∧ ∀ i, i < 5 → x.getLsbD i = false := by
  decide +kernel

theorem HoldSet.exceptionCode_of_fault {h : HoldSet} {g : FaultHold} (hg : h.fault = some g) : h.exceptionCode = (match g.cause with
    | .arc => 1
    | .ground => 2
    | .reverse => 3
    | .overcurrent => 4
    | .unknown => 8) := by
  unfold HoldSet.exceptionCode
  rw [hg] <;> rfl

theorem HoldSet.exceptionCode_of_stop {h : HoldSet} (hf : h.fault = none) (hs : h.stop ≠ none) : h.exceptionCode = 6 := by
  unfold HoldSet.exceptionCode
  rw [hf]
  exact if_pos (Option.isSome_iff_ne_none.2 hs)

theorem HoldSet.exceptionCode_without_stop {h : HoldSet} (hf : h.fault = none) (hs : h.stop = none) :
    h.exceptionCode = if h.lockout = true then 7 else if h.service = true then 5 else 8 := by
  unfold HoldSet.exceptionCode
  rw [hf, hs]
  rfl

section Exceptions
variable (s : State)

theorem State.exceptionOf_spec (k : StringNo) :
    let r := s.string k
    (r.state = .stuckClosed → s.exceptionOf k = some 11) ∧ (r.state = .stuckOpen → s.exceptionOf k = some 12) ∧
    (r.state = .opened → s.exceptionOf k = some r.holds.exceptionCode) ∧
    (r.state = .opening → s.exceptionOf k = some 9) ∧ (r.state = .closing → s.exceptionOf k = some 10) ∧
    (r.state = .closed → s.exceptionOf k =
      if s.sel.suspect[k] = true then some 13 else if s.ssu.str[k].sensorFault = true then some 14 else none) ∧
    (r.state = .disabled → s.exceptionOf k = none) := by
  intro r
  refine ⟨?_, ?_, ?_, ?_, ?_, ?_, ?_⟩ <;> intro hr <;> (unfold State.exceptionOf; rw [show (s.string k).state = _ from hr])

theorem State.exceptions_eq : s.exceptions = (List.finRange 12).filterMap fun k : StringNo =>
    if k.val < s.smu.strings then (s.exceptionOf k).map fun c => BitVec.ofNat 8 (16 * (k.val + 1) + c) else none := by
  unfold State.exceptions State.fittedStrings
  rw [List.filterMap_filter]
  congr 1
  funext k
  simp only [State.fitted, decide_eq_true_eq]

theorem State.mem_exceptions (x : Byte) : x ∈ s.exceptions ↔ ∃ (k : StringNo) (c : Nat), k.val < s.smu.strings ∧ s.exceptionOf k = some c ∧
    x = BitVec.ofNat 8 (16 * (k.val + 1) + c) := by
  simp only [State.exceptions, List.mem_filterMap, State.mem_fittedStrings, Option.map_eq_some_iff]
  constructor
  · rintro ⟨k, hk, c, hc, rfl⟩
    exact ⟨k, c, hk, hc, rfl⟩
  · rintro ⟨k, c, hk, hc, rfl⟩
    exact ⟨k, hk, c, hc, rfl⟩

theorem State.exceptions_length : s.exceptions.length ≤ 12 :=
  (List.length_filterMap_le _ _).trans ((List.length_filter_le _ _).trans (by decide))

end Exceptions

/-! ### How a STATUS enters the queue (R105) -/

section EnqueueStatus
variable {s : State} {f g : QueuedFrame} (ha : s.smu.address ≠ 0) (hk : f.kind = .status)
include ha hk

theorem State.queueFrame_status : s.queueFrame f = match s.queuedOf .status with
    | some old =>
      if s.inAttempt old then { s with lnc := { s.lnc with pendingStatus := some f } } else (s.removeEntry old.entry).enterFrame f
    | none => (s.makeRoomAndEnter f).1 := by
  have hsend : s.listenOnly = false := by simp [State.listenOnly, ha]
  unfold State.queueFrame State.enqueue
  rw [if_neg (by rw [hsend]; simp), if_pos (by rw [hk]; rfl)]
  cases s.queuedOf .status with
  | none => rfl
  | some old =>
    dsimp only
    split <;> rfl

theorem State.queueFrame_status_first (hq : s.queuedOf .status = none) : s.queueFrame f = (s.makeRoomAndEnter f).1 := by
  rw [State.queueFrame_status ha hk, hq]

theorem State.queueFrame_status_replaces (hq : s.queuedOf .status = some g) (hs : s.lnc.sending ≠ some g.entry) :
    s.queueFrame f = (s.removeEntry g.entry).enterFrame f := by
  rw [State.queueFrame_status ha hk, hq]
  exact if_neg (by simpa [State.inAttempt] using hs)

theorem State.queueFrame_status_pending (hq : s.queuedOf .status = some g) (hs : s.lnc.sending = some g.entry) :
    s.queueFrame f = { s with lnc := { s.lnc with pendingStatus := some f } } := by
  rw [State.queueFrame_status ha hk, hq]
  exact if_pos (by simp [State.inAttempt, hs])

end EnqueueStatus

/-- Without a queued STATUS only an ANSWER may be evicted. -/
theorem State.evictable_answer {s : State} {g : QueuedFrame} (hq : s.queuedOf .status = none) (hg : g ∈ s.lnc.queue) :
    s.evictable g = true ↔ g.kind = .answer ∧ s.lnc.sending ≠ some g.entry := by
  have hnot : g.kind ≠ .status := State.queuedOf_none.1 hq g hg
  simp [State.evictable_iff, hnot]

/-- The STATUS built from the state (R129). -/
def State.statusFrame (s : State) : QueuedFrame := { newFrame .status 0 s.statusPayload with flagNote := s.sel.concurrent }

theorem State.statusPoint_at {s : State} {due : Time} (h : s.rpt.statusAt = some due) (hd : reached s.now due = true) : s.statusPoint =
    ({ s with rpt := { s.rpt with statusAt := some (due.plus (s.smu.settings.statusPeriod * 1000)) } } : State).queueFrame s.statusFrame := by
  unfold State.statusPoint
  rw [h]
  exact if_pos hd

/-- Settles O53. -/
theorem statusPointsQueueStatus : Obligations.StatusPointsQueueStatus := by
  intro dt s due hs hdue hd ha lineCode payload f rpt'
  have hf : (s.elapse dt).statusFrame = f := by
    have hline : s.lnc.line.code = lineCode := by
      show s.lnc.line.code = match s.lnc.line with | .listen => 0 | .up => 1 | .degraded => 2 | .down => 3 | .stuck => 4
      cases s.lnc.line <;> rfl
    show { newFrame .status 0 ([BitVec.ofNat 8 (16 * s.lnc.line.code + s.lnc.level), s.statusFlags1,
        s.statusFlags2 (decide (11 < s.exceptions.length))] ++ unsigned16 s.prb.lastRiso ++ s.exceptions.take 11) with
      flagNote := s.sel.concurrent } = f
    rw [hline]
    rfl
  generalize hu : ({ s.elapse dt with rpt := rpt' } : State) = u
  have hexec : exec (.statusPoint dt) s = .next (u.queueFrame f).settle := by
    rw [exec_statusPoint hs, State.statusPoint_at (s := s.elapse dt) hdue hd, hf, ← hu]
    rfl
  have haddr : u.smu.address ≠ 0 := by rw [← hu]; exact ha
  have hqueued : u.queuedOf .status = s.queuedOf .status := by rw [← hu]; rfl
  have hlnc : u.lnc = s.lnc := by rw [← hu]; rfl
  refine ⟨fun hq hroom => ?_, fun g hg hsend => ?_, fun g hg hsend => ?_, fun hq hfull => ?_, getLsbD_flagBits _ _ _ _ _ _ _ _,
    fun b => getLsbD_highFlagBits _ _ _, fun k => ?_, s.exceptions_eq, s.mem_exceptions, s.exceptions_length⟩
  · rw [hexec, State.queueFrame_status_first haddr rfl (hqueued.trans hq), State.makeRoomAndEnter_of_room (by rwa [hlnc]), ← hu]
    rfl
  · rw [hexec, State.queueFrame_status_replaces haddr rfl (hqueued.trans hg) (by rwa [hlnc]), ← hu]
    rfl
  · rw [hexec, State.queueFrame_status_pending haddr rfl (hqueued.trans hg) (by rwa [hlnc]), ← hu]
    rfl
  · have hevict (g : QueuedFrame) (hg : g ∈ s.lnc.queue) : u.evictable g = true ↔ g.kind = .answer ∧ s.lnc.sending ≠ some g.entry := by
      rw [State.evictable_answer (hqueued.trans hq) (by rwa [hlnc]), hlnc]
    rw [hexec, State.queueFrame_status_first haddr rfl (hqueued.trans hq)]
    refine ⟨fun ⟨g, hg, hev⟩ => ?_, fun hnone => ?_⟩
    · obtain ⟨old, hmem, hold, holdest, henter⟩ := State.makeRoomAndEnter_of_eviction (s := u) (f := f) (g := g) (by rwa [hlnc])
        (by rwa [hlnc]) ((hevict g hg).2 hev)
      rw [hlnc] at hmem holdest
      refine ⟨old, hmem, (hevict old hmem).1 hold, fun x hx hev => holdest x hx ((hevict x hx).2 hev), ?_⟩
      rw [henter, ← hu]
      rfl
    · rw [State.makeRoomAndEnter_of_full (by rwa [hlnc]) fun g hg => ?_]
      rw [hlnc] at hg
      rw [← Bool.not_eq_true, hevict g hg]
      exact hnone g hg
  · obtain ⟨hsc, hso, ho, hg, hc, hcl, hd⟩ := s.exceptionOf_spec k
    refine ⟨hsc, hso, fun hr => ⟨fun g hg => ?_, fun hf => ⟨fun hstop => ?_, fun hstop hlock => ?_, fun hstop hlock => ?_⟩⟩, hg, hc, hcl, hd⟩
    · exact (ho hr).trans (congrArg some (HoldSet.exceptionCode_of_fault hg))
    · rw [ho hr, HoldSet.exceptionCode_of_stop hf hstop]
    · rw [ho hr, HoldSet.exceptionCode_without_stop hf hstop, if_pos hlock]
    · rw [ho hr, HoldSet.exceptionCode_without_stop hf hstop, if_neg (by rw [hlock]; exact Bool.false_ne_true)]

end Sys2Proof.Machine

/-! PROOFS. Releases of holds, and the repeat, reclose and closed timers (R118, R141, R153, R163, R165 to R167, R169). -/

namespace Sys2Proof.Machine

open Sys2Proof.Safety

/-! ### Releases (R141, R163) -/

/-- Releasing a hold on every fitted string releases it on each that has it. -/
theorem State.releaseAll_string (s : State) (x : Release) (k : StringNo) :
    let t := forStrings s.fittedStrings (fun u j => u.releaseHold j x) s
    (t.string k).iso = (s.string k).iso ∧
    (t.string k).holds = (if k.val < s.smu.strings ∧ (s.string k).holds.has x = true then (s.string k).holds.remove x else (s.string k).holds) ∧
    (t.string k).state = (if k.val < s.smu.strings ∧ (s.string k).holds.has x = true ∧ (s.string k).state = .opened ∧
      ((s.string k).holds.remove x).isEmpty = true then .closing else (s.string k).state) := by
  intro t
  obtain ⟨-, hout, hin⟩ := forStrings_at (fun t j => ((t.string j).iso, (t.string j).holds, (t.string j).state)) (fun _ => True)
    (fun t k => t.releaseHold k x) (fun t k j _ hj => by
      obtain ⟨hiso, hholds, hstate⟩ := t.releaseHold_string k j x
      rw [hiso, hholds, hstate, if_neg (by simp [hj]), if_neg (by simp [hj])]) (fun _ _ _ => trivial) s.fittedStrings s.nodup_fittedStrings s trivial k
  rw [State.mem_fittedStrings] at hout hin
  by_cases hk : k.val < s.smu.strings
  · obtain ⟨u, -, hget, hset⟩ := hin hk
    obtain ⟨hiso, hholds, hstate⟩ := u.releaseHold_string k k x
    rw [hiso, hholds, hstate] at hset
    simp only [Prod.mk.injEq] at hget hset
    obtain ⟨giso, gholds, gstate⟩ := hget
    obtain ⟨siso, sholds, sstate⟩ := hset
    rw [siso, sholds, sstate, giso, gholds, gstate]
    simp only [hk, true_and, and_self]
  · have hget := hout hk
    simp only [Prod.mk.injEq] at hget
    obtain ⟨giso, gholds, gstate⟩ := hget
    exact ⟨giso, by rw [gholds, if_neg fun h => hk h.1], by rw [gstate, if_neg fun h => hk h.1]⟩

section ReleaseFault
variable {s : State} {k : StringNo}

theorem State.releaseFault_none (h : (s.string k).holds.fault = none) : s.releaseFault k = s := by
  unfold State.releaseFault
  rw [h]

theorem State.releaseFault_some {f : FaultHold} (h : (s.string k).holds.fault = some f) :
    s.releaseFault k = (s.stopReclose k).releaseHold k (.fault f.cause) := by
  unfold State.releaseFault
  rw [h]

theorem HoldSet.has_fault {h : HoldSet} {f : FaultHold} (hf : h.fault = some f) : h.has (.fault f.cause) = true := by
  simp [HoldSet.has, hf]

/-- Everything releasing the fault hold of a string does to state and holds. -/
theorem State.releaseFault_string (s : State) (k j : StringNo) :
    ((s.releaseFault k).string j).iso = (s.string j).iso ∧
    ((s.releaseFault k).string j).holds = (if j = k ∧ (s.string k).holds.fault ≠ none
      then { (s.string k).holds with fault := none, later := none } else (s.string j).holds) ∧
    ((s.releaseFault k).string j).state = (if j = k ∧ (s.string k).holds.fault ≠ none ∧ (s.string k).state = .opened ∧
      ({ (s.string k).holds with fault := none, later := none } : HoldSet).isEmpty = true then .closing else (s.string j).state) := by
  cases hf : (s.string k).holds.fault with
  | none =>
    rw [State.releaseFault_none hf]
    simp only [ne_eq, not_true_eq_false, false_and, and_false, if_false, and_self]
  | some f =>
    rw [State.releaseFault_some hf]
    have h := (s.stopReclose k).releaseHold_string k j (.fault f.cause)
    have hhas : ((s.stopReclose k).string k).holds.has (.fault f.cause) = true := HoldSet.has_fault hf
    simp only [hhas, true_and, and_true] at h
    simp only [ne_eq, reduceCtorEq, not_false_eq_true, and_true, true_and]
    exact h

theorem State.releaseFault_rsl (s : State) (k : StringNo) : (s.releaseFault k).rsl =
    if (s.string k).holds.fault = none then s.rsl else (s.stopReclose k).rsl := by
  cases hf : (s.string k).holds.fault with
  | none => rw [State.releaseFault_none hf, if_pos rfl]
  | some f =>
    rw [State.releaseFault_some hf, if_neg (by simp)]
    exact (State.releaseHold_frame _ _ _).keeps .rsl (by simp)

/-- A fault released from an OPEN string that stays held keeps its memo in step. -/
theorem State.releaseFault_memo {f : FaultHold} (hf : (s.string k).holds.fault = some f) (ho : (s.string k).state = .opened)
    (he : ({ (s.string k).holds with fault := none, later := none } : HoldSet).isEmpty = false) :
    MemoInStep s (s.releaseFault k) s.now k ((s.releaseFault k).string k).holds := by
  rw [State.releaseFault_some hf]
  exact memoInStep_before (s' := s.stopReclose k) rfl rfl
    (State.releaseHold_memo (s.stopReclose k) k ho (.fault f.cause) (HoldSet.has_fault hf) he)

end ReleaseFault

theorem HoldSet.withoutFault_isEmpty (h : HoldSet) : ({ h with fault := none, later := none } : HoldSet).isEmpty = true ↔
    h.stop = none ∧ h.lockout = false ∧ h.service = false := by
  simp [HoldSet.isEmpty, and_assoc]

/-! ### RECLOSE_EXPIRY and CLOSED_TIMER_EXPIRY (R165, R167) -/

section Timers
variable {s : State} {k : StringNo}

/-- A string's reclose timer has expired: it stops, and the reclose is counted. -/
def State.countReclose (s : State) (k : StringNo) : State := s.setRelease k fun r => { r with recloseAt := none, reclose := min 3 (r.reclose + 1) }

theorem State.recloseExpired_at (h : expired s.now s.rsl.str[k].recloseAt = true) {f : FaultHold} (hf : (s.string k).holds.fault = some f)
    (hc : f.cause = .reverse ∨ f.cause = .overcurrent) : s.recloseExpired k = (s.countReclose k).releaseFault k := by
  have hreclosable : ((s.countReclose k).string k).holds.reclosable = true := by
    show (s.string k).holds.reclosable = true
    rw [HoldSet.reclosable, hf]
    rcases hc with hc | hc <;> simp only [hc] <;> rfl
  unfold State.recloseExpired
  rw [if_pos h]
  exact if_pos hreclosable

theorem State.closedExpired_at (h : expired s.now s.rsl.str[k].closedAt = true) :
    s.closedExpired k = s.setRelease k fun r => { r with closedAt := none, reclose := 0 } := if_pos h

/-- The release timers of the strings after a reclose. -/
theorem State.reclosed_release (hf : (s.string k).holds.fault ≠ none) (j : StringNo) :
    ((s.countReclose k).releaseFault k).rsl.str[j] =
      if j = k then { s.rsl.str[k] with recloseAt := none, reclose := min 3 (s.rsl.str[k].reclose + 1) } else s.rsl.str[j] := by
  have hkeep : ((s.countReclose k).stopReclose k).rsl.str[j] =
      if j = k then { s.rsl.str[k] with recloseAt := none, reclose := min 3 (s.rsl.str[k].reclose + 1) } else s.rsl.str[j] := by
    rw [State.stopReclose, State.setRelease_rsl, modifyAt_get, State.countReclose, State.setRelease_rsl]
    dsimp only
    rw [modifyAt_same, modifyAt_get]
    split <;> rfl
  rw [State.releaseFault_rsl, if_neg (by exact hf)]
  exact hkeep

/-! ### STOP_REPEAT_EXPIRY (R118, R169) -/

theorem State.announceStop_sending (ha : s.smu.address ≠ 0) : s.announceStop = s.setLnc { s.lnc with
    errors := if s.lnc.rx = .frame ∧ s.lnc.sending = none ∧ s.lnc.suspended = false then min 255 (s.lnc.errors + 1) else s.lnc.errors,
    sending := none, tx := [], rx := .sync, rxChars := [], ownRun := true, breakEndAt := some (s.now.plus 300) } := by
  have hsend : ¬s.listenOnly = true := by simp [State.listenOnly, ha]
  unfold State.announceStop
  rw [if_neg hsend]
  by_cases hcut : s.lnc.rx = .frame ∧ s.lnc.sending = none
  · rw [if_pos (by rw [hcut.1, hcut.2]; rfl), State.countError_eq]
    cases hsus : s.lnc.suspended <;> simp [hcut, Lnc.errorsCounted, hsus, State.setLnc, breakDriveMs]
  · have hnot : ¬(s.lnc.rx = .frame ∧ s.lnc.sending = none ∧ s.lnc.suspended = false) := fun h => hcut ⟨h.1, h.2.1⟩
    rw [if_neg (by rw [Bool.and_eq_true, beq_iff_eq, Option.isNone_iff_eq_none]; exact hcut), if_neg hnot]
    rfl

theorem State.startRepeat_sending (ha : s.smu.address ≠ 0) :
    s.startRepeat = { s with rsl := { s.rsl with repeatAt := some (s.now.plus 10000) } } := by
  have hsend : ¬s.listenOnly = true := by simp [State.listenOnly, ha]
  exact if_neg hsend

theorem State.stopRepeat_at (hk : s.rsl.stopKey.accepted = true) (h : expired s.now s.rsl.repeatAt = true) :
    s.stopRepeat = s.announceStop.startRepeat := if_pos (by rw [hk, h]; rfl)

end Timers

/-- Settles O60. -/
theorem repeatAndRecloseTimers : Obligations.RepeatAndRecloseTimers := by
  refine fun dt s hs => ⟨fun hk hd ha => ?_, fun k f hd hf hc => ?_, fun k hd => ?_⟩
  · rw [exec_stopRepeatExpiry hs, State.stopRepeat_at (s := s.elapse dt) hk hd, State.announceStop_sending (by exact ha),
      State.startRepeat_sending (by exact ha)]
    rfl
  · have hne : (s.string k).holds.fault ≠ none := by rw [hf]; simp
    rw [exec_recloseExpiry hs, State.recloseExpired_at (s := s.elapse dt) hd hf hc]
    have hmemo := State.releaseFault_memo (s := (s.elapse dt).countReclose k) (k := k) hf
    have hstring := ((s.elapse dt).countReclose k).releaseFault_string k
    have hrelease := State.reclosed_release (s := s.elapse dt) (k := k) hne
    have hframe : Frame [.swc, .smu, .rsl] (s.elapse dt) (((s.elapse dt).countReclose k).releaseFault k) :=
      ((State.setRelease_frame _ _ _).mono (by simp)).trans (State.releaseFault_frame _ _)
    have hmem : (((s.elapse dt).countReclose k).releaseFault k).smu.mem = s.smu.mem :=
      mem_of_withoutMemos (((s.elapse dt).countReclose k).releaseFault_withoutMemos k)
    generalize ((s.elapse dt).countReclose k).releaseFault k = t at *
    obtain ⟨-, hholds, hstate⟩ := hstring k
    rw [if_pos ⟨rfl, by exact hne⟩] at hholds
    have hempty := (s.string k).holds.withoutFault_isEmpty
    have hheld (h : (s.string k).holds.stop ≠ none ∨ (s.string k).holds.lockout = true ∨ (s.string k).holds.service = true) :
        ({ (s.string k).holds with fault := none, later := none } : HoldSet).isEmpty = false := by
      rw [← Bool.not_eq_true, hempty]
      rintro ⟨hstop, hlock, hserv⟩
      rw [hstop, hlock, hserv] at h
      simp at h
    refine ⟨t.settle, rfl, ?_, ?_, hholds, fun ho hstop hlock hserv => ?_, fun ho hother => ⟨?_, ?_⟩, fun j hj => ?_, hframe.keeps .ssu (by simp),
      hframe.keeps .eve (by simp), hframe.keeps .sel (by simp), hframe.keeps .prb (by simp), hframe.keeps .lnc (by simp),
      hframe.keeps .pvw (by simp), hmem⟩
    · exact (congrArg ReleaseString.recloseAt (hrelease k)).trans (by rw [if_pos rfl])
    · exact (congrArg ReleaseString.reclose (hrelease k)).trans (by rw [if_pos rfl]; rfl)
    · exact hstate.trans (if_pos ⟨rfl, by exact hne, ho, hempty.2 ⟨hstop, hlock, hserv⟩⟩)
    · exact hstate.trans ((if_neg fun h => absurd (h.2.2.2.symm.trans (hheld hother)) (by simp)).trans ho)
    · exact memoInStep_before (s' := (s.elapse dt).countReclose k) rfl rfl (memoInStep_after (t := t) rfl rfl (hmemo ho (hheld hother)))
    · obtain ⟨-, jholds, jstate⟩ := hstring j
      refine ⟨jstate.trans (if_neg fun h => hj h.1), jholds.trans (if_neg fun h => hj h.1), (hrelease j).trans (if_neg hj)⟩
  · rw [exec_closedTimerExpiry hs, State.closedExpired_at (s := s.elapse dt) hd]
    rfl

end Sys2Proof.Machine

/-! PROOFS. Attempts: their beginning, their ends by the bits read back, and the report of each frame's outcome to its owner (R34, R49, R62, R64,
R70 to R73, R96 to R99, R105 to R110, R116). -/

namespace Sys2Proof.Machine

open Sys2Proof.Safety

/-! ### Attempts begin (R98, R106, R116) -/

section Beginning
variable {s : State} {f : QueuedFrame} {q : List QueuedFrame}

/-- The LNC once an attempt of a frame has begun. -/
def State.attemptOf (s : State) (f : QueuedFrame) : Lnc :=
  { s.lnc with sending := some f.entry, tx := s.sentLevels f, rx := .frame, rxChars := [] }

theorem State.offered_front (hl : s.lnc.line ≠ .stuck) (hq : s.lnc.queue = f :: q)
    (h : s.smu.phase ≠ .listening ∨ f.kind = .arrayStop ∨ f.kind = .arrayResume) : s.offered = some f := by
  unfold State.offered
  rw [if_neg (by simpa using hl), hq]
  dsimp only
  by_cases hp : s.smu.phase = .listening
  · have hstop := h.resolve_left (not_not.2 hp)
    rw [if_pos (by rw [hp]; rfl), if_pos (by rcases hstop with e | e <;> rw [e] <;> rfl)]
  · rw [if_neg (by simpa using hp)]

theorem State.offered_none (h : s.lnc.queue = [] ∨
    ∃ f q, s.lnc.queue = f :: q ∧ s.smu.phase = .listening ∧ f.kind ≠ .arrayStop ∧ f.kind ≠ .arrayResume) : s.offered = none := by
  unfold State.offered
  split
  · rfl
  · rcases h with hq | ⟨f, q, hq, hp, hstop, hresume⟩
    · rw [hq]
    · rw [hq]
      dsimp only
      rw [if_pos (by rw [hp]; rfl), if_neg (by simp [hstop, hresume])]

theorem State.startAttempt_of_offered (hs : s.lnc.sending = none) (h : s.offered = some f) : s.startAttempt = s.setLnc (s.attemptOf f) := by
  unfold State.startAttempt
  rw [hs, h]
  rfl

theorem State.startAttempt_of_none (hs : s.lnc.sending = none) (h : s.offered = none) : s.startAttempt = s := by
  unfold State.startAttempt
  rw [hs, h]

/-- The LNC once the line has been recessive for the idle gap. -/
def Lnc.idled (l : Lnc) : Lnc := { l with rx := if l.rx = .sync then .ready else l.rx, ownRun := false, dominantRun := 0 }

theorem State.idleGap_free (hb : s.lnc.breakEndAt = none) (hl : s.lnc.line ≠ .stuck) : s.idleGap = (s.setLnc s.lnc.idled).startAttempt := by
  unfold State.idleGap Lnc.idled
  rw [if_neg (by simp [hb, hl])]
  simp only [beq_iff_eq]

theorem State.idleGap_barred (h : s.lnc.breakEndAt ≠ none ∨ s.lnc.line = .stuck) : s.idleGap = s := by
  unfold State.idleGap
  rw [if_pos]
  rw [Bool.or_eq_true, Option.isSome_iff_ne_none, beq_iff_eq]
  exact h

/-- The LNC of a line freed from STUCK. -/
def State.freedLnc (s : State) : Lnc :=
  { s.lnc with line := if s.smu.phase = .listening then .listen else .down, rx := .ready, rxChars := [], dominantRun := 0, ownRun := false }

theorem State.lineFreed_stuck (hl : s.lnc.line = .stuck) : s.lineFreed = (s.setLnc s.freedLnc).startAttempt := by
  unfold State.lineFreed State.freedLnc
  rw [if_pos (by rw [hl]; rfl)]
  simp only [beq_iff_eq]

theorem State.lineFreed_elsewhere (hl : s.lnc.line ≠ .stuck) : s.lineFreed = s := if_neg (by simpa using hl)

end Beginning

/-- Settles O48. -/
theorem idleLineBeginsAttempts : Obligations.IdleLineBeginsAttempts := by
  refine fun dt s hs hsend => ⟨fun hb hl => ⟨fun f q hq h => ?_, fun h => ?_⟩, fun h => ?_, fun hl => ?_, fun hl => ?_⟩
  · have hoffered : ((s.elapse dt).setLnc (s.elapse dt).lnc.idled).offered = some f := by
      refine State.offered_front (q := q) (by exact hl) (by exact hq) (h.imp_left fun hp => ?_)
      show s.smu.phase ≠ .listening
      rw [hp]
      decide
    rw [exec_idleGap hs, State.idleGap_free (s := s.elapse dt) hb hl, State.startAttempt_of_offered (by exact hsend) hoffered]
    rfl
  · rw [exec_idleGap hs, State.idleGap_free (s := s.elapse dt) hb hl, State.startAttempt_of_none (by exact hsend) (State.offered_none (by exact h))]
    rfl
  · rw [exec_idleGap hs, State.idleGap_barred (s := s.elapse dt) h]
  · have hfree : ((s.elapse dt).setLnc (s.elapse dt).freedLnc).lnc.line ≠ .stuck := by
      show (if s.smu.phase = .listening then LineState.listen else LineState.down) ≠ .stuck
      split <;> decide
    refine ⟨fun hq => ?_, fun f q hq hp => ?_⟩
    · rw [exec_lineFreed hs, State.lineFreed_stuck (s := s.elapse dt) hl,
        State.startAttempt_of_none (by exact hsend) (State.offered_none (.inl (by exact hq)))]
      rfl
    · have hrunning : s.smu.phase ≠ .listening := by rw [hp]; decide
      rw [exec_lineFreed hs, State.lineFreed_stuck (s := s.elapse dt) hl,
        State.startAttempt_of_offered (by exact hsend) (State.offered_front hfree (by exact hq) (.inl (by exact hrunning)))]
      rfl
  · rw [exec_lineFreed hs, State.lineFreed_elsewhere (s := s.elapse dt) hl]

end Sys2Proof.Machine

/-! PROOFS. How attempts end and what their owners make of it (R34, R49, R62, R64, R70 to R73, R105, R107 to R110). -/

namespace Sys2Proof.Machine

open Sys2Proof.Safety

/-! ### The report of a claim (R34) -/

section Claim
variable {s : State} {k : IncidentKind} {i : Incident} {c : ClaimState}

theorem State.claimReport_none (h : s.incident k = none) : s.claimReport k c = s := by
  unfold State.claimReport
  rw [h]

theorem State.claimReport_some (h : s.incident k = some i) :
    s.claimReport k c = s.setIncident k (some { i with claim := if i.claim = .queued then c else i.claim }) := by
  unfold State.claimReport
  rw [h]
  dsimp only
  by_cases hq : i.claim = .queued
  · rw [if_pos (by rw [hq]; rfl), if_pos hq]
  · rw [if_neg (by simpa using hq), if_neg hq]
    exact (State.setIncident_self h).symm

theorem State.claimReport_queued (h : s.incident k = some i) (hq : i.claim = .queued) :
    s.claimReport k c = s.setIncident k (some { i with claim := c }) := by
  rw [State.claimReport_some h, if_pos hq]

end Claim

/-! ### The report of an outcome by the kind of the frame (R109) -/

section Report
variable {s : State} {f : QueuedFrame} {o : FrameOutcome}

theorem State.reportOutcome_arcClaim (h : f.kind = .arcClaim) : s.reportOutcome f o = s.claimReport .arc o.claim := by
  unfold State.reportOutcome
  rw [h]

theorem State.reportOutcome_locate (h : f.kind = .locate) : s.reportOutcome f o = s.claimReport .ground o.claim := by
  unfold State.reportOutcome
  rw [h]

theorem State.reportOutcome_unowned (h : f.kind = .arrayStop ∨ f.kind = .arrayResume ∨ f.kind = .isolated ∨ f.kind = .answer) :
    s.reportOutcome f o = s := by
  unfold State.reportOutcome
  rcases h with h | h | h | h <;> rw [h]

theorem State.reportOutcome_status_left (h : f.kind = .status) (ho : o ≠ .completed) : s.reportOutcome f o = s := by
  unfold State.reportOutcome
  rw [h]
  cases o with
  | completed => exact absurd rfl ho
  | dropped => rfl
  | withdrawn => rfl
  | removedByBreak => rfl

theorem State.reportOutcome_status_completed (h : f.kind = .status) : s.reportOutcome f .completed =
    { s with sel := { s.sel with concurrent := if f.flagNote = true then false else s.sel.concurrent } } := by
  unfold State.reportOutcome State.statusCompleted
  rw [h]
  dsimp only
  split <;> rfl

theorem State.reportOutcome_probeOpen_withdrawn (h : f.kind = .probeOpen) : s.reportOutcome f .withdrawn =
    if s.prb.role = .pending then s.setPrb { s.prb with role := .none, byDue := false } else s := by
  unfold State.reportOutcome State.probeOpenWithdrawn
  rw [h]
  simp only [beq_iff_eq]

/-- A PROBE-OPEN that is dropped or removed by a break leaves its due trigger pending again (R62). -/
theorem State.reportOutcome_probeOpen_lost (h : f.kind = .probeOpen) (ho : o = .dropped ∨ o = .removedByBreak) (hr : s.prb.role = .pending) :
    s.reportOutcome f o = s.setPrb (if s.prb.byDue = true
      then { s.prb with role := .none, byDue := false, duePending := true, retryAt := some (s.now.plus 1000) }
      else { s.prb with role := .none }) := by
  have hlost : s.probeOpenLost = s.setPrb (if s.prb.byDue = true
      then { s.prb with role := .none, byDue := false, duePending := true, retryAt := some (s.now.plus 1000) }
      else { s.prb with role := .none }) := by
    unfold State.probeOpenLost
    rw [if_pos (by rw [hr]; rfl)]
    split <;> rfl
  unfold State.reportOutcome
  rw [h]
  rcases ho with rfl | rfl <;> exact hlost

theorem State.reportOutcome_probeOpen_completed (h : f.kind = .probeOpen) : s.reportOutcome f .completed = s.injectorStart f := by
  unfold State.reportOutcome
  rw [h]

theorem State.reportOutcome_probeClose_lost (h : f.kind = .probeClose) (ho : o ≠ .completed) :
    s.reportOutcome f o = if s.prb.role = .injecting then (if s.prb.window = none then s else s.setPrb s.prbAfterLoss) else s := by
  have hlost : s.probeCloseLost = if s.prb.role = .injecting then (if s.prb.window = none then s else s.setPrb s.prbAfterLoss) else s := by
    unfold State.probeCloseLost
    simp only [beq_iff_eq]
    congr 1
    cases hw : s.prb.window with
    | none => rw [State.windowLost, hw, if_pos rfl]
    | some w => rw [State.windowLost_of_window hw, if_neg (by simp)]
  unfold State.reportOutcome
  rw [h]
  cases o with
  | completed => exact absurd rfl ho
  | dropped => exact hlost
  | withdrawn => exact hlost
  | removedByBreak => exact hlost

theorem State.reportOutcome_probeClose_completed (h : f.kind = .probeClose) : s.reportOutcome f .completed = s.injectorEnd := by
  unfold State.reportOutcome
  rw [h]

end Report

/-! ### The window an own PROBE-OPEN begins (R64) -/

section Injector
variable {s : State} {f : QueuedFrame}

/-- The window of the injector as its own PROBE-OPEN begins it. -/
def State.ownWindow (s : State) (f : QueuedFrame) : Window :=
  { newWindow { injector := s.smu.address, sequence := (charAt f.payload 0).toNat } ((charAt f.payload 1).toNat * 100)
      (charAt f.payload 2).toNat ((charAt f.payload 3).toNat * 10) s.now s.balanceCapture with phase := some .reference }

/-- The PRB as its own PROBE-OPEN makes it the injector. -/
def State.injectorPrb (s : State) (f : QueuedFrame) : Prb :=
  { s.prb with role := .injecting, window := some (s.ownWindow f), output := .referenceUp, seq := (s.prb.seq + 1) % 256, byDue := false,
               alarmCount := 0 }

theorem State.injectorStart_eq (s : State) (f : QueuedFrame) : s.injectorStart f =
    if f.withdrawAsked = true then
      (if s.lnc.line = .stuck then (s.setPrb (s.injectorPrb f)).probeStuck else (s.setPrb (s.injectorPrb f)).probeAbort)
    else s.setPrb (s.injectorPrb f) := by
  unfold State.injectorStart
  simp only [beq_iff_eq]
  rfl

theorem State.balanceCapture_eq (s : State) :
    s.balanceCapture = if s.prb.balances = [] then 500 else s.prb.balances.sum / s.prb.balances.length := by
  unfold State.balanceCapture
  rw [meanNat_eq_sum]
  simp only [List.isEmpty_iff]

/-- The PRB after a window end seen with its PROBE-CLOSE (R72). -/
def State.prbSeen (s : State) (ok : Bool) (riso : Nat) : Prb :=
  let heard : Prb := { s.prb with lastEnd := some s.now, lastRiso := if ok = true then riso else s.prb.lastRiso }
  if s.smu.address = 0 then heard
  else { heard with alarmArmed := true, staggerAt := none, alarmCount := 0, duePending := false, retryAt := none,
                    dueAt := some (s.now.plus (s.smu.settings.probePeriod * 60000 + s.smu.address * 10000)) }

theorem State.windowEndSeen_close (s : State) (ok : Bool) (riso : Nat) : s.windowEndSeen (some (ok, riso)) = s.setPrb (s.prbSeen ok riso) := by
  unfold State.windowEndSeen State.prbSeen State.listenOnly
  by_cases ha : s.smu.address = 0 <;> cases ok <;> simp [ha, State.setPrb, State.dueMs]

theorem State.considerReference_eq (s : State) (w : Window) (ok : Bool) (riso : Nat) : s.considerReference w ok riso =
    s.setPrb { s.prb with
      balRef := if ok = true ∧ w.disturbed = false ∧ s.smu.settings.gfTrip ≤ riso then w.capture else s.prb.balRef } := by
  unfold State.considerReference
  by_cases h : ok = true ∧ w.disturbed = false ∧ s.smu.settings.gfTrip ≤ riso
  · obtain ⟨hok, hd, hg⟩ := h
    rw [if_pos (by rw [hok, hd, decide_eq_true hg]; rfl), if_pos ⟨hok, hd, hg⟩]
  · rw [if_neg h, if_neg (by
      simp only [Bool.and_eq_true, Bool.not_eq_true', decide_eq_true_eq, and_assoc]
      exact h)]
    rfl

/-- The window report of an injector's window at its end. -/
def State.ownReport (s : State) (w : Window) : WindowReport where
  tag := w.tag
  status := w.status
  disturbed := w.disturbed
  result := if w.status = some .ok ∧ w.disturbed = false then s.bestString w.halves else none
  riso := w.riso

/-- The PRB after the own PROBE-CLOSE of a window has completed (R71 to R73). -/
def State.injectorEnded (s : State) (w : Window) : Prb :=
  { s.prbSeen (w.status == some .ok) w.riso with
    role := .none, window := none, output := .released,
    fault := if w.status = some .fault then true else s.prb.fault,
    balRef := if (w.status = some .ok ∧ w.disturbed = false) ∧ s.smu.settings.gfTrip ≤ w.riso then w.capture else s.prb.balRef }

theorem State.prbSeen_rest (s : State) (ok : Bool) (riso : Nat) : (s.prbSeen ok riso).fault = s.prb.fault ∧
    (s.prbSeen ok riso).balRef = s.prb.balRef := by
  unfold State.prbSeen
  dsimp only
  split <;> exact ⟨rfl, rfl⟩

theorem State.injectorEnd_eq {w : Window} (hr : s.prb.role = .injecting) (hw : s.prb.window = some w) :
    s.injectorEnd = (s.windowReport (s.ownReport w)).setPrb (s.injectorEnded w) := by
  have hreport : ({ tag := w.tag, status := w.status, disturbed := w.disturbed,
                    result := if w.status == some .ok && !w.disturbed then s.bestString w.halves else none,
                    riso := w.riso } : WindowReport) = s.ownReport w := by
    have hgood : (w.status == some .ok && !w.disturbed) = decide (w.status = some .ok ∧ w.disturbed = false) := by
      rw [Bool.eq_iff_iff]
      simp
    rw [hgood]
    simp only [decide_eq_true_eq]
    rfl
  unfold State.injectorEnd
  rw [hr, hw]
  dsimp only
  rw [hreport]
  have hframe := s.windowReport_frame (s.ownReport w)
  have hprb : (s.windowReport (s.ownReport w)).prb = s.prb := hframe.keeps .prb (by simp)
  have hsmu : (s.windowReport (s.ownReport w)).smu = s.smu := hframe.keeps .smu (by simp)
  have hnow : (s.windowReport (s.ownReport w)).now = s.now := hframe.2.1
  generalize s.windowReport (s.ownReport w) = u at hprb hsmu hnow ⊢
  have hended : s.injectorEnded w = u.injectorEnded w := by
    simp only [State.injectorEnded, State.prbSeen, hprb, hsmu, hnow]
  have hrest := u.prbSeen_rest
  rw [hended, State.windowEndSeen_close]
  by_cases hf : w.status = some .fault
  · simp [hf, State.considerReference_eq, State.discardWindow, State.injectorEnded, State.setPrb, hrest]
  · simp [hf, State.considerReference_eq, State.discardWindow, State.injectorEnded, State.setPrb, hrest, and_assoc]

end Injector

end Sys2Proof.Machine

/-! PROOFS. The ends of attempts: ARBITRATION_LOSS, BIT_ERROR and TRANSMIT_COMPLETED (R105, R107 to R110, R120). -/

namespace Sys2Proof.Machine

open Sys2Proof.Safety

/-! ### The LNC at the end of an attempt -/

/-- The attempt in progress has lost arbitration. -/
def Lnc.attemptLost (l : Lnc) : Lnc := { l with sending := none, tx := [] }

/-- The attempt in progress has failed by a bit error, which is counted. -/
def Lnc.attemptFailed (l : Lnc) : Lnc := { l with errors := l.errorsCounted, sending := none, tx := [], rx := .sync, rxChars := [] }

/-- The attempt in progress has completed. -/
def Lnc.attemptCompleted (l : Lnc) : Lnc := { l with sending := none, tx := [], rx := .ready, rxChars := [], rxDone := none }

/-- The queue without the frame of an entry number. -/
def Lnc.without (l : Lnc) (e : Nat) : Lnc := { l with queue := l.queue.filter fun g => g.entry != e }

/-- One more failed attempt of the frame of an entry number. -/
def Lnc.failureCounted (l : Lnc) (e : Nat) : Lnc :=
  { l with queue := l.queue.map fun g => if g.entry = e then { g with failed := g.failed + 1 } else g }

theorem countFailure_eq (e : Nat) (q : List QueuedFrame) :
    countFailure e q = q.map fun g => if g.entry = e then { g with failed := g.failed + 1 } else g := by
  unfold countFailure
  simp only [beq_iff_eq]

/-- A frame taken out takes its count of failed attempts with it. -/
theorem Lnc.without_failureCounted (l : Lnc) (e : Nat) : (l.failureCounted e).without e = l.without e := by
  have hqueue : (l.queue.map fun g => if g.entry = e then { g with failed := g.failed + 1 } else g).filter (fun g => g.entry != e) =
      l.queue.filter fun g => g.entry != e := by
    induction l.queue with
    | nil => rfl
    | cons g q ih =>
      rw [List.map_cons]
      by_cases hg : g.entry = e
      · rw [if_pos hg, List.filter_cons_of_neg (by simp [hg]), List.filter_cons_of_neg (by simp [hg]), ih]
      · rw [if_neg hg, List.filter_cons_of_pos (by simpa using hg), List.filter_cons_of_pos (by simpa using hg), ih]
  exact congrArg (fun q => { l with queue := q }) hqueue

/-! ### What the commands do (R107 to R109) -/

section Ends
variable {s : State} {read : List Level} {f p : QueuedFrame}

theorem State.arbitrationLoss_rests (h : ¬LosesArbitration s.lnc.tx read ∨ s.sendingFrame = none) : s.arbitrationLoss read = s := by
  unfold State.arbitrationLoss State.loseAttempt
  split
  · next hlost => rw [h.resolve_left (not_not.2 ((s.verdict_loss read).1 hlost))]
  · rfl

theorem State.bitError_rests (h : ¬ReadsBitError s.lnc.tx read ∨ s.sendingFrame = none) (b : Bool) : s.bitError read b = s := by
  unfold State.bitError State.failAttempt
  split
  · next hfailed => rw [h.resolve_left (not_not.2 ((s.verdict_bitError read).1 hfailed))]
  · rfl

theorem State.transmitCompleted_rests (h : ¬ReadAsSent s.lnc.tx read ∨ s.sendingFrame = none) : s.transmitCompleted read = s := by
  unfold State.transmitCompleted State.completeAttempt
  split
  · next hsent => rw [h.resolve_left (not_not.2 ((s.verdict_sent read).1 hsent))]
  · rfl

section Sending
variable (hf : s.sendingFrame = some f)
include hf

theorem State.arbitrationLoss_ends (h : LosesArbitration s.lnc.tx read) :
    s.arbitrationLoss read = (s.setLnc s.lnc.attemptLost).attemptEnded f := by
  unfold State.arbitrationLoss State.loseAttempt
  rw [if_pos ((s.verdict_loss read).2 h), hf]
  rfl

theorem State.bitError_eq (h : ReadsBitError s.lnc.tx read) (b : Bool) : s.bitError read b =
    if b = true then s.setLnc s.lnc.attemptFailed
    else if 2 ≤ f.failed then ((s.setLnc (s.lnc.attemptFailed.without f.entry)).reportOutcome f .dropped).afterLeaving f
    else (s.setLnc (s.lnc.attemptFailed.failureCounted f.entry)).attemptEnded f := by
  have hthree : (3 ≤ f.failed + 1) = (2 ≤ f.failed) := by
    rw [eq_iff_iff]
    omega
  unfold State.bitError State.failAttempt
  rw [if_pos ((s.verdict_bitError read).2 h), hf]
  dsimp only
  simp only [State.countError_eq, countFailure_eq, hthree]
  rfl

theorem State.bitError_ofBreak (h : ReadsBitError s.lnc.tx read) : s.bitError read true = s.setLnc s.lnc.attemptFailed := by
  rw [State.bitError_eq hf h, if_pos rfl]

theorem State.bitError_again (h : ReadsBitError s.lnc.tx read) (hn : f.failed < 2) :
    s.bitError read false = (s.setLnc (s.lnc.attemptFailed.failureCounted f.entry)).attemptEnded f := by
  rw [State.bitError_eq hf h, if_neg (by simp), if_neg (by omega)]

theorem State.bitError_drops (h : ReadsBitError s.lnc.tx read) (hn : 2 ≤ f.failed) : s.bitError read false =
    ((s.setLnc (s.lnc.attemptFailed.without f.entry)).reportOutcome f .dropped).afterLeaving f := by
  rw [State.bitError_eq hf h, if_neg (by simp), if_pos hn]

theorem State.transmitCompleted_ends (h : ReadAsSent s.lnc.tx read) : s.transmitCompleted read =
    ((s.setLnc (s.lnc.attemptCompleted.without f.entry)).reportOutcome f .completed).afterLeaving f := by
  unfold State.transmitCompleted State.completeAttempt
  rw [if_pos ((s.verdict_sent read).2 h), hf]
  rfl

end Sending

/-! ### After the end: a withdrawal asked, a pending STATUS (R105, R110) -/

theorem State.attemptEnded_withdrawn (hw : f.withdrawAsked = true) :
    s.attemptEnded f = (s.setLnc (s.lnc.without f.entry)).reportOutcome f .withdrawn := by
  unfold State.attemptEnded
  rw [if_pos hw]
  rfl

theorem State.attemptEnded_again (hw : f.withdrawAsked = false) (hp : s.lnc.pendingStatus = none) : s.attemptEnded f = s := by
  unfold State.attemptEnded
  rw [if_neg (by rw [hw]; simp), hp]
  exact ite_self _

/-- A pending STATUS in the place of the STATUS of an entry number (R105). -/
def Lnc.replaced (l : Lnc) (e : Nat) (p : QueuedFrame) : Lnc :=
  { l with pendingStatus := none, queue := insertFrame { p with entry := l.nextEntry } (l.queue.filter fun g => g.entry != e),
           nextEntry := l.nextEntry + 1 }

theorem State.attemptEnded_pending (hw : f.withdrawAsked = false) (hk : f.kind = .status) (hp : s.lnc.pendingStatus = some p) :
    s.attemptEnded f = s.setLnc (s.lnc.replaced f.entry p) := by
  unfold State.attemptEnded
  rw [if_neg (by rw [hw]; simp), if_pos (by rw [hk]; rfl), hp]
  rfl

theorem State.afterLeaving_unpending (hp : s.lnc.pendingStatus = none) : s.afterLeaving f = s := by
  unfold State.afterLeaving State.takePending
  rw [hp]
  exact ite_self _

theorem State.afterLeaving_other (hk : f.kind ≠ .status) : s.afterLeaving f = s := if_neg (by simpa using hk)

/-- The LNC once a pending STATUS has entered as a new frame. -/
def Lnc.pendingEntered (l : Lnc) (p : QueuedFrame) : Lnc :=
  { l with pendingStatus := none, queue := insertFrame { p with entry := l.nextEntry } l.queue, nextEntry := l.nextEntry + 1 }

theorem State.afterLeaving_pending (hk : f.kind = .status) (hp : s.lnc.pendingStatus = some p) (hroom : s.lnc.queue.length < 16) :
    s.afterLeaving f = s.setLnc (s.lnc.pendingEntered p) := by
  unfold State.afterLeaving State.takePending
  rw [if_pos (by rw [hk]; rfl), hp]
  dsimp only
  rw [State.makeRoomAndEnter_of_room (by exact hroom)]
  rfl

end Ends

/-! ### A withdrawal granted at the end of an attempt (R35, R62, R70, R110) -/

section Withdrawn
variable {u : State} {f : QueuedFrame}

theorem State.withdrawn_arcClaim {i : Incident} (hk : f.kind = .arcClaim) (hi : u.sel.arc = some i) : u.reportOutcome f .withdrawn =
    u.setArc (some { i with claim := if i.claim = .queued then .withdrawn else i.claim }) := by
  rw [State.reportOutcome_arcClaim hk, State.claimReport_some (show u.incident .arc = some i from hi)]
  rfl

theorem State.withdrawn_locate {i : Incident} (hk : f.kind = .locate) (hi : u.sel.ground = some i) : u.reportOutcome f .withdrawn =
    u.setGround (some { i with claim := if i.claim = .queued then .withdrawn else i.claim }) := by
  rw [State.reportOutcome_locate hk, State.claimReport_some (show u.incident .ground = some i from hi)]
  rfl

theorem State.withdrawn_probeOpen (hk : f.kind = .probeOpen) (hr : u.prb.role = .pending) :
    u.reportOutcome f .withdrawn = u.setPrb { u.prb with role := .none, byDue := false } := by
  rw [State.reportOutcome_probeOpen_withdrawn hk, if_pos hr]

theorem State.lost_probeClose {o : FrameOutcome} (ho : o ≠ .completed) (hk : f.kind = .probeClose) (hr : u.prb.role = .injecting)
    (hw : u.prb.window ≠ none) : u.reportOutcome f o = u.setPrb u.prbAfterLoss := by
  rw [State.reportOutcome_probeClose_lost hk ho, if_pos hr, if_neg hw]

theorem State.withdrawn_unowned (h : (f.kind = .arcClaim ∧ u.sel.arc = none) ∨ (f.kind = .locate ∧ u.sel.ground = none) ∨
    (f.kind = .probeOpen ∧ u.prb.role ≠ .pending) ∨ (f.kind = .probeClose ∧ u.prb.role ≠ .injecting)) : u.reportOutcome f .withdrawn = u := by
  rcases h with ⟨hk, h⟩ | ⟨hk, h⟩ | ⟨hk, h⟩ | ⟨hk, h⟩
  · rw [State.reportOutcome_arcClaim hk, State.claimReport_none (k := .arc) (by exact h)]
  · rw [State.reportOutcome_locate hk, State.claimReport_none (k := .ground) (by exact h)]
  · rw [State.reportOutcome_probeOpen_withdrawn hk, if_neg h]
  · rw [State.reportOutcome_probeClose_lost hk (by simp), if_neg h]

end Withdrawn

/-- The claim of an incident follows the end of its frame by completion or drop. -/
theorem State.reported_claim {u : State} {f : QueuedFrame} {o : FrameOutcome} {i : Incident} (hq : i.claim = .queued) :
    (f.kind = .arcClaim → u.sel.arc = some i → u.reportOutcome f o = u.setArc (some { i with claim := o.claim })) ∧
    (f.kind = .locate → u.sel.ground = some i → u.reportOutcome f o = u.setGround (some { i with claim := o.claim })) := by
  refine ⟨fun hk hi => ?_, fun hk hi => ?_⟩
  · rw [State.reportOutcome_arcClaim hk, State.claimReport_queued (show u.incident .arc = some i from hi) hq]
    rfl
  · rw [State.reportOutcome_locate hk, State.claimReport_queued (show u.incident .ground = some i from hi) hq]
    rfl

end Sys2Proof.Machine

/-! PROOFS. How attempts end, as the owners of the frames are told. -/

namespace Sys2Proof.Machine

open Sys2Proof.Safety

/-- A pending STATUS whose attempt failed, whether its frame is kept or dropped. -/
theorem State.bitError_pending {s : State} {read : List Level} {f p : QueuedFrame} (hf : s.sendingFrame = some f)
    (hp : s.lnc.pendingStatus = some p) (hk : f.kind = .status) (hw : f.withdrawAsked = false) (h : ReadsBitError s.lnc.tx read)
    (hroom : f.failed < 2 ∨ (s.lnc.queue.filter fun g => g.entry != f.entry).length < 16) :
    s.bitError read false = s.setLnc (s.lnc.attemptFailed.replaced f.entry p) := by
  by_cases hn : f.failed < 2
  · have hleft := congrArg Lnc.queue (s.lnc.attemptFailed.without_failureCounted f.entry)
    rw [State.bitError_again hf h hn, State.attemptEnded_pending hw hk (by exact hp)]
    exact congrArg (fun q => s.setLnc { s.lnc.attemptFailed.replaced f.entry p with queue := insertFrame { p with entry := s.lnc.nextEntry } q })
      hleft
  · rw [State.bitError_drops hf h (by omega), State.reportOutcome_status_left hk (by simp),
      State.afterLeaving_pending hk (by exact hp) (by exact hroom.resolve_left hn)]
    rfl

/-- An attempt that failed for the first or second time, its withdrawal asked, ends with the frame taken out and reported. -/
theorem State.bitError_withdrawn {s : State} {read : List Level} {f : QueuedFrame} (hf : s.sendingFrame = some f)
    (hw : f.withdrawAsked = true) (h : ReadsBitError s.lnc.tx read) (hn : f.failed < 2) :
    s.bitError read false = (s.setLnc (s.lnc.attemptFailed.without f.entry)).reportOutcome f .withdrawn := by
  rw [State.bitError_again hf h hn, State.attemptEnded_withdrawn hw, State.setLnc_lnc, Lnc.without_failureCounted]
  rfl

/-- The claim of the own PROBE-OPEN's window at its end, aborted. -/
theorem State.injectorStart_aborted {u : State} {f : QueuedFrame} (hw : f.withdrawAsked = true) (ha : u.smu.address ≠ 0)
    (hl : u.lnc.line ≠ .stuck) (hroom : u.lnc.queue.length < 16) : u.injectorStart f =
      ((u.setPrb { u.injectorPrb f with
          output := .released
          window := some { u.ownWindow f with status := some .aborted, riso := 65535, phase := some .closing } }).enterFrame
        (newFrame .probeClose 0 [BitVec.ofNat 8 (u.ownWindow f).tag.sequence, 3, 0, 255, 255])) := by
  rw [State.injectorStart_eq, if_pos hw, if_neg hl, State.probeAbort_of_injecting rfl,
    State.abortInjection_of_open (w := u.ownWindow f) rfl rfl (by simp [State.ownWindow]), State.closeInjection_of_room _ _ _ (by exact ha) (by exact hroom),
    probeCloseFrame_closed, unsigned16_rangeEnd]
  rfl

/-- The window of an own PROBE-OPEN is lost at once on a STUCK line. -/
theorem State.injectorStart_lost {u : State} {f : QueuedFrame} (hw : f.withdrawAsked = true) (ha : u.smu.address ≠ 0)
    (hl : u.lnc.line = .stuck) : u.injectorStart f =
      u.setPrb { u.prbAfterLoss with seq := (u.prb.seq + 1) % 256, byDue := false } := by
  rw [State.injectorStart_eq, if_pos hw, if_pos hl, State.probeStuck_of_open (w := u.ownWindow f) rfl rfl (by simp [State.ownWindow])]
  have hlost (v : State) (hv : v.smu.address ≠ 0) : v.prbAfterLoss = { v.prb with
      role := .none, window := none, output := .released, lastEnd := some v.now, alarmArmed := true, staggerAt := none, alarmCount := 0 } :=
    if_neg hv
  rw [hlost _ (by exact ha), hlost u ha]
  rfl

theorem State.injectorEnded_eq (s : State) (w : Window) : s.injectorEnded w = { s.prbAfterLoss with
    dueAt := if s.smu.address = 0 then s.prb.dueAt else some (s.now.plus (s.smu.settings.probePeriod * 60000 + s.smu.address * 10000)),
    duePending := if s.smu.address = 0 then s.prb.duePending else false,
    retryAt := if s.smu.address = 0 then s.prb.retryAt else none,
    lastRiso := if w.status = some .ok then w.riso else s.prb.lastRiso,
    fault := if w.status = some .fault then true else s.prb.fault,
    balRef := if (w.status = some .ok ∧ w.disturbed = false) ∧ s.smu.settings.gfTrip ≤ w.riso then w.capture else s.prb.balRef } := by
  unfold State.injectorEnded State.prbSeen State.prbAfterLoss
  by_cases ha : s.smu.address = 0 <;> simp only [ha, if_true, if_false, beq_iff_eq]

/-- Settles O49. -/
theorem attemptsEndAsReported : Obligations.AttemptsEndAsReported := by
  intro dt read s hs lost failed sent loss error completed
  have hloss : loss = .next ((s.elapse dt).arbitrationLoss read).settle := exec_arbitrationLoss hs { dt := dt, read := read }
  have herror (b : Bool) : error b = .next ((s.elapse dt).bitError read b).settle := exec_bitError hs { dt := dt, read := read } b
  have hcompleted : completed = .next ((s.elapse dt).transmitCompleted read).settle := exec_transmitCompleted hs { dt := dt, read := read }
  refine ⟨fun h => ?_, fun h b => ?_, fun h => ?_, fun f p hf hp hk hw => ?_, fun f hf hp => ?_⟩
  · rw [hloss, State.arbitrationLoss_rests (s := s.elapse dt) h]
  · rw [herror, State.bitError_rests (s := s.elapse dt) h]
  · rw [hcompleted, State.transmitCompleted_rests (s := s.elapse dt) h]
  · intro errors left l
    refine ⟨fun h => ?_, fun h hroom => ?_, fun h => ?_, fun h hroom => ?_⟩
    · rw [hloss, State.arbitrationLoss_ends (s := s.elapse dt) hf h, State.attemptEnded_pending hw hk (by exact hp)]
      rfl
    · rw [herror, State.bitError_pending (s := s.elapse dt) hf hp hk hw h hroom]
      rfl
    · rw [herror, State.bitError_ofBreak (s := s.elapse dt) hf h]
      rfl
    · rw [hcompleted, State.transmitCompleted_ends (s := s.elapse dt) hf h, State.reportOutcome_status_completed hk,
        State.afterLeaving_pending hk (by exact hp) (by exact hroom)]
      rfl
  · intro now errors left ended windowLost
    refine ⟨fun hw => ⟨fun h => ?_, fun h hn => ?_⟩, ?_, fun h => ?_, fun h hn => ?_, ?_⟩
    · rw [hloss, State.arbitrationLoss_ends (s := s.elapse dt) hf h, State.attemptEnded_again hw (by exact hp)]
      rfl
    · rw [herror, State.bitError_again (s := s.elapse dt) hf h hn, State.attemptEnded_again hw (by exact hp)]
      rfl
    · intro withdrawn l hw
      have hends (run : Host.Outcome State Fault Refusal) (l' : Lnc)
          (hrun : run = .next (((s.elapse dt).setLnc l').reportOutcome f .withdrawn).settle) : withdrawn run l' := by
        refine ⟨fun i hk hi => ?_, fun i hk hi => ?_, fun hk hr => ?_, fun hk hr hwin => ?_, fun h => ?_⟩
        · rw [hrun, State.withdrawn_arcClaim hk (by exact hi)]
          rfl
        · rw [hrun, State.withdrawn_locate hk (by exact hi)]
          rfl
        · rw [hrun, State.withdrawn_probeOpen hk (by exact hr)]
          rfl
        · rw [hrun, State.lost_probeClose (by simp) hk (by exact hr) (by exact hwin)]
          rfl
        · rw [hrun, State.withdrawn_unowned (by exact h)]
          rfl
      refine ⟨fun h => hends _ _ ?_, fun h hn => hends _ _ ?_⟩
      · rw [hloss, State.arbitrationLoss_ends (s := s.elapse dt) hf h, State.attemptEnded_withdrawn hw]
        rfl
      · rw [herror, State.bitError_withdrawn (s := s.elapse dt) hf hw h hn]
        rfl
    · rw [herror, State.bitError_ofBreak (s := s.elapse dt) hf h]
      rfl
    · intro dropped l
      have hdropped : dropped = .next (((s.elapse dt).setLnc l).reportOutcome f .dropped).settle := by
        have hpending : (((s.elapse dt).setLnc ((s.elapse dt).lnc.attemptFailed.without f.entry)).reportOutcome f .dropped).afterLeaving f =
            ((s.elapse dt).setLnc ((s.elapse dt).lnc.attemptFailed.without f.entry)).reportOutcome f .dropped := by
          by_cases hk : f.kind = .status
          · exact State.afterLeaving_unpending (by rw [State.reportOutcome_status_left hk (by simp)]; exact hp)
          · exact State.afterLeaving_other hk
        show error false = _
        rw [herror, State.bitError_drops (s := s.elapse dt) hf h hn, hpending]
        rfl
      refine ⟨fun hk => ?_, fun i hk hi hq => ?_, fun i hk hi hq => ?_, fun hk hr => ?_, fun hk hr hwin => ?_⟩
      · rw [hdropped]
        by_cases hst : f.kind = .status
        · rw [State.reportOutcome_status_left hst (by simp)]
          rfl
        · rw [State.reportOutcome_unowned (by tauto)]
          rfl
      · rw [hdropped, (State.reported_claim hq).1 hk (by exact hi)]
        rfl
      · rw [hdropped, (State.reported_claim hq).2 hk (by exact hi)]
        rfl
      · rw [hdropped, State.reportOutcome_probeOpen_lost hk (.inl rfl) (by exact hr)]
        rfl
      · rw [hdropped, State.lost_probeClose (by simp) hk (by exact hr) (by exact hwin)]
        rfl
    · intro l h
      have hends : completed = .next ((((s.elapse dt).setLnc l).reportOutcome f .completed).afterLeaving f).settle := by
        rw [hcompleted, State.transmitCompleted_ends (s := s.elapse dt) hf h]
        rfl
      have hother (hk : f.kind ≠ .status) : completed = .next (((s.elapse dt).setLnc l).reportOutcome f .completed).settle := by
        rw [hends, State.afterLeaving_other hk]
      refine ⟨fun hk => ?_, fun hk => ?_, fun i hk hi hq => ?_, fun i hk hi hq => ?_, ?_, fun w hk hr hw => ?_⟩
      · rw [hother (by rcases hk with hk | hk | hk | hk <;> rw [hk] <;> decide), State.reportOutcome_unowned hk]
        rfl
      · rw [hends, State.reportOutcome_status_completed hk, State.afterLeaving_unpending (by exact hp)]
        rfl
      · rw [hother (by rw [hk]; decide), (State.reported_claim hq).1 hk (by exact hi)]
        rfl
      · rw [hother (by rw [hk]; decide), (State.reported_claim hq).2 hk (by exact hi)]
        rfl
      · intro begun opened hk
        have hstart : completed = .next (((s.elapse dt).setLnc l).injectorStart f).settle := by
          rw [hother (by rw [hk]; decide), State.reportOutcome_probeOpen_completed hk]
        have hbegun : begun (((s.elapse dt).setLnc l).ownWindow f) :=
          ⟨rfl, rfl, rfl, rfl, rfl, rfl, rfl, rfl, rfl, rfl, rfl, rfl, ((s.elapse dt).setLnc l).balanceCapture_eq⟩
        refine ⟨fun hw => ⟨_, hbegun, ?_⟩, fun hw ha => ⟨fun hl hroom => ⟨_, hbegun, ?_⟩, fun hl => ?_⟩⟩
        · rw [hstart, State.injectorStart_eq, if_neg (by rw [hw]; simp)]
          rfl
        · rw [hstart, State.injectorStart_aborted hw (by exact ha) (by exact hl) (by exact hroom)]
          rfl
        · rw [hstart, State.injectorStart_lost hw (by exact ha) (by exact hl)]
          rfl
      · intro good
        rw [hother (by rw [hk]; decide), State.reportOutcome_probeClose_completed hk, State.injectorEnd_eq (by exact hr) (by exact hw),
          State.injectorEnded_eq]
        rfl

end Sys2Proof.Machine

/-! PROOFS. Breaks: the flush of the queue and its reports, and the ARRAY-STOP after the own break (R34, R62, R70, R118 to R120). -/

namespace Sys2Proof.Machine

open Sys2Proof.Safety

/-! ### The flush (R120) -/

/-- An incident whose queued claim is dropped. -/
def Incident.claimDropped (i : Incident) : Incident := if i.claim = .queued then { i with claim := .dropped } else i

theorem Incident.claimDropped_twice (i : Incident) : i.claimDropped.claimDropped = i.claimDropped := by
  unfold Incident.claimDropped
  by_cases h : i.claim = .queued
  · rw [if_pos h, if_neg (by simp)]
  · rw [if_neg h, if_neg h]

/-- The PRB once a break has removed its PROBE-OPEN. -/
def State.prbUnopened (s : State) : Prb :=
  if s.prb.byDue = true then { s.prb with role := .none, byDue := false, duePending := true, retryAt := some (s.now.plus 1000) }
  else { s.prb with role := .none }

/-- The PRB once a break has removed frames, by whether a PROBE-OPEN and a PROBE-CLOSE were among them. -/
def State.prbFlushed (s : State) (opens closes : Bool) : Prb :=
  if s.prb.role = .pending ∧ opens = true then s.prbUnopened
  else if (s.prb.role = .injecting ∧ s.prb.window ≠ none) ∧ closes = true then s.prbAfterLoss
  else s.prb

/-- The SEL once a break has removed frames, by whether an ARC-CLAIM and a LOCATE were among them. -/
def Sel.flushed (l : Sel) (claims locates : Bool) : Sel :=
  { l with arc := if claims then l.arc.map Incident.claimDropped else l.arc,
           ground := if locates then l.ground.map Incident.claimDropped else l.ground }

/-- A frame of a kind is in a list. -/
def hasKind (k : Kind) (q : List QueuedFrame) : Bool := q.any fun f => f.kind == k

theorem hasKind_iff (k : Kind) (q : List QueuedFrame) : hasKind k q = true ↔ ∃ f ∈ q, f.kind = k := by
  simp [hasKind]

/-- A state whose owners have taken the report that a break removed some frames. -/
def State.reported (s : State) (q : List QueuedFrame) : State :=
  { s with sel := s.sel.flushed (hasKind .arcClaim q) (hasKind .locate q), prb := s.prbFlushed (hasKind .probeOpen q) (hasKind .probeClose q) }

theorem State.claimReport_dropped (s : State) (k : IncidentKind) :
    s.claimReport k .dropped = s.setIncident k ((s.incident k).map Incident.claimDropped) := by
  cases hi : s.incident k with
  | none =>
    rw [State.claimReport_none hi]
    cases k <;> (obtain ⟨_, _, _, _, _, _, ⟨_, _, _, _, _, _⟩, _, _, _, _, _, _⟩ := s; cases (show _ = none from hi); rfl)
  | some i =>
    rw [State.claimReport_some hi, Option.map_some, Incident.claimDropped]
    by_cases hq : i.claim = .queued
    · rw [if_pos hq, if_pos hq]
    · rw [if_neg hq, if_neg hq]

theorem State.reported_single (s : State) (f : QueuedFrame) : s.reportOutcome f .removedByBreak = s.reported [f] := by
  cases hk : f.kind with
  | arcClaim =>
    rw [State.reportOutcome_arcClaim hk, FrameOutcome.claim, State.claimReport_dropped]
    simp [State.reported, Sel.flushed, hasKind, hk, State.prbFlushed, State.setIncident, State.setArc, State.incident]
  | locate =>
    rw [State.reportOutcome_locate hk, FrameOutcome.claim, State.claimReport_dropped]
    simp [State.reported, Sel.flushed, hasKind, hk, State.prbFlushed, State.setIncident, State.setGround, State.incident]
  | probeOpen =>
    by_cases hr : s.prb.role = .pending
    · rw [State.reportOutcome_probeOpen_lost hk (.inr rfl) hr]
      simp [State.reported, Sel.flushed, hasKind, hk, State.prbFlushed, State.setPrb, hr, State.prbUnopened]
    · have hlost : s.reportOutcome f .removedByBreak = s := by
        unfold State.reportOutcome State.probeOpenLost
        rw [hk]
        exact if_neg (by simpa using hr)
      rw [hlost]
      simp [State.reported, Sel.flushed, hasKind, hk, State.prbFlushed, hr]
  | probeClose =>
    rw [State.reportOutcome_probeClose_lost hk (by simp)]
    by_cases hr : s.prb.role = .injecting
    · by_cases hw : s.prb.window = none
      · simp [State.reported, Sel.flushed, hasKind, hk, State.prbFlushed, hr, hw]
      · simp [State.reported, Sel.flushed, hasKind, hk, State.prbFlushed, State.setPrb, hr, hw]
    · simp [State.reported, Sel.flushed, hasKind, hk, State.prbFlushed, hr]
  | status =>
    rw [State.reportOutcome_status_left hk (by simp)]
    simp [State.reported, Sel.flushed, hasKind, hk, State.prbFlushed]
  | service =>
    have hservice : s.reportOutcome f .removedByBreak = s := by
      unfold State.reportOutcome
      rw [hk]
    rw [hservice]
    simp [State.reported, Sel.flushed, hasKind, hk, State.prbFlushed]
  | arrayStop | arrayResume | isolated | answer =>
    rw [State.reportOutcome_unowned (by simp [hk])]
    simp [State.reported, Sel.flushed, hasKind, hk, State.prbFlushed]

theorem Sel.flushed_flushed (l : Sel) (a b c d : Bool) : (l.flushed a b).flushed c d = l.flushed (a || c) (b || d) := by
  have htwice (o : Option Incident) : (o.map Incident.claimDropped).map Incident.claimDropped = o.map Incident.claimDropped := by
    cases o with
    | none => rfl
    | some i => simp only [Option.map_some, Incident.claimDropped_twice]
  unfold Sel.flushed
  cases a <;> cases b <;> cases c <;> cases d <;> simp [htwice]

theorem State.prbFlushed_flushed (s : State) (a b c d : Bool) (u : State) (hu : u.prb = s.prbFlushed a b) (hn : u.now = s.now)
    (hsmu : u.smu = s.smu) : u.prbFlushed c d = s.prbFlushed (a || c) (b || d) := by
  by_cases hopen : s.prb.role = .pending ∧ a = true
  · have hrole : u.prb.role = .none := by
      rw [hu, State.prbFlushed, if_pos hopen, State.prbUnopened]
      split <;> rfl
    have hrest : u.prbFlushed c d = u.prb := by simp [State.prbFlushed, hrole]
    rw [hrest, hu]
    simp [State.prbFlushed, hopen]
  · by_cases hclose : (s.prb.role = .injecting ∧ s.prb.window ≠ none) ∧ b = true
    · have hrole : u.prb.role = .none := by
        rw [hu, State.prbFlushed, if_neg hopen, if_pos hclose, State.prbAfterLoss]
        split <;> rfl
      have hrest : u.prbFlushed c d = u.prb := by simp [State.prbFlushed, hrole]
      rw [hrest, hu]
      simp [State.prbFlushed, hclose]
    · have hsame : u.prb = s.prb := by rw [hu, State.prbFlushed, if_neg hopen, if_neg hclose]
      have ha : (s.prb.role = .pending ∧ (a || c) = true) ↔ (s.prb.role = .pending ∧ c = true) := by
        rw [Bool.or_eq_true]
        tauto
      have hb : ((s.prb.role = .injecting ∧ s.prb.window ≠ none) ∧ (b || d) = true) ↔
          ((s.prb.role = .injecting ∧ s.prb.window ≠ none) ∧ d = true) := by
        rw [Bool.or_eq_true]
        tauto
      simp only [State.prbFlushed, State.prbUnopened, State.prbAfterLoss, hsame, hn, hsmu, ha, hb]

/-- The reports of a flush, one frame after the other. -/
theorem State.reported_all (q : List QueuedFrame) (s : State) : q.foldl (fun u f => u.reportOutcome f .removedByBreak) s = s.reported q := by
  induction q generalizing s with
  | nil => simp [State.reported, hasKind, Sel.flushed, State.prbFlushed]
  | cons f q ih =>
    have hkind (k : Kind) : hasKind k (f :: q) = (hasKind k [f] || hasKind k q) := by simp [hasKind]
    have hprb := s.prbFlushed_flushed (hasKind .probeOpen [f]) (hasKind .probeClose [f]) (hasKind .probeOpen q) (hasKind .probeClose q)
      (s.reported [f]) rfl rfl rfl
    have htwice : (s.reported [f]).reported q = { s with
        sel := (s.sel.flushed (hasKind .arcClaim [f]) (hasKind .locate [f])).flushed (hasKind .arcClaim q) (hasKind .locate q)
        prb := (s.reported [f]).prbFlushed (hasKind .probeOpen q) (hasKind .probeClose q) } := rfl
    rw [List.foldl_cons, ih, State.reported_single, htwice, Sel.flushed_flushed, hprb]
    simp only [State.reported, hkind]

/-- The frames a flush keeps. -/
def keptFrames (q : List QueuedFrame) : List QueuedFrame := q.filter fun f => decide (f.kind = .arrayStop ∨ f.kind = .arrayResume ∨ f.kind = .isolated)

theorem kept_iff (k : Kind) : k.kept = true ↔ k = .arrayStop ∨ k = .arrayResume ∨ k = .isolated := by
  cases k <;> simp [Kind.kept]

theorem filter_kept (q : List QueuedFrame) : q.filter (fun f => f.kind.kept) = keptFrames q := by
  unfold keptFrames
  congr 1
  funext f
  rw [Bool.eq_iff_iff, kept_iff, decide_eq_true_eq]

theorem hasKind_removed {k : Kind} (hk : k.kept = false) (q : List QueuedFrame) :
    hasKind k (q.filter fun f => !f.kind.kept) = true ↔ ∃ f ∈ q, f.kind = k := by
  simp only [hasKind_iff, List.mem_filter, Bool.not_eq_true']
  constructor
  · rintro ⟨f, ⟨hf, -⟩, h⟩
    exact ⟨f, hf, h⟩
  · rintro ⟨f, hf, rfl⟩
    exact ⟨f, ⟨hf, hk⟩, rfl⟩

/-- The LNC after a flush. -/
def Lnc.flushed (l : Lnc) : Lnc := { l with queue := keptFrames l.queue, pendingStatus := none, sending := none, tx := [] }

theorem State.flush_eq (s : State) :
    s.flush = ({ s with lnc := s.lnc.flushed } : State).reported (s.lnc.queue.filter fun f => !f.kind.kept) := by
  unfold State.flush Lnc.flushed
  rw [← State.reported_all]
  dsimp only
  rw [filter_kept]
  rfl

/-- The reports of a flush, by kind and owner. -/
theorem State.reported_flushReported (s : State) : FlushReported s (s.reported (s.lnc.queue.filter fun f => !f.kind.kept)) s.now := by
  have hclaims := hasKind_removed (k := .arcClaim) rfl s.lnc.queue
  have hlocates := hasKind_removed (k := .locate) rfl s.lnc.queue
  have hopens := hasKind_removed (k := .probeOpen) rfl s.lnc.queue
  have hcloses := hasKind_removed (k := .probeClose) rfl s.lnc.queue
  have hmap {b : Bool} {p : Prop} (hb : b = true ↔ p) {o : Option Incident} {i : Incident} (ho : o = some i) :
      (i.claim = .queued → p → (if b then o.map Incident.claimDropped else o) = some { i with claim := .dropped }) ∧
      (i.claim ≠ .queued ∨ ¬p → (if b then o.map Incident.claimDropped else o) = some i) := by
    rw [← hb, ho, Option.map_some, Incident.claimDropped]
    refine ⟨fun hq hp => by rw [if_pos hp, if_pos hq], fun h => ?_⟩
    by_cases hp : b = true
    · rw [if_pos hp, if_neg (h.resolve_right (not_not.2 hp))]
    · rw [if_neg hp]
  have hnone {b : Bool} {o : Option Incident} (ho : o = none) : (if b then o.map Incident.claimDropped else o) = none := by
    rw [ho]
    exact ite_self _
  refine ⟨rfl, fun h => hnone h, fun h => hnone h, fun i hi => hmap hclaims hi, fun i hi => hmap hlocates hi, fun hr => ?_,
    fun hr => ⟨fun hp => ?_, fun hp => ?_⟩, fun w hr hw => ⟨fun hp => ?_, fun hp => ?_⟩⟩
  · have hpending : s.prb.role ≠ .pending := by rcases hr with h | h <;> rw [h] <;> decide
    have hinjecting : s.prb.role ≠ .injecting := by rcases hr with h | h <;> rw [h] <;> decide
    exact (if_neg fun h => hpending h.1).trans (if_neg fun h => hinjecting h.1.1)
  · exact if_pos ⟨hr, hopens.2 hp⟩
  · exact (if_neg fun h => hp (hopens.1 h.2)).trans (if_neg fun h => absurd (hr.symm.trans h.1.1) (by decide))
  · exact (if_neg fun h => absurd (hr.symm.trans h.1) (by decide)).trans (if_pos ⟨⟨hr, by rw [hw]; simp⟩, hcloses.2 hp⟩)
  · exact (if_neg fun h => absurd (hr.symm.trans h.1) (by decide)).trans (if_neg fun h => hp (hcloses.1 h.2))

/-! ### The commands (R118, R119) -/

section Breaks
variable {s : State} {run : Nat}

theorem State.breakRecognised_flushes (hb : s.lnc.breakEndAt = none) (ho : s.lnc.ownRun = false) (hlo : 200 ≤ run) (hhi : run < 1500) :
    s.breakRecognised run = (s.setLnc { s.lnc with rx := .sync, rxChars := [], dominantRun := 0 }).flush := by
  unfold State.breakRecognised
  rw [if_neg (by rw [hb]; simp), if_neg (by rw [ho]; simp)]
  exact if_pos ⟨hlo, hhi⟩

theorem State.breakRecognised_own (hb : s.lnc.breakEndAt = none) (ho : s.lnc.ownRun = true) :
    s.breakRecognised run = s.setLnc { s.lnc with ownRun := false, dominantRun := 0 } := by
  unfold State.breakRecognised
  rw [if_neg (by rw [hb]; simp), if_pos ho]

theorem State.breakRecognised_none (hb : s.lnc.breakEndAt = none) (ho : s.lnc.ownRun = false) (h : run < 200 ∨ 1500 ≤ run) :
    s.breakRecognised run = s.setLnc { s.lnc with dominantRun := 0 } := by
  unfold State.breakRecognised
  rw [if_neg (by rw [hb]; simp), if_neg (by rw [ho]; simp)]
  exact if_neg (by rw [breakMinMs, stuckMs]; omega)

theorem State.breakDriveEnd_at (h : expired s.now s.lnc.breakEndAt = true) : s.breakDriveEnd =
    let t := (s.setLnc { s.lnc with breakEndAt := none }).flush
    if (t.queuedOf .arrayStop).isSome then t else t.queueFrame (newFrame .arrayStop 0 []) := if_pos h

end Breaks

theorem insertFrame_front {f : QueuedFrame} {q : List QueuedFrame} (h : ∀ g ∈ q, f.kind.code < g.kind.code) : insertFrame f q = f :: q := by
  cases q with
  | nil => rfl
  | cons g q => exact if_pos (h g List.mem_cons_self)

/-- An ARRAY-STOP enters ahead of every other frame. -/
theorem insertFrame_arrayStop {f : QueuedFrame} {q : List QueuedFrame} (hf : f.kind = .arrayStop) (hq : ∀ g ∈ q, g.kind ≠ .arrayStop) :
    insertFrame f q = f :: q := by
  refine insertFrame_front fun g hg => ?_
  rw [hf]
  cases hk : g.kind with
  | arrayStop => exact absurd hk (hq g hg)
  | _ => decide

/-- Settles O52. -/
theorem breaksFlushTheQueue : Obligations.BreaksFlushTheQueue := by
  intro dt run s hs kept
  have hexec : exec (.breakRecognised dt run) s = .next ((s.elapse dt).breakRecognised run).settle := exec_breakRecognised hs dt run
  refine ⟨fun hb ho hlo hhi => ?_, fun hb ho => ?_, fun hb ho hr => ?_, fun hd ha hroom => ?_⟩
  · rw [hexec, State.breakRecognised_flushes (s := s.elapse dt) hb ho hlo hhi, State.flush_eq]
    exact ⟨_, rfl, rfl, rfl, rfl, rfl, rfl, rfl, rfl, (s.elapse dt).reported_flushReported⟩
  · rw [hexec, State.breakRecognised_own (s := s.elapse dt) hb ho]
    rfl
  · rw [hexec, State.breakRecognised_none (s := s.elapse dt) hb ho hr]
    rfl
  · rw [exec_breakDriveEnd hs, State.breakDriveEnd_at (s := s.elapse dt) hd, State.flush_eq]
    have hreports := (s.elapse dt).reported_flushReported
    generalize ht : State.reported _ _ = t
    have hlnc : t.lnc = { s.lnc with breakEndAt := none, queue := kept, pendingStatus := none, sending := none, tx := [] } := by rw [← ht]; rfl
    have hqueued : t.queuedOf .arrayStop = none ↔ ∀ g ∈ kept, g.kind ≠ .arrayStop := by rw [State.queuedOf_none, hlnc]
    dsimp only
    by_cases hstop : ∀ g ∈ kept, g.kind ≠ .arrayStop
    · have hnone : ¬(t.queuedOf .arrayStop).isSome = true := by rw [hqueued.2 hstop]; simp
      have henter : t.queueFrame (newFrame .arrayStop 0 []) = t.enterFrame (newFrame .arrayStop 0 []) := by
        rw [State.queueFrame, State.enqueue_of_room (by rw [← ht]; exact ha) (by simp [newFrame]) (fun h => absurd h (by decide))
          (by rw [hlnc]; exact hroom)]
      have hqueue : (t.enterFrame (newFrame .arrayStop 0 [])).lnc.queue = { newFrame .arrayStop 0 [] with entry := s.lnc.nextEntry } :: kept := by
        rw [State.enterFrame_lnc, hlnc]
        exact insertFrame_arrayStop rfl hstop
      rw [if_neg hnone, henter]
      refine ⟨_, rfl, by rw [State.settle_lnc, State.enterFrame_lnc, hlnc], by rw [State.settle_lnc, State.enterFrame_lnc, hlnc],
        by rw [State.settle_lnc, State.enterFrame_lnc, hlnc], by rw [State.settle_lnc, State.enterFrame_lnc, hlnc], fun g hg => ?_, ?_,
        fun ⟨f, hf, hk⟩ => absurd hk (hstop f hf), fun _ => hqueue, by rw [← ht]; exact hreports, by rw [← ht]; rfl, by rw [← ht]; rfl,
        by rw [← ht]; rfl, by rw [← ht]; rfl, by rw [← ht]; rfl, by rw [← ht]; rfl⟩
      · rw [State.settle_lnc, hqueue]
        exact List.mem_cons_of_mem _ hg
      · exact ⟨_, by rw [State.settle_lnc, hqueue]; exact List.mem_cons_self, rfl⟩
    · have hsome : (t.queuedOf .arrayStop).isSome = true := by
        rw [Option.isSome_iff_ne_none, Ne, hqueued]
        exact hstop
      have hqueue : t.lnc.queue = kept := by rw [hlnc]
      rw [if_pos hsome]
      obtain ⟨f, hf, hk⟩ : ∃ f ∈ kept, f.kind = .arrayStop := by
        by_contra hnone
        exact hstop fun g hg hk => hnone ⟨g, hg, hk⟩
      refine ⟨_, rfl, by rw [State.settle_lnc, hlnc], by rw [State.settle_lnc, hlnc], by rw [State.settle_lnc, hlnc],
        by rw [State.settle_lnc, hlnc], fun g hg => by rw [State.settle_lnc, hqueue]; exact hg,
        ⟨f, by rw [State.settle_lnc, hqueue]; exact hf, hk⟩, fun _ => hqueue, fun h => absurd h hstop,
        by rw [← ht]; exact hreports, by rw [← ht]; rfl, by rw [← ht]; rfl,
        by rw [← ht]; rfl, by rw [← ht]; rfl, by rw [← ht]; rfl, by rw [← ht]; rfl⟩

end Sys2Proof.Machine

/-! PROOFS. A frame as sent: its characters, its check, its levels, and what is read back (R95 to R97, R101, R188, 10.1 to 10.3). -/

namespace Sys2Proof.Machine

open Sys2Proof.Safety

/-! ### The check register in numbers (R188) -/

/-- The check register after one more bit. -/
def checkShift (r : Nat) (b : Bool) : Nat := if decide (32768 ≤ r) = b then 2 * r % 65536 else Nat.xor (2 * r % 65536) 0x1021

theorem crcBit_toNat (r : BitVec 16) (b : Bool) : (crcBit r b).toNat = checkShift r.toNat b := by
  have hmsb : r.msb = decide (32768 ≤ r.toNat) := BitVec.msb_eq_decide r
  have hshift : (r <<< 1).toNat = 2 * r.toNat % 65536 := by
    rw [BitVec.toNat_shiftLeft, Nat.shiftLeft_eq]
    omega
  unfold crcBit checkShift
  rw [hmsb]
  by_cases h : decide (32768 ≤ r.toNat) = b
  · rw [if_pos h, h, Bool.xor_self, if_neg Bool.false_ne_true, hshift]
  · rw [if_neg h, if_pos (bne_iff_ne.2 h), BitVec.toNat_xor, hshift]
    rfl

theorem foldl_crcBit_toNat {α : Type} (g : α → Bool) (l : List α) (r : BitVec 16) :
    (l.foldl (fun r i => crcBit r (g i)) r).toNat = (l.map g).foldl checkShift r.toNat := by
  induction l generalizing r with
  | nil => rfl
  | cons i l ih => rw [List.foldl_cons, ih, crcBit_toNat, List.map_cons, List.foldl_cons]

/-- The bits of a character, most significant first. -/
def charBits (c : Byte) : List Bool := (List.range 8).map fun i => c.getLsbD (7 - i)

theorem crcByte_toNat (r : BitVec 16) (c : Byte) : (crcByte r c).toNat = (charBits c).foldl checkShift r.toNat :=
  foldl_crcBit_toNat (fun i => c.getLsbD i) _ r

theorem crc_toNat (xs : List Byte) : (crc xs).toNat = (xs.flatMap charBits).foldl checkShift 65535 := by
  have hgeneral (r : BitVec 16) : (xs.foldl crcByte r).toNat = (xs.flatMap charBits).foldl checkShift r.toNat := by
    induction xs generalizing r with
    | nil => rfl
    | cons c xs ih => rw [List.foldl_cons, ih, crcByte_toNat, List.flatMap_cons, List.foldl_append]
  exact hgeneral _

theorem crcHigh_eq (c : BitVec 16) : crcHigh c = BitVec.ofNat 8 (c.toNat / 256) := by
  refine BitVec.eq_of_toNat_eq ?_
  rw [crcHigh, BitVec.extractLsb'_toNat, BitVec.toNat_ofNat, Nat.shiftRight_eq_div_pow]

theorem crcLow_eq (c : BitVec 16) : crcLow c = BitVec.ofNat 8 c.toNat := by
  refine BitVec.eq_of_toNat_eq ?_
  rw [crcLow, BitVec.extractLsb'_toNat, BitVec.toNat_ofNat, Nat.shiftRight_zero]

/-! ### Characters (10.1, R101) -/

/-- The characters of a frame before its check. -/
def frameBody (k : Kind) (rank source : Nat) (payload : List Byte) : List Byte :=
  [BitVec.ofNat 8 k.code, BitVec.ofNat 8 (255 - rank), BitVec.ofNat 8 source, BitVec.ofNat 8 payload.length] ++ payload

theorem frameChars_eq (k : Kind) (rank source : Nat) (payload : List Byte) : frameChars k rank source payload =
    frameBody k rank source payload ++ [crcHigh (crc (frameBody k rank source payload)), crcLow (crc (frameBody k rank source payload))] := rfl

theorem frameBody_length (k : Kind) (rank source : Nat) (payload : List Byte) :
    (frameBody k rank source payload).length = payload.length + 4 := by simp [frameBody]

theorem frameChars_take (k : Kind) (rank source : Nat) (payload : List Byte) :
    (frameChars k rank source payload).take (payload.length + 4) = frameBody k rank source payload := by
  rw [frameChars_eq, List.take_left' (frameBody_length k rank source payload)]

/-- What a list of characters ended by two check characters reads as. -/
theorem parseFrame_concat (body : List Byte) (h l : Byte) : parseFrame (body ++ [h, l]) =
    if h = crcHigh (crc body) ∧ l = crcLow (crc body) then
      some { code := (charAt (body ++ [h, l]) 0).toNat, rank := 255 - (charAt (body ++ [h, l]) 1).toNat,
             source := (charAt (body ++ [h, l]) 2).toNat, payload := body.drop 4 }
    else none := by
  have hlen : (body ++ [h, l]).length - 2 = body.length := by simp
  have hhigh : charAt (body ++ [h, l]) body.length = h := by simp [charAt]
  have hlow : charAt (body ++ [h, l]) ((body ++ [h, l]).length - 1) = l := by simp [charAt]
  unfold parseFrame
  dsimp only
  rw [hlen, List.take_left, hhigh, hlow]
  simp only [Bool.and_eq_true, beq_iff_eq]

theorem Kind.code_lt (k : Kind) : k.code < 256 := by cases k <;> decide

/-- A frame read back with its own check is the frame that was sent. -/
theorem parseFrame_frameChars {rank source : Nat} (k : Kind) (payload : List Byte) (hr : rank ≤ 255) (hs : source ≤ 255) :
    parseFrame (frameChars k rank source payload) = some { code := k.code, rank := rank, source := source, payload := payload } := by
  rw [frameChars_eq, parseFrame_concat, if_pos ⟨rfl, rfl⟩]
  have hcode : (BitVec.ofNat 8 k.code).toNat = k.code := Nat.mod_eq_of_lt k.code_lt
  have hrank : 255 - (BitVec.ofNat 8 (255 - rank)).toNat = rank := by
    rw [BitVec.toNat_ofNat]
    omega
  have hsource : (BitVec.ofNat 8 source).toNat = source := Nat.mod_eq_of_lt (by omega)
  simp only [frameBody, charAt, List.cons_append, List.getD_cons_zero, List.getD_cons_succ, List.drop_succ_cons, List.drop_zero,
    List.nil_append, hcode, hrank, hsource]

theorem parseFrame_checkError {k : Kind} {rank source : Nat} {payload : List Byte} {h l : Byte}
    (hp : parseFrame (frameBody k rank source payload ++ [h, l]) ≠ none) :
    frameBody k rank source payload ++ [h, l] = frameChars k rank source payload := by
  rw [parseFrame_concat] at hp
  split at hp
  · next heq => rw [frameChars_eq, heq.1, heq.2]
  · exact absurd rfl hp

/-! ### Codes (10.2, 10.3) -/

theorem Kind.ofCode_code (k : Kind) : Kind.ofCode k.code = some k := by cases k <;> rfl

theorem IsoCause.ofCode_iff (n : Nat) (c : IsoCause) : IsoCause.ofCode n = some c ↔ n = c.code := by
  constructor
  · intro h
    exact (by simpa using List.find?_some h : c.code = n).symm
  · rintro rfl
    cases c <;> rfl

theorem WindowStatus.ofCode_iff (n : Nat) (w : WindowStatus) : WindowStatus.ofCode n = some w ↔ n = w.code := by
  constructor
  · intro h
    exact (by simpa using List.find?_some h : w.code = n).symm
  · rintro rfl
    cases w <;> rfl

/-! ### Levels (R95, R96) -/

theorem length_flatMap_characterLevels (xs : List Byte) : (xs.flatMap (characterLevels false)).length = 11 * xs.length := by
  induction xs with
  | nil => rfl
  | cons c xs ih =>
    rw [List.flatMap_cons, List.length_append, ih, characterLevels_length, List.length_cons]
    omega

theorem frameLevels_length (xs : List Byte) : (frameLevels xs).length = 11 * xs.length := by
  cases xs with
  | nil => rfl
  | cons c xs =>
    rw [frameLevels_cons, List.length_append, length_flatMap_characterLevels, characterLevels_length, List.length_cons]
    omega

theorem getElem?_flatMap_characterLevels (xs : List Byte) {i j : Nat} (hi : i < xs.length) (hj : j < 11) :
    (xs.flatMap (characterLevels false))[11 * i + j]? = (characterLevels false (xs.getD i 0))[j]? := by
  induction xs generalizing i with
  | nil => exact absurd hi (by simp)
  | cons c xs ih =>
    rw [List.flatMap_cons]
    cases i with
    | zero => rw [List.getElem?_append_left (by simpa using hj), Nat.mul_zero, Nat.zero_add, List.getD_cons_zero]
    | succ i =>
      have hplace : 11 * (i + 1) + j - 11 = 11 * i + j := by omega
      rw [List.getElem?_append_right (by rw [characterLevels_length]; omega), characterLevels_length, hplace, List.getD_cons_succ]
      exact ih (by simpa using hi)

/-- The levels of a frame are those of its characters, back to back. -/
theorem getElem?_frameLevels (xs : List Byte) {i j : Nat} (hi : i < xs.length) (hj : j < 11) :
    (frameLevels xs)[11 * i + j]? = (characterLevels (decide (i = 0)) (xs.getD i 0))[j]? := by
  cases xs with
  | nil => exact absurd hi (by simp)
  | cons c xs =>
    rw [frameLevels_cons]
    cases i with
    | zero =>
      rw [List.getElem?_append_left (by simpa using hj), Nat.mul_zero, Nat.zero_add, List.getD_cons_zero]
      rfl
    | succ i =>
      have hplace : 11 * (i + 1) + j - 11 = 11 * i + j := by omega
      rw [List.getElem?_append_right (by rw [characterLevels_length]; omega), characterLevels_length, hplace,
        getElem?_flatMap_characterLevels xs (by simpa using hi) hj]
      simp

theorem characterLevels_data (first : Bool) (c : Byte) {b : Nat} (hb : b < 8) :
    (characterLevels first c)[1 + b]? = some (if c.getLsbD (7 - b) = true then Level.recessive else .dominant) := by
  match b, hb with
  | 0, _ | 1, _ | 2, _ | 3, _ | 4, _ | 5, _ | 6, _ | 7, _ => rfl

theorem frameLevels_of_character (xs : List Byte) {i : Nat} (hi : i < xs.length) :
    (frameLevels xs)[11 * i]? = some .dominant ∧
    (∀ b, b < 8 → (frameLevels xs)[11 * i + 1 + b]? = some (if (xs.getD i 0).getLsbD (7 - b) = true then .recessive else .dominant)) ∧
    (frameLevels xs)[11 * i + 9]? = some (if i = 0 then .recessive else .dominant) ∧
    (frameLevels xs)[11 * i + 10]? = some .recessive := by
  refine ⟨getElem?_frameLevels xs hi (j := 0) (by decide), fun b hb => ?_, ?_, getElem?_frameLevels xs hi (j := 10) (by decide)⟩
  · rw [Nat.add_assoc, getElem?_frameLevels xs hi (by omega), characterLevels_data _ _ hb]
  · have hmark : (characterLevels (decide (i = 0)) (xs.getD i 0))[9]? = some (bitLevel (decide (i = 0))) := rfl
    rw [getElem?_frameLevels xs hi (by decide), hmark, bitLevel]
    simp only [decide_eq_true_eq]

/-- Settles O43. -/
theorem framesReadBackAsSent : Obligations.FramesReadBackAsSent := by
  intro k rank source payload hrank hsource hlen xs shift bits check
  have hbody : xs.take (payload.length + 4) = frameBody k rank source payload := frameChars_take k rank source payload
  have hcheck : check = (crc (frameBody k rank source payload)).toNat := by
    rw [crc_toNat, ← hbody]
    rfl
  have hxs : xs = frameBody k rank source payload ++ [BitVec.ofNat 8 (check / 256), BitVec.ofNat 8 check] := by
    rw [hcheck, ← crcHigh_eq, ← crcLow_eq]
    exact frameChars_eq k rank source payload
  have hxslen : xs.length = payload.length + 6 := by rw [hxs, List.length_append, frameBody_length]; rfl
  refine ⟨by cases k <;> rfl, hxs, hxslen, ?_, parseFrame_frameChars k payload hrank hsource, fun j => ?_, fun n c => ?_, fun n w => ?_,
    fun h l hp => ?_, ?_, fun i hi => frameLevels_of_character xs (by omega)⟩
  · rw [hxs]
    exact Nat.mod_eq_of_lt (by omega)
  · rw [k.ofCode_code, Option.some.injEq, eq_comm]
  · rw [IsoCause.ofCode_iff]
    cases c <;> rfl
  · rw [WindowStatus.ofCode_iff]
    cases w <;> rfl
  · rw [hbody] at hp ⊢
    exact parseFrame_checkError hp
  · rw [frameLevels_length, hxslen]

end Sys2Proof.Machine

/-! PROOFS. The delivery of an ARC-CLAIM, ISOLATED or LOCATE: the Claim Log, the comparison and the concurrent isolation (R26 to R30, R35 to R37,
R42, R43, R48, R49). -/

namespace Sys2Proof.Machine

open Sys2Proof.Safety

/-! ### The Claim Log (R27, R28) -/

section Log
variable {now : Time} {es : List ClaimEntry} {e : ClaimEntry}

theorem any_sameClaim : (es.any fun x => sameClaim x e) = true ↔ ∃ x ∈ es, x.source = e.source ∧ x.kind = e.kind := by
  simp only [List.any_eq_true, sameClaim_iff]

theorem logEntry_replaced (h : ∃ x ∈ es, x.source = e.source ∧ x.kind = e.kind) :
    logEntry now es e = es.map fun x => if x.source = e.source ∧ x.kind = e.kind then e else x := by
  unfold logEntry replaceClaim
  rw [if_pos (any_sameClaim.2 h)]
  simp only [sameClaim_iff]

theorem logEntry_added (h : ∀ x ∈ es, ¬(x.source = e.source ∧ x.kind = e.kind)) (hroom : es.length < 16) : logEntry now es e = es ++ [e] := by
  have hnone : ¬(es.any fun x => sameClaim x e) = true := by
    rw [any_sameClaim]
    exact fun ⟨x, hx, hsame⟩ => h x hx hsame
  unfold logEntry
  rw [if_neg hnone, if_pos (by exact hroom)]

theorem exists_eldest (h : es ≠ []) : ∃ old, eldest now es = some old := by
  have heq : eldest now es = es.foldl (pick fun e b => decide (now.since b.arrival < now.since e.arrival)) none := by
    unfold eldest
    congr 1
    funext best x
    cases best <;> simp [pick]
  cases hold : eldest now es with
  | none =>
    rw [heq, foldl_pick_eq_none] at hold
    exact absurd hold h
  | some old => exact ⟨old, rfl⟩

theorem logEntry_full (h : ∀ x ∈ es, ¬(x.source = e.source ∧ x.kind = e.kind)) (hfull : 16 ≤ es.length) :
    ∃ old ∈ es, (∀ x ∈ es, now.since x.arrival ≤ now.since old.arrival) ∧
      logEntry now es e = (es.filter fun x => decide (¬(x.source = old.source ∧ x.kind = old.kind))) ++ [e] := by
  have hnone : ¬(es.any fun x => sameClaim x e) = true := by
    rw [any_sameClaim]
    exact fun ⟨x, hx, hsame⟩ => h x hx hsame
  obtain ⟨old, hold⟩ := exists_eldest (now := now) (es := es) (fun hnil => by rw [hnil] at hfull; simp at hfull)
  have hfilter : (fun x => !sameClaim x old) = fun x : ClaimEntry => decide (¬(x.source = old.source ∧ x.kind = old.kind)) := by
    funext x
    rw [Bool.eq_iff_iff, Bool.not_eq_true', decide_eq_true_eq, ← Bool.not_eq_true, sameClaim_iff]
  refine ⟨old, eldest_mem hold, eldest_arrival hold, ?_⟩
  unfold logEntry
  rw [if_neg hnone, if_neg (by rw [capacity]; omega), hold, ← hfilter]

end Log

/-! ### The comparison (R36, R37) -/

section Compare
variable {s : State} {k : IncidentKind} {i : Incident} {e : ClaimEntry}

/-- An incident that yields to an entry. -/
def Incident.yieldedTo (i : Incident) (e : ClaimEntry) : Incident :=
  { i with state := .yielded, beatenBy := some { source := e.source, rank := e.rank } }

theorem State.setIncident_incident (s : State) (k : IncidentKind) (o : Option Incident) : (s.setIncident k o).incident k = o := by
  cases k <;> rfl

/-- A comparison changes its incident and, by a withdrawal, the queue, and nothing else. -/
theorem State.compareEntry_shape (s : State) (k : IncidentKind) (e : ClaimEntry) :
    ∃ o l, (l = s.lnc ∨ l = afterWithdrawal s.lnc k.frame) ∧ s.compareEntry k e = (s.setLnc l).setIncident k o := by
  have hself (i : Incident) (hi : s.incident k = some i) :
      ∃ o l, (l = s.lnc ∨ l = afterWithdrawal s.lnc k.frame) ∧ s = (s.setLnc l).setIncident k o :=
    ⟨some i, s.lnc, .inl rfl, (State.setIncident_self hi).symm⟩
  cases hi : s.incident k with
  | none =>
    have hnone : s.compareEntry k e = s := by simp [State.compareEntry, hi]
    rw [hnone]
    refine ⟨none, s.lnc, .inl rfl, ?_⟩
    obtain ⟨_, _, _, _, _, _, ⟨_, _, _, _, _, _⟩, _, _, _, _, _, _⟩ := s
    cases k <;> cases (show _ = none from hi) <;> rfl
  | some i =>
    cases hs : i.state with
    | claiming =>
      rw [State.compareEntry_of_claiming e hi hs]
      split
      · obtain ⟨c, hwhole, -⟩ := State.withdrawClaim_whole (k := k) (i := i.yieldedTo e) (State.setIncident_incident s k (some (i.yieldedTo e)))
        exact ⟨some { i.yieldedTo e with claim := c }, if i.claim = .queued then afterWithdrawal s.lnc k.frame else s.lnc,
          by split <;> simp, hwhole.trans (by cases k <;> rfl)⟩
      · exact hself i hi
    | yielded =>
      unfold State.compareEntry
      rw [hi]
      dsimp only
      rw [hs]
      dsimp only
      repeat' split
      · exact ⟨_, s.lnc, .inl rfl, rfl⟩
      · exact hself i hi
      · exact hself i hi
      · exact hself i hi
    | decided =>
      rw [State.compareEntry_of_decided e hi hs]
      exact hself i hi

/-- A CLAIMING incident that yields: its claim, by what is queued of it (R35). -/
theorem State.compareEntry_yields (hi : s.incident k = some i) (hs : i.state = .claiming) (hr : relevant i e = true)
    (ho : s.entryOutranks e i.rank = true) (hf : s.forced i = false) :
    (i.claim ≠ .queued ∨ s.queuedOf k.frame = none →
      (s.compareEntry k e).incident k = some (i.yieldedTo e) ∧ (s.compareEntry k e).lnc = s.lnc) ∧
    ∀ g, i.claim = .queued → s.queuedOf k.frame = some g →
      (s.lnc.sending ≠ some g.entry → (s.compareEntry k e).incident k = some { i.yieldedTo e with claim := .withdrawn } ∧
        (s.compareEntry k e).lnc = { s.lnc with queue := s.lnc.queue.filter fun h => h.entry != g.entry }) ∧
      (s.lnc.sending = some g.entry → (s.compareEntry k e).incident k = some (i.yieldedTo e) ∧ (s.compareEntry k e).lnc =
        { s.lnc with queue := s.lnc.queue.map fun h => if h.entry = g.entry then { h with withdrawAsked := true } else h }) := by
  have hcompare : s.compareEntry k e = (s.setIncident k (some (i.yieldedTo e))).withdrawClaim k := by
    rw [State.compareEntry_of_claiming e hi hs, if_pos ⟨hr, ho, hf⟩]
    rfl
  have hheld := State.setIncident_incident s k (some (i.yieldedTo e))
  have hlnc : (s.setIncident k (some (i.yieldedTo e))).lnc = s.lnc := State.setIncident_lnc _ _ _
  have hqueued : (s.setIncident k (some (i.yieldedTo e))).queuedOf k.frame = s.queuedOf k.frame := by rw [State.queuedOf, hlnc, State.queuedOf]
  rw [hcompare]
  refine ⟨fun h => ?_, fun g hq hg => ⟨fun hsend => ?_, fun hsend => ?_⟩⟩
  · rw [State.withdrawClaim_of_none hheld (h.imp_right hqueued.trans)]
    exact ⟨hheld, hlnc⟩
  · rw [State.withdrawClaim_of_waiting hheld hq (hqueued.trans hg) (by rwa [hlnc])]
    refine ⟨State.setIncident_incident _ _ _, ?_⟩
    rw [State.setIncident_lnc, State.removeEntry_lnc, hlnc]
  · rw [State.withdrawClaim_of_attempt hheld hq (hqueued.trans hg) (by rwa [hlnc]), hlnc]
    refine ⟨?_, rfl⟩
    cases k <;> rfl

theorem State.compareEntry_stands (hi : s.incident k = some i)
    (h : relevant i e = false ∨ i.state = .decided ∨
      (i.state = .claiming ∧ (s.entryOutranks e i.rank = false ∨ s.forced i = true)) ∨ (i.state = .yielded ∧ i.kind = .ground)) :
    s.compareEntry k e = s := by
  rcases h with h | h | ⟨h, hnot⟩ | ⟨h, hk⟩
  · exact State.compareEntry_of_irrelevant hi h
  · exact State.compareEntry_of_decided e hi h
  · rw [State.compareEntry_of_claiming e hi h, if_neg]
    rintro ⟨-, ho, hf⟩
    rcases hnot with hnot | hnot
    · exact absurd (hnot.symm.trans ho) (by simp)
    · exact absurd (hf.symm.trans hnot) (by simp)
  · unfold State.compareEntry
    rw [hi]
    dsimp only
    rw [h, hk]
    cases i.beatenBy <;> simp

end Compare

/-! ### The delivery of a claim (R26, R48) -/

/-- The incident an entry is compared with. -/
def ClaimEntry.target (e : ClaimEntry) : IncidentKind := if e.kind = .locate then .ground else .arc

/-- The entry is made. -/
def State.logged (s : State) (e : ClaimEntry) : State := { s with sel := { s.sel with claimLog := logEntry s.now s.sel.claimLog e } }

/-- The entry is made and compared. -/
def State.compared (s : State) (e : ClaimEntry) : State := (s.logged e).compareEntry e.target e

section Delivered
variable (s : State) (e : ClaimEntry)

theorem State.claimDelivered_eq : s.claimDelivered e = if s.concurrentCase e = true then (s.compared e).setConcurrent else s.compared e := by
  unfold State.claimDelivered State.compared ClaimEntry.target State.logged
  cases e.kind <;> rfl

theorem State.concurrentCase_iff : s.concurrentCase e = true ↔ e.kind = .isolated ∧ e.cause = some .arc ∧
    ((∃ r d, s.sel.recent = some (r, d) ∧ ¬(r < e.rank ∨ (e.rank = r ∧ e.source < s.smu.address))) ∨
      ∃ i, s.sel.arc = some i ∧ i.kind = .arc ∧ i.round = s.smu.settings.arcRounds ∧ e.rank = 255) := by
  have hrecent : (match s.sel.recent with | some (rank, _) => !s.entryOutranks e rank | none => false) = true ↔
      ∃ r d, s.sel.recent = some (r, d) ∧ ¬(r < e.rank ∨ (e.rank = r ∧ e.source < s.smu.address)) := by
    cases h : s.sel.recent with
    | none => simp
    | some p =>
      obtain ⟨r, d⟩ := p
      simp [State.entryOutranks, ← outranks_iff]
  have hforced : (match s.sel.arc with | some i => s.forced i && e.rank == 255 | none => false) = true ↔
      ∃ i, s.sel.arc = some i ∧ i.kind = .arc ∧ i.round = s.smu.settings.arcRounds ∧ e.rank = 255 := by
    cases h : s.sel.arc with
    | none => simp
    | some i => simp [State.forced, and_assoc]
  have hcase : s.concurrentCase e = (e.kind == .isolated && e.cause == some .arc &&
      ((match s.sel.recent with | some (rank, _) => !s.entryOutranks e rank | none => false) ||
        (match s.sel.arc with | some i => s.forced i && e.rank == 255 | none => false))) := rfl
  rw [hcase, Bool.and_eq_true, Bool.and_eq_true, beq_iff_eq, beq_iff_eq, and_assoc, Bool.or_eq_true, hrecent, hforced]

/-- What an entry made and compared leaves. -/
theorem State.compared_keeps : (s.compared e).sel =
      { s.sel with claimLog := logEntry s.now s.sel.claimLog e, arc := (s.compared e).sel.arc, ground := (s.compared e).sel.ground } ∧
    (e.kind = .locate → (s.compared e).sel.arc = s.sel.arc) ∧ (e.kind ≠ .locate → (s.compared e).sel.ground = s.sel.ground) := by
  obtain ⟨o, l, -, h⟩ := (s.logged e).compareEntry_shape e.target e
  rw [State.compared, h, ClaimEntry.target]
  by_cases hk : e.kind = .locate
  · rw [if_pos hk]
    exact ⟨rfl, fun _ => rfl, fun h => absurd hk h⟩
  · rw [if_neg hk]
    exact ⟨rfl, fun h => absurd h hk, fun _ => rfl⟩

theorem State.compared_frame : Frame [.sel, .lnc] s (s.compared e) :=
  (show Frame [.sel, .lnc] s (s.logged e) by simp [State.logged, frame_sel, Frame.refl]).trans (State.compareEntry_frame _ _ _)

theorem State.claimDelivered_sel : (s.claimDelivered e).sel = { s.sel with
    claimLog := logEntry s.now s.sel.claimLog e, arc := (s.compared e).sel.arc, ground := (s.compared e).sel.ground,
    concurrent := if s.concurrentCase e = true then true else s.sel.concurrent } := by
  obtain ⟨hsel, -⟩ := s.compared_keeps e
  rw [State.claimDelivered_eq]
  split
  · rw [State.setConcurrent, hsel]
  · exact hsel

theorem State.claimDelivered_lnc (h : s.concurrentCase e = false) : (s.claimDelivered e).lnc = (s.compared e).lnc := by
  rw [State.claimDelivered_eq, if_neg (by rw [h]; simp)]

theorem length_afterWithdrawal_le (l : Lnc) (k : Kind) : (afterWithdrawal l k).queue.length ≤ l.queue.length := by
  unfold afterWithdrawal
  repeat' split
  · exact le_rfl
  · exact (List.length_map _).le
  · exact List.length_filter_le _ _

/-- A delivered claim enters no frame. -/
theorem State.claimDelivered_room : (s.claimDelivered e).lnc.queue.length ≤ s.lnc.queue.length ∧
    (s.claimDelivered e).lnc.nextEntry = s.lnc.nextEntry := by
  have hcompared : (s.compared e).lnc.queue.length ≤ s.lnc.queue.length ∧ (s.compared e).lnc.nextEntry = s.lnc.nextEntry := by
    obtain ⟨o, l, hl, h⟩ := (s.logged e).compareEntry_shape e.target e
    rw [State.compared, h, State.setIncident_lnc, State.setLnc_lnc]
    rcases hl with rfl | rfl
    · exact ⟨le_rfl, rfl⟩
    · exact ⟨length_afterWithdrawal_le _ _, afterWithdrawal_nextEntry _ _⟩
  rw [State.claimDelivered_eq]
  split
  · exact ⟨(List.length_map _).le.trans hcompared.1, hcompared.2⟩
  · exact hcompared

theorem State.claimDelivered_notes (h : s.concurrentCase e = true) : ∀ g ∈ (s.claimDelivered e).lnc.queue, g.flagNote = false := by
  rw [State.claimDelivered_eq, if_pos h]
  intro g hg
  obtain ⟨g', -, rfl⟩ := List.mem_map.1 hg
  rfl

end Delivered

/-- An injector whose window's status is fixed, its PROBE-CLOSE not yet handed over. -/
def State.closingWith (s : State) (w : Window) (st : WindowStatus) (r : Nat) : State :=
  s.setPrb { s.prb with window := some (w.closed st r), output := .released }

theorem State.closeInjection_eq (s : State) (w : Window) (st : WindowStatus) (r : Nat) : s.closeInjection w st r =
    let u := s.closingWith w st r
    if (u.enqueue (probeCloseFrame (w.closed st r))).2 = true then (u.enqueue (probeCloseFrame (w.closed st r))).1 else u.windowLost := rfl

theorem State.abortInjection_windowless {s : State} (hr : s.prb.role = .injecting) (hw : s.prb.window = none) (st : WindowStatus) :
    s.abortInjection st = s := by
  unfold State.abortInjection
  rw [hr, hw]

theorem State.abortInjection_disturbed {s : State} {w : Window} (hr : s.prb.role = .injecting) (hw : s.prb.window = some w) :
    s.abortInjection .disturbed =
      if w.phase = some .closing then (if w.status.isSome = true then s.setWindow { w with disturbed := true } else s)
      else s.closeInjection { w with disturbed := true } .disturbed rangeEnd := by
  unfold State.abortInjection
  rw [hr, hw]
  simp only [beq_self_eq_true, if_true, Bool.true_and, beq_iff_eq]

/-- The frames queued by a disturbed window carry no flag. -/
theorem State.probeDisturbed_queue (s : State) : ∀ g ∈ s.probeDisturbed.lnc.queue, g ∈ s.lnc.queue ∨ g.flagNote = false := by
  have henter (u : State) (f : QueuedFrame) (hf : f.flagNote = false) : ∀ g ∈ (u.enterFrame f).lnc.queue, g ∈ u.lnc.queue ∨ g.flagNote = false := by
    intro g hg
    rcases (mem_insertFrame _ _ _).1 hg with rfl | hg
    · exact .inr hf
    · exact .inl hg
  have hroom (u : State) (f : QueuedFrame) (hf : f.flagNote = false) : ∀ g ∈ (u.makeRoomAndEnter f).1.lnc.queue, g ∈ u.lnc.queue ∨ g.flagNote = false := by
    intro g hg
    rcases u.makeRoomAndEnter_cases f with h | ⟨h, -⟩ | ⟨old, -, -, h⟩ <;> rw [h] at hg
    · exact .inl hg
    · exact henter u f hf g hg
    · exact (henter (u.removeEntry old.entry) f hf g hg).imp_left fun hg => (List.mem_filter.1 hg).1
  have hlost (u : State) : u.windowLost.lnc = u.lnc := by
    cases hw : u.prb.window with
    | none => rw [State.windowLost, hw]
    | some w => rw [State.windowLost_of_window hw, State.setPrb_lnc]
  have henqueue (u : State) (f : QueuedFrame) (hk : f.kind = .probeClose) (hf : f.flagNote = false) :
      ∀ g ∈ (u.enqueue f).1.lnc.queue, g ∈ u.lnc.queue ∨ g.flagNote = false := by
    intro g hg
    unfold State.enqueue at hg
    rw [hk] at hg
    split at hg
    · exact .inl hg
    · exact hroom u f hf g hg
  have hclose (w : Window) (st : WindowStatus) (r : Nat) : ∀ g ∈ (s.closeInjection w st r).lnc.queue, g ∈ s.lnc.queue ∨ g.flagNote = false := by
    intro g hg
    rw [State.closeInjection_eq] at hg
    dsimp only at hg
    split at hg
    · exact henqueue (s.closingWith w st r) (probeCloseFrame (w.closed st r)) rfl rfl g hg
    · rw [hlost] at hg
      exact .inl hg
  have habort : ∀ g ∈ (s.abortInjection .disturbed).lnc.queue, g ∈ s.lnc.queue ∨ g.flagNote = false := by
    by_cases hr : s.prb.role = .injecting
    · cases hw : s.prb.window with
      | none =>
        rw [State.abortInjection_windowless hr hw]
        exact fun g hg => .inl hg
      | some w =>
        rw [State.abortInjection_disturbed hr hw]
        repeat' split
        · exact fun g hg => .inl hg
        · exact fun g hg => .inl hg
        · exact hclose _ _ _
    · rw [State.abortInjection_of_not_injecting _ hr]
      exact fun g hg => .inl hg
  unfold State.probeDisturbed
  split
  case h_3 => exact habort
  all_goals exact fun g hg => .inl hg

end Sys2Proof.Machine

/-! PROOFS. What a delivered claim leaves, incident by incident (R30, R36, R37, R42, R43). -/

namespace Sys2Proof.Machine

open Sys2Proof.Safety

/-- A delivered claim, its entry made, compared and tested, and the window known here disturbed by an ISOLATED. -/
def State.claimTaken (s : State) (e : ClaimEntry) : State := if e.kind = .isolated then (s.claimDelivered e).probeDisturbed else s.claimDelivered e

section Taken
variable (s : State) (e : ClaimEntry)

theorem State.claimTaken_sel : (s.claimTaken e).sel = (s.claimDelivered e).sel := by
  unfold State.claimTaken
  split
  · exact State.probeDisturbed_sel _
  · rfl

theorem State.claimTaken_frame : Frame [.sel, .prb, .lnc] s (s.claimTaken e) := by
  have hframe : Frame [.sel, .prb, .lnc] s (s.claimDelivered e) := (s.claimDelivered_frame e).mono (by simp)
  unfold State.claimTaken
  split
  · exact hframe.trans (State.probeDisturbed_frame _)
  · exact hframe

theorem State.claimDelivered_prb : (s.claimDelivered e).prb = s.prb := (s.claimDelivered_frame e).keeps .prb (by simp)

/-- Where no frame is queued for a disturbed window and no concurrent isolation shows, the queue is as the comparison leaves it. -/
theorem State.claimTaken_lnc (h : e.kind ≠ .isolated ∨ (s.prb.role ≠ .injecting ∧ s.concurrentCase e = false)) :
    (s.claimTaken e).lnc = (s.compared e).lnc := by
  unfold State.claimTaken
  by_cases hk : e.kind = .isolated
  · obtain ⟨hr, hc⟩ := h.resolve_left (not_not.2 hk)
    rw [if_pos hk, State.probeDisturbed_lnc (by rw [State.claimDelivered_prb]; exact hr), State.claimDelivered_lnc s e hc]
  · have hc : s.concurrentCase e = false := by
      rw [← Bool.not_eq_true, State.concurrentCase_iff]
      exact fun h => hk h.1
    rw [if_neg hk, State.claimDelivered_lnc s e hc]

theorem State.claimTaken_notes (h : s.concurrentCase e = true) : ∀ g ∈ (s.claimTaken e).lnc.queue, g.flagNote = false := by
  unfold State.claimTaken
  split
  · exact fun g hg => ((s.claimDelivered e).probeDisturbed_queue g hg).elim (s.claimDelivered_notes e h g) id
  · exact s.claimDelivered_notes e h

end Taken

/-! ### The incident compared -/

section Compared
variable {s : State} {e : ClaimEntry} {i : Incident}

theorem State.compared_without (h : s.incident e.target = none) : s.compared e = s.logged e := by
  have hi : (s.logged e).incident e.target = none := (show (s.logged e).incident e.target = s.incident e.target by cases e.target <;> rfl).trans h
  unfold State.compared State.compareEntry
  rw [hi]

theorem State.logged_incident (s : State) (e : ClaimEntry) (k : IncidentKind) : (s.logged e).incident k = s.incident k := by cases k <;> rfl

theorem State.compared_stands (hi : s.incident e.target = some i)
    (h : relevant i e = false ∨ i.state = .decided ∨
      (i.state = .claiming ∧ (s.entryOutranks e i.rank = false ∨ s.forced i = true)) ∨ (i.state = .yielded ∧ i.kind = .ground)) :
    s.compared e = s.logged e :=
  State.compareEntry_stands (s := s.logged e) ((s.logged_incident e _).trans hi) h

theorem State.compared_beatenBy {b : Beaten} (hi : s.incident e.target = some i) (hk : i.kind = .arc) (hs : i.state = .yielded)
    (hb : i.beatenBy = some b) : s.compared e = if relevant i e = true ∧ outranks e.rank e.source b.rank b.source = true
      then (s.logged e).setIncident e.target (some { i with beatenBy := some { source := e.source, rank := e.rank } }) else s.logged e :=
  State.compareEntry_of_yielded e ((s.logged_incident e _).trans hi) hs hk hb

theorem State.compared_yields (hi : s.incident e.target = some i) (hs : i.state = .claiming) (hr : relevant i e = true)
    (ho : s.entryOutranks e i.rank = true) (hf : s.forced i = false) :
    (i.claim ≠ .queued ∨ s.queuedOf e.target.frame = none →
      (s.compared e).incident e.target = some (i.yieldedTo e) ∧ (s.compared e).lnc = s.lnc) ∧
    ∀ g, i.claim = .queued → s.queuedOf e.target.frame = some g →
      (s.lnc.sending ≠ some g.entry → (s.compared e).incident e.target = some { i.yieldedTo e with claim := .withdrawn } ∧
        (s.compared e).lnc = { s.lnc with queue := s.lnc.queue.filter fun h => h.entry != g.entry }) ∧
      (s.lnc.sending = some g.entry → (s.compared e).incident e.target = some (i.yieldedTo e) ∧ (s.compared e).lnc =
        { s.lnc with queue := s.lnc.queue.map fun h => if h.entry = g.entry then { h with withdrawAsked := true } else h }) :=
  State.compareEntry_yields (s := s.logged e) ((s.logged_incident e _).trans hi) hs hr ho hf

end Compared

theorem State.entryOutranks_iff (s : State) (e : ClaimEntry) (rank : Nat) :
    s.entryOutranks e rank = true ↔ rank < e.rank ∨ (e.rank = rank ∧ e.source < s.smu.address) := outranks_iff _ _ _ _

theorem State.forced_iff {s : State} {i : Incident} (hk : i.kind = .arc) : s.forced i = true ↔ i.round = s.smu.settings.arcRounds := by
  simp [State.forced, hk]

theorem relevant_ground {i : Incident} {e : ClaimEntry} {t : Tag} (hk : i.kind = .ground) (he : e.kind = .locate) (ht : e.tag = some t) :
    relevant i e = true ↔ i.tag = some t := by
  simp only [relevant, hk, he, ht]
  simp
  exact eq_comm

/-- Settles O46. -/
theorem claimFramesAreLoggedAndCompared : Obligations.ClaimFramesAreLoggedAndCompared := by
  intro s f kind e cause tag hkind t log isSame beats concurrent quiet kept yields
  have hrank : e.rank = f.rank := by rcases hkind with ⟨-, rfl⟩ | ⟨-, rfl⟩ | ⟨-, rfl⟩ <;> rfl
  have hsource : e.source = f.source := by rcases hkind with ⟨-, rfl⟩ | ⟨-, rfl⟩ | ⟨-, rfl⟩ <;> rfl
  have hisolated : e.kind = .isolated ↔ kind = .isolated := by rcases hkind with ⟨rfl, rfl⟩ | ⟨rfl, rfl⟩ | ⟨rfl, rfl⟩ <;> simp
  have hlocate : e.kind = .locate ↔ kind = .locate := by rcases hkind with ⟨rfl, rfl⟩ | ⟨rfl, rfl⟩ | ⟨rfl, rfl⟩ <;> simp
  have hclaim : e.kind = .arcClaim ↔ kind = .arcClaim := by rcases hkind with ⟨rfl, rfl⟩ | ⟨rfl, rfl⟩ | ⟨rfl, rfl⟩ <;> simp
  have hcause (h : kind = .isolated) : e.cause = cause := by
    rcases hkind with ⟨hk, -⟩ | ⟨-, rfl⟩ | ⟨hk, -⟩
    · exact absurd (hk.symm.trans h) (by decide)
    · rfl
    · exact absurd (hk.symm.trans h) (by decide)
  have htag (h : kind = .locate) : e.tag = some tag := by
    rcases hkind with ⟨hk, -⟩ | ⟨hk, -⟩ | ⟨-, rfl⟩
    · exact absurd (hk.symm.trans h) (by decide)
    · exact absurd (hk.symm.trans h) (by decide)
    · rfl
  have ht : t = s.claimTaken e := by
    rcases hkind with ⟨rfl, rfl⟩ | ⟨rfl, rfl⟩ | ⟨rfl, rfl⟩ <;> rfl
  have hconcurrent : s.concurrentCase e = true ↔ concurrent := by
    rw [State.concurrentCase_iff, hrank, hsource, hisolated]
    constructor
    · rintro ⟨hk, hc, h⟩
      exact ⟨hk, (hcause hk).symm.trans hc, h⟩
    · rintro ⟨hk, hc, h⟩
      exact ⟨hk, (hcause hk).trans hc, h⟩
  have hsel : t.sel = { s.sel with
      claimLog := logEntry s.now log e, arc := (s.compared e).sel.arc, ground := (s.compared e).sel.ground,
      concurrent := if s.concurrentCase e = true then true else s.sel.concurrent } := by
    rw [ht, State.claimTaken_sel, State.claimDelivered_sel]
  have hframe : Frame [.sel, .prb, .lnc] s t := ht ▸ s.claimTaken_frame e
  have hlnc (hq : quiet) : t.lnc = (s.compared e).lnc := by
    rw [ht]
    refine s.claimTaken_lnc e ?_
    rw [Ne, hisolated, ← Bool.not_eq_true, hconcurrent]
    exact hq
  obtain ⟨-, harc, hground⟩ := s.compared_keeps e
  have hclaimLog : t.sel.claimLog = logEntry s.now log e := by rw [hsel]
  have hheld (k : IncidentKind) : t.incident k = (s.compared e).incident k := by
    cases k <;> simp only [State.incident, hsel]
  have hstands (h : s.compared e = s.logged e) {k : IncidentKind} {i : Incident} (hi : s.incident k = some i) : kept i (t.incident k) := by
    refine ⟨?_, fun hq => ?_⟩
    · rw [hheld, h, State.logged_incident, hi]
    · rw [hlnc hq, h]
      rfl
  have hyields {i : Incident} (hi : s.incident e.target = some i) (hs : i.state = .claiming) (hr : relevant i e = true)
      (ho : s.entryOutranks e i.rank = true) (hf : s.forced i = false) : yields i e.target.frame (t.incident e.target) := by
    have hy : i.yieldedTo e = { i with state := .yielded, beatenBy := some { source := f.source, rank := f.rank } } := by
      rw [Incident.yieldedTo, hrank, hsource]
    obtain ⟨hnone, hsome⟩ := State.compared_yields hi hs hr ho hf
    rw [hy, ← hheld] at hnone
    refine ⟨fun h => ⟨(hnone h).1, fun hq => (hlnc hq).trans (hnone h).2⟩, fun g hc hg => ?_⟩
    obtain ⟨hwaiting, hattempt⟩ := hsome g hc hg
    rw [hy, ← hheld] at hwaiting hattempt
    exact ⟨fun h => ⟨(hwaiting h).1, fun hq => (hlnc hq).trans (hwaiting h).2⟩, fun h => ⟨(hattempt h).1, fun hq => (hlnc hq).trans (hattempt h).2⟩⟩
  have hbeats (rank : Nat) : s.entryOutranks e rank = true ↔ beats rank s.smu.address := by rw [State.entryOutranks_iff, hrank, hsource]
  have hnotBeats (rank : Nat) (h : ¬beats rank s.smu.address) : s.entryOutranks e rank = false := by
    rw [← Bool.not_eq_true, hbeats]
    exact h
  have hwithout {k : IncidentKind} (hk : e.target = k) (hi : s.incident k = none) : t.incident k = none ∧ (quiet → t.lnc = s.lnc) := by
    subst hk
    refine ⟨?_, fun hq => ?_⟩
    · rw [hheld, State.compared_without hi, State.logged_incident, hi]
    · rw [hlnc hq, State.compared_without hi]
      rfl
  refine ⟨fun h => hclaimLog.trans (logEntry_replaced h), fun h hroom => hclaimLog.trans (logEntry_added h hroom), fun h hfull => ?_,
    fun h => ⟨?_, ?_⟩, fun h => ?_, by rw [hsel], by rw [hsel], hframe.keeps .swc (by simp), hframe.keeps .smu (by simp),
    hframe.keeps .eve (by simp), hframe.keeps .pvw (by simp), fun h => ?_, fun h => ⟨?_, fun hi => ?_, fun i hi hk => ⟨fun hs htagged hb => ?_, fun hnot => ?_⟩⟩,
    fun h => ⟨?_, fun hi => ?_, fun i hi hk => ?_⟩⟩
  · obtain ⟨old, hold, hage, hlog⟩ := logEntry_full (now := s.now) h hfull
    exact ⟨old, hold, hage, hclaimLog.trans hlog⟩
  · rw [hsel]
    exact if_pos (hconcurrent.2 h)
  · rw [ht]
    exact s.claimTaken_notes e (hconcurrent.2 h)
  · rw [hsel]
    exact if_neg fun hc => h (hconcurrent.1 hc)
  · rw [ht, State.claimTaken, if_neg (by rw [hisolated]; exact h), State.claimDelivered_prb]
  · rw [hsel]
    exact harc (hlocate.2 h)
  · obtain ⟨hnone, hsame⟩ := hwithout (if_pos (hlocate.2 h)) (show s.incident .ground = none from hi)
    exact ⟨hnone, hsame (.inl (by rw [h]; decide))⟩
  · have htarget : e.target = .ground := if_pos (hlocate.2 h)
    have hground := hyields (i := i) (by rw [htarget]; exact hi) hs ((relevant_ground hk (hlocate.2 h) (htag h)).2 htagged) ((hbeats i.rank).2 hb)
      (by simp [State.forced, hk])
    rw [htarget] at hground
    exact hground
  · refine hstands (k := .ground) (State.compared_stands (by rw [show e.target = .ground from if_pos (hlocate.2 h)]; exact hi) ?_) hi
    cases hs : i.state with
    | decided => exact .inr (.inl rfl)
    | yielded => exact .inr (.inr (.inr ⟨rfl, hk⟩))
    | claiming =>
      rcases hnot with hnot | hnot | hnot
      · exact absurd hs hnot
      · exact .inl (by rw [← Bool.not_eq_true, relevant_ground hk (hlocate.2 h) (htag h)]; exact hnot)
      · exact .inr (.inr (.inl ⟨rfl, .inl (hnotBeats _ hnot)⟩))
  · rw [hsel]
    exact hground (by rwa [Ne, hlocate])
  · exact hwithout (k := .arc) (if_neg (by rwa [hlocate])) hi
  · have htarget : e.target = .arc := if_neg (by rwa [hlocate])
    have hi' : s.incident e.target = some i := by rw [htarget]; exact hi
    intro isRelevant
    have hrelevant : relevant i e = true ↔ isRelevant := by
      rw [relevant_arc hk, hclaim, hisolated]
      refine or_congr_right' fun hnot => ?_
      have hiso : kind = .isolated := by
        rcases hkind with ⟨hk', -⟩ | ⟨hk', -⟩ | ⟨hk', -⟩
        · exact absurd hk' hnot
        · exact hk'
        · exact absurd hk' h
      rw [hcause hiso, hsource]
      exact and_iff_right hiso
    have hirrelevant (hnot : ¬isRelevant) : relevant i e = false := by rwa [← Bool.not_eq_true, hrelevant]
    refine ⟨fun hnot => ?_, fun hrel hs => ⟨fun hb hround => ?_, fun hnot => ?_⟩, fun b hrel hs hb => ⟨fun hbeat => ?_, fun hbeat => ?_⟩⟩
    · exact hstands (k := .arc) (State.compared_stands hi' (hnot.imp hirrelevant .inl)) hi
    · have harc := hyields hi' hs (hrelevant.2 hrel) ((hbeats i.rank).2 hb)
        (by rw [← Bool.not_eq_true, State.forced_iff hk]; exact hround)
      rw [htarget] at harc
      exact harc
    · refine hstands (k := .arc) (State.compared_stands hi' (.inr (.inr (.inl ⟨hs, ?_⟩)))) hi
      exact hnot.imp (hnotBeats _) (State.forced_iff hk).2
    · have hoverridden := State.compared_beatenBy hi' hk hs hb
      rw [if_pos ⟨hrelevant.2 hrel, by rw [outranks_iff, hrank, hsource]; exact hbeat⟩, htarget, hrank, hsource] at hoverridden
      refine ⟨?_, fun hq => ?_⟩
      · rw [hsel, hoverridden]
        rfl
      · rw [hlnc hq, hoverridden]
        rfl
    · have hstays := State.compared_beatenBy hi' hk hs hb
      rw [if_neg (by rw [outranks_iff, hrank, hsource]; exact fun h => hbeat h.2)] at hstays
      exact hstands (k := .arc) hstays hi

end Sys2Proof.Machine

/-! PROOFS. PROBE-OPEN, PROBE-CLOSE and ISOLATED in every probe role (R62, R63, R68 to R70, R72, R73, R75, R76, R81, R87 to R89, R92). -/

namespace Sys2Proof.Machine

open Sys2Proof.Safety

/-! ### A listener enters a window (R75, R76) -/

theorem paramsUsable_iff (hp np settle : Nat) : paramsUsable hp np settle = true ↔
    200 ≤ hp ∧ hp ≤ 2000 ∧ 4 ≤ np ∧ np ≤ 16 ∧ np % 2 = 0 ∧ 50 ≤ settle ∧ settle ≤ 1000 ∧ settle ≤ hp / 2 := by
  simp only [paramsUsable, Bool.and_eq_true, decide_eq_true_eq, beq_iff_eq, and_assoc]

/-- The window of a listener as a PROBE-OPEN gives it. -/
def State.heardWindow (s : State) (f : Received) : Window :=
  let hp := (charAt f.payload 1).toNat * 100
  let np := (charAt f.payload 2).toNat
  let settle := (charAt f.payload 3).toNat * 10
  let chp := clampNat 200 2000 hp
  let cnp := clampNat 4 16 np / 2 * 2
  { newWindow { injector := f.source, sequence := (charAt f.payload 0).toNat } chp cnp (min (clampNat 50 1000 settle) (chp / 2)) s.now
      s.balanceCapture with
    usable := paramsUsable hp np settle, wMaxAt := some (s.now.plus (500 + cnp * chp + 1000)) }

theorem State.enterListening_eq (s : State) (f : Received) : s.enterListening f =
    s.setPrb { s.prb with role := .listening, alarmCount := 0, window := some (s.heardWindow f) } := rfl

/-- The settings of a listener's window lie in their ranges, and are those carried when these are usable. -/
theorem State.heardWindow_settings (s : State) (f : Received) :
    50 ≤ (s.heardWindow f).settle ∧
    ((s.heardWindow f).usable = true → (s.heardWindow f).hp = (charAt f.payload 1).toNat * 100 ∧
      (s.heardWindow f).np = (charAt f.payload 2).toNat ∧ (s.heardWindow f).settle = (charAt f.payload 3).toNat * 10) := by
  unfold State.heardWindow newWindow clampNat
  refine ⟨?_, fun h => ?_⟩
  · dsimp only
    omega
  · have husable := (paramsUsable_iff _ _ _).1 h
    dsimp only
    omega

section Opened
variable {s : State} {f : Received}

theorem State.probeOpenTaken_of_none (hr : s.prb.role = .none) : s.probeOpenTaken f = if s.probingBarred = true then s else s.enterListening f := by
  unfold State.probeOpenTaken State.probeOpenDelivered
  rw [hr]

theorem State.probeOpenTaken_of_listening (hr : s.prb.role = .listening) : s.probeOpenTaken f = s := by
  unfold State.probeOpenTaken State.probeOpenDelivered
  rw [hr]

theorem State.probeOpenTaken_of_waiting {g : QueuedFrame} (hr : s.prb.role = .pending) (hg : s.queuedOf .probeOpen = some g)
    (hs : s.lnc.sending ≠ some g.entry) :
    s.probeOpenTaken f = ((s.removeEntry g.entry).setPrb { s.prb with role := .none, byDue := false }).enterListening f := by
  unfold State.probeOpenTaken State.probeOpenDelivered
  rw [hr]
  dsimp only
  rw [State.withdrawProbeOpen_of_waiting hr hg hs]
  rfl

theorem State.probeOpenTaken_of_injecting {w : Window} (hr : s.prb.role = .injecting) (hw : s.prb.window = some w) :
    s.probeOpenTaken f = if w.phase = some .closing then s else s.closeInjection { w with disturbed := true } .disturbed rangeEnd := by
  have hdelivered : s.probeOpenDelivered f = s.abortInjection .disturbed := by
    unfold State.probeOpenDelivered
    rw [hr]
  unfold State.probeOpenTaken
  rw [hr, hw]
  dsimp only
  rw [hdelivered]
  by_cases hp : w.phase = some .closing
  · rw [if_pos hp, if_pos (by rw [hp]; rfl)]
  · rw [if_neg hp, if_neg (by simpa using hp), State.abortInjection_disturbed hr hw, if_neg hp]

/-- A PROBE-CLOSE that finds no place in the queue loses the window. -/
theorem State.closeInjection_refused {w : Window} {st : WindowStatus} {r : Nat} (ha : s.smu.address ≠ 0) (hfull : 16 ≤ s.lnc.queue.length)
    (hnone : ∀ g ∈ s.lnc.queue, g.kind ≠ .status ∧ g.kind ≠ .answer) : s.closeInjection w st r = s.setPrb s.prbAfterLoss := by
  have hrefused : (s.closingWith w st r).enqueue (probeCloseFrame (w.closed st r)) = (s.closingWith w st r, false) := by
    rw [State.enqueue_of_not_status (by exact ha) (by simp [probeCloseFrame, newFrame]) (by simp [probeCloseFrame, newFrame, Kind.single]),
      State.makeRoomAndEnter_of_full (by exact hfull) fun g hg => ?_]
    rw [← Bool.not_eq_true, State.evictable_iff]
    exact fun h => h.1.elim (hnone g hg).1 (hnone g hg).2
  have hlost (u : State) (hu : u.smu.address ≠ 0) : u.prbAfterLoss = { u.prb with
      role := .none, window := none, output := .released, lastEnd := some u.now, alarmArmed := true, staggerAt := none, alarmCount := 0 } :=
    if_neg hu
  rw [State.closeInjection_eq]
  dsimp only
  rw [hrefused, if_neg (by simp), State.windowLost_of_window (w := w.closed st r) rfl, hlost s ha, hlost (s.closingWith w st r) (by exact ha)]
  rfl

/-- The PROBE-CLOSE of a disturbed injection, as it stands in the queue. -/
theorem probeCloseFrame_disturbed (w : Window) : probeCloseFrame ({ w with disturbed := true }.closed .disturbed rangeEnd) =
    newFrame .probeClose 0 [BitVec.ofNat 8 w.tag.sequence, 4, BitVec.ofNat 8 w.halvesInjected, 255, 255] := by
  rw [probeCloseFrame_closed, rangeEnd, unsigned16_rangeEnd]
  rfl

/-! ### A disturbed window (R68, R69, R87) -/

theorem State.probeDisturbed_of_apart (h : s.prb.role = .none ∨ s.prb.role = .pending) : s.probeDisturbed = s := by
  unfold State.probeDisturbed
  rcases h with h | h <;> rw [h]

theorem State.probeDisturbed_of_listening {w : Window} (hr : s.prb.role = .listening) (hw : s.prb.window = some w) :
    s.probeDisturbed = s.setWindow { w with disturbed := true } := by
  unfold State.probeDisturbed
  rw [hr, hw]

theorem State.probeDisturbed_of_injecting {w : Window} (hr : s.prb.role = .injecting) (hw : s.prb.window = some w) : s.probeDisturbed =
    if w.phase = some .closing then (if w.status.isSome = true then s.setWindow { w with disturbed := true } else s)
    else s.closeInjection { w with disturbed := true } .disturbed rangeEnd := by
  rw [← State.abortInjection_disturbed hr hw]
  unfold State.probeDisturbed
  rw [hr]

/-! ### A PROBE-CLOSE (R72, R81, R88, R89) -/

section Closed
variable {st : WindowStatus} (hst : WindowStatus.ofCode (charAt f.payload 1).toNat = some st)
include hst

/-- The R_iso a PROBE-CLOSE carries. -/
def Received.riso (f : Received) : Nat := word16 (charAt f.payload 3) (charAt f.payload 4)

theorem State.probeCloseDelivered_elsewhere (hr : s.prb.role ≠ .listening) :
    s.probeCloseDelivered f = s.setPrb (s.prbSeen (st == .ok) f.riso) := by
  rw [← State.windowEndSeen_close]
  unfold State.probeCloseDelivered
  rw [hst]
  dsimp only
  cases h : s.prb.role with
  | listening => exact absurd h hr
  | none => rfl
  | pending => rfl
  | injecting => rfl

variable {w : Window} (hr : s.prb.role = .listening) (hw : s.prb.window = some w)
include hr hw

theorem State.probeCloseDelivered_listening : s.probeCloseDelivered f =
    if w.tag = { injector := f.source, sequence := (charAt f.payload 0).toNat } then
      s.listenerMatched w st (charAt f.payload 2).toNat f.riso
    else s.setPrb { s.prbSeen (st == .ok) f.riso with role := .none, window := none, output := .released } := by
  have htag : (w.tag.injector == f.source && w.tag.sequence == (charAt f.payload 0).toNat) =
      decide (w.tag = { injector := f.source, sequence := (charAt f.payload 0).toNat }) := by
    rw [Bool.eq_iff_iff, Bool.and_eq_true, beq_iff_eq, beq_iff_eq, decide_eq_true_eq]
    exact ⟨fun ⟨hi, hsq⟩ => by rw [← hi, ← hsq], fun h => by rw [h]; exact ⟨rfl, rfl⟩⟩
  unfold State.probeCloseDelivered
  rw [hst, hr, hw]
  dsimp only
  rw [htag]
  simp only [decide_eq_true_eq]
  congr 1
  unfold State.listenerEnd
  rw [State.windowReport_empty]
  dsimp only
  rw [if_pos rfl, State.windowEndSeen_close]
  rfl

end Closed

/-- Half NP is decided by the PROBE-CLOSE of a listener's window (R81). -/
def Window.lastHalfValid (w : Window) (st : WindowStatus) : Bool :=
  decide (st = .ok ∧ w.halfCount = w.np ∧ (w.tracker = .upHalf ∨ w.tracker = .downHalf))

/-- The half table of a listener's window at its end. -/
def Window.endRows (w : Window) (st : WindowStatus) : List Half :=
  match w.halves.getLast? with
  | none => []
  | some h => if h.valid = none then w.halves.dropLast ++ [{ h with length := none, valid := some (w.lastHalfValid st) }] else w.halves

/-- The half table as the model decides it at the end of a listener's window. -/
def Window.decidedRows (w : Window) (st : WindowStatus) : List Half :=
  match w.halves.getLast? with
  | none => w.halves
  | some h => if h.valid.isNone then
      decideLast w.halves none (st == .ok && w.halfCount == w.np && (w.tracker == .upHalf || w.tracker == .downHalf)) else w.halves

theorem Window.decidedRows_eq (w : Window) (st : WindowStatus) : w.decidedRows st = w.endRows st := by
  have hlast : (st == .ok && w.halfCount == w.np && (w.tracker == .upHalf || w.tracker == .downHalf)) = w.lastHalfValid st := by
    rw [Bool.eq_iff_iff, Window.lastHalfValid, decide_eq_true_eq]
    simp only [Bool.and_eq_true, Bool.or_eq_true, beq_iff_eq, and_assoc]
  rw [Window.decidedRows, hlast, Window.endRows]
  rcases List.eq_nil_or_concat w.halves with hnil | ⟨hs, h, hh⟩
  · rw [hnil]
    rfl
  · rw [hh, List.concat_eq_append, List.getLast?_concat]
    dsimp only
    rw [decideLast_concat, List.dropLast_concat]
    simp only [Option.isNone_iff_eq_none]

/-- A listener's window that its PROBE-CLOSE ends gives a result (R88). -/
abbrev Window.good (w : Window) (st : WindowStatus) (n : Nat) : Prop := st = .ok ∧ w.usable = true ∧ w.disturbed = false ∧ n = w.np

theorem State.listenerMatched_eq (s : State) (w : Window) (st : WindowStatus) (n riso : Nat) :
    s.listenerMatched w st n riso =
      (s.windowReport { tag := w.tag, status := some st, disturbed := w.disturbed,
                        result := if w.good st n then s.bestString (w.endRows st) else none, riso := riso }).setPrb
        { s.prbSeen (st == .ok) riso with
          role := .none, window := none, output := .released
          balRef := if w.good st n ∧ s.smu.settings.gfTrip ≤ riso then w.capture
            else if st = .ok ∧ w.disturbed = false ∧ s.smu.settings.gfTrip ≤ riso ∧ Config.takesCapture w.usable (n == w.np) = true then w.capture
            else s.prb.balRef } := by
  have hgood : (st == .ok && (w.usable && n == w.np) && !w.disturbed) = decide (w.good st n) := by
    rw [Bool.eq_iff_iff, decide_eq_true_eq, Window.good]
    simp only [Bool.and_eq_true, Bool.not_eq_true', beq_iff_eq]
    tauto
  have hdef : s.listenerMatched w st n riso =
      (((s.windowReport { tag := w.tag, status := some st, disturbed := w.disturbed,
                          result := if st == .ok && (w.usable && n == w.np) && !w.disturbed then s.bestString (w.decidedRows st) else none,
                          riso := riso }).windowEndSeen (some (st == .ok, riso))).considerReference w
        (st == .ok && ((w.usable && n == w.np) || Config.takesCapture w.usable (n == w.np))) riso).discardWindow := rfl
  rw [hdef, hgood, Window.decidedRows_eq]
  simp only [decide_eq_true_eq]
  have hframe := s.windowReport_frame { tag := w.tag, status := some st, disturbed := w.disturbed,
                                        result := if w.good st n then s.bestString (w.endRows st) else none, riso := riso }
  generalize s.windowReport _ = u at hframe ⊢
  have hprb : u.prb = s.prb := hframe.keeps .prb (by simp)
  have hsmu : u.smu = s.smu := hframe.keeps .smu (by simp)
  have hseen : u.prbSeen (st == .ok) riso = s.prbSeen (st == .ok) riso := by simp only [State.prbSeen, hprb, hsmu, hframe.2.1]
  have href : (s.prbSeen (st == .ok) riso).balRef = s.prb.balRef := (s.prbSeen_rest _ _).2
  have hcapture : ((st == .ok && ((w.usable && n == w.np) || Config.takesCapture w.usable (n == w.np))) = true ∧ w.disturbed = false ∧
      s.smu.settings.gfTrip ≤ riso) ↔ (w.good st n ∧ s.smu.settings.gfTrip ≤ riso) ∨
        (st = .ok ∧ w.disturbed = false ∧ s.smu.settings.gfTrip ≤ riso ∧ Config.takesCapture w.usable (n == w.np) = true) := by
    rw [Window.good]
    simp only [Bool.and_eq_true, Bool.or_eq_true, beq_iff_eq]
    tauto
  rw [State.windowEndSeen_close, State.considerReference_eq, hseen]
  unfold State.discardWindow
  simp only [State.setPrb_prb, State.setPrb_smu, hsmu, hcapture, href, ite_or]
  rfl

end Opened

/-- Settles O47. -/
theorem probeFramesOpenAndEndWindows : Obligations.ProbeFramesOpenAndEndWindows := by
  intro s f opened ended entered
  have hentered : entered (s.heardWindow f) := by
    obtain ⟨hsettle, hcarried⟩ := s.heardWindow_settings f
    exact ⟨rfl, rfl, rfl, rfl, rfl, hsettle, rfl, rfl, rfl, rfl, s.balanceCapture_eq, rfl, paramsUsable_iff _ _ _, hcarried⟩
  have hopened : opened = s.probeOpenTaken f := rfl
  refine ⟨fun hr => ⟨fun hstop hlock => ⟨s.heardWindow f, hentered, ?_⟩, fun h => ?_⟩, fun g hr hg hs => ⟨s.heardWindow f, hentered, ?_⟩,
    fun hr => hopened.trans (State.probeOpenTaken_of_listening hr), fun w hr hw => ⟨fun hp => ?_, fun hp ha hroom => ?_, fun hp ha hfull hnone => ?_⟩,
    ?_, fun st hst => ?_⟩
  · rw [hopened, State.probeOpenTaken_of_none hr, (s.probingBarred_eq_false).2 ⟨hstop, hlock⟩, if_neg Bool.false_ne_true, State.enterListening_eq]
    rfl
  · have hbarred : s.probingBarred = true := by
      rw [← Bool.not_eq_false, State.probingBarred_eq_false]
      rintro ⟨hstop, hlock⟩
      rcases h with h | h
      · exact h hstop
      · exact absurd h (by rw [hlock]; exact Bool.false_ne_true)
    rw [hopened, State.probeOpenTaken_of_none hr, if_pos hbarred]
  · rw [hopened, State.probeOpenTaken_of_waiting hr hg hs, State.enterListening_eq]
    rfl
  · rw [hopened, State.probeOpenTaken_of_injecting hr hw, if_pos hp]
  · rw [hopened, State.probeOpenTaken_of_injecting hr hw, if_neg hp, State.closeInjection_of_room _ _ _ ha hroom, probeCloseFrame_disturbed]
    rfl
  · rw [hopened, State.probeOpenTaken_of_injecting hr hw, if_neg hp, State.closeInjection_refused ha hfull hnone, State.prbAfterLoss, if_neg ha]
    rfl
  · have hdeliver : s.deliver .isolated f = (s.claimDelivered (s.claimOf .isolated f)).probeDisturbed := rfl
    have hprb := s.claimDelivered_prb (s.claimOf .isolated f)
    have hsmu : (s.claimDelivered (s.claimOf .isolated f)).smu = s.smu := (s.claimDelivered_frame _).keeps .smu (by simp)
    obtain ⟨hlength, hnext⟩ := s.claimDelivered_room (s.claimOf .isolated f)
    rw [hdeliver]
    generalize s.claimDelivered (s.claimOf .isolated f) = u at hprb hsmu hlength hnext ⊢
    rw [← hprb]
    refine ⟨fun h => by rw [State.probeDisturbed_of_apart h], fun w hr hw => by rw [State.probeDisturbed_of_listening hr hw]; rfl,
      fun w hr hw => ⟨fun hp hstatus => ?_, fun hp ha hroom => ?_⟩⟩
    · rw [State.probeDisturbed_of_injecting hr hw, if_pos hp, if_pos (Option.isSome_iff_ne_none.2 hstatus)]
      rfl
    · rw [State.probeDisturbed_of_injecting hr hw, if_neg hp,
        State.closeInjection_of_room _ _ _ (by rw [hsmu]; exact ha) (hlength.trans_lt hroom), probeCloseFrame_disturbed]
      exact ⟨rfl, _, State.enterFrame_mem _ _, rfl, rfl, hnext, rfl⟩
  · intro riso heard seen gone
    have hseen : s.prbSeen (st == .ok) f.riso = seen := by
      unfold State.prbSeen
      simp only [beq_iff_eq]
      rfl
    have hended : ended = s.probeCloseDelivered f := rfl
    refine ⟨fun hr => ?_, fun w hr hw => ⟨fun htag => ?_, fun htag => ?_⟩⟩
    · rw [hended, State.probeCloseDelivered_elsewhere hst hr, hseen]
      rfl
    · rw [hended, State.probeCloseDelivered_listening hst hr hw, if_neg (by exact htag), hseen]
      rfl
    · intro last rows good
      rw [hended, State.probeCloseDelivered_listening hst hr hw, if_pos (by exact htag), State.listenerMatched_eq, hseen]
      rfl

end Sys2Proof.Machine

/-! PROOFS. Stops: incidents superseded, the part in a window ended, the Stop Set (R46, R62, R68, R91, R124 to R127, R171). -/

namespace Sys2Proof.Machine

open Sys2Proof.Safety

/-! ### Every incident closes as superseded (R46) -/

/-- Frames of a sound queue with one entry number are one. -/
theorem eq_of_entry_eq {l : Lnc} (h : QueueSound l) {f g : QueuedFrame} (hf : f ∈ l.queue) (hg : g ∈ l.queue) (he : f.entry = g.entry) : f = g := by
  obtain ⟨-, -, -, hentries, -⟩ := h
  exact List.inj_on_of_nodup_map (List.pairwise_map.2 hentries) hf hg he

/-- In a sound queue a frame of a kind held once is the queued one of its kind. -/
theorem State.queuedOf_of_mem {s : State} {g : QueuedFrame} (h : QueueSound s.lnc) (hk : g.kind.once) (hg : g ∈ s.lnc.queue) :
    s.queuedOf g.kind = some g := by
  cases hq : s.queuedOf g.kind with
  | none => exact absurd rfl (State.queuedOf_none.1 hq g hg)
  | some f =>
    obtain ⟨hf, hfk⟩ := State.queuedOf_mem hq
    by_contra hne
    have hentry : g.entry ≠ f.entry := fun he => hne (congrArg some (eq_of_entry_eq h hf hg he.symm))
    exact none_left_of_once h hf (hfk.symm ▸ hk) g (List.mem_filter.2 ⟨hg, by simpa using hentry⟩) hfk.symm

/-- A withdrawal leaves the frames of other kinds. -/
theorem mem_afterWithdrawal {l : Lnc} {k : Kind} {g : QueuedFrame} (h : QueueSound l) (hg : g ∈ l.queue) (hk : g.kind ≠ k) :
    g ∈ (afterWithdrawal l k).queue := by
  unfold afterWithdrawal
  split
  · exact hg
  next f hf =>
    have hfk : f.kind = k := by simpa using List.find?_some hf
    have hentry : g.entry ≠ f.entry := fun he => hk (eq_of_entry_eq h hg (List.mem_of_find?_eq_some hf) he ▸ hfk)
    split
    · exact List.mem_map.2 ⟨g, hg, if_neg hentry⟩
    · exact List.mem_filter.2 ⟨hg, by simpa using hentry⟩

@[simp] theorem afterWithdrawal_breakEndAt (l : Lnc) (k : Kind) : (afterWithdrawal l k).breakEndAt = l.breakEndAt := by
  unfold afterWithdrawal
  repeat' split
  all_goals rfl

/-- The LNC after the claims of closing incidents are withdrawn: the frames of other kinds stay. -/
structure ClaimsWithdrawn (l l' : Lnc) : Prop where
  sending : l'.sending = l.sending
  nextEntry : l'.nextEntry = l.nextEntry
  breakEndAt : l'.breakEndAt = l.breakEndAt
  length : l'.queue.length ≤ l.queue.length
  keeps : QueueSound l → ∀ g ∈ l.queue, g.kind ≠ .arcClaim → g.kind ≠ .locate → g ∈ l'.queue

theorem ClaimsWithdrawn.refl (l : Lnc) : ClaimsWithdrawn l l := ⟨rfl, rfl, rfl, le_rfl, fun _ _ hg _ _ => hg⟩

theorem claimsWithdrawn_afterWithdrawal (l : Lnc) {k : Kind} (hk : k = .arcClaim ∨ k = .locate) : ClaimsWithdrawn l (afterWithdrawal l k) := by
  refine ⟨by simp, by simp, by simp, length_afterWithdrawal_le _ _, fun h g hg ha hl => mem_afterWithdrawal h hg ?_⟩
  rcases hk with rfl | rfl
  · exact ha
  · exact hl

section Close
variable (s : State) (p : Incident → Bool)

theorem State.closeIf_lnc (k : IncidentKind) : ClaimsWithdrawn s.lnc (s.closeIf k p).lnc := by
  have hframe : k.frame = .arcClaim ∨ k.frame = .locate := by cases k <;> simp [IncidentKind.frame]
  unfold State.closeIf
  split
  · exact .refl _
  next i hi =>
    split
    · rw [State.closeIncident_eq hi, State.setIncident_lnc]
      dsimp only
      split
      · exact claimsWithdrawn_afterWithdrawal _ hframe
      · exact .refl _
    · exact .refl _

theorem State.closeBoth_lnc : ClaimsWithdrawn s.lnc ((s.closeIf .arc p).closeIf .ground p).lnc := by
  have harc := s.closeIf_lnc p .arc
  have hground := (s.closeIf .arc p).closeIf_lnc p .ground
  exact ⟨hground.sending.trans harc.sending, hground.nextEntry.trans harc.nextEntry, hground.breakEndAt.trans harc.breakEndAt,
    hground.length.trans harc.length, fun h g hg ha hl =>
      hground.keeps ((State.closeIf_sound .arc p (.refl s)).queue h) g (harc.keeps h g hg ha hl) ha hl⟩

end Close

/-! ### Incidents that close (R44, R45) -/

section Closing
variable (s : State)

/-- The SEL once the incidents that meet a condition have closed. -/
def Sel.closing (x : Sel) (p : Incident → Bool) : Sel :=
  { x with arc := x.arc.filter fun i => !p i, ground := x.ground.filter fun i => !p i }

theorem Sel.closing_arc {x : Sel} {i : Incident} (p : Incident → Bool) (h : x.arc = some i) :
    (x.closing p).arc = if p i = true then none else some i := by
  rw [Sel.closing, h, Option.filter]
  cases p i <;> rfl

theorem Sel.closing_ground {x : Sel} {i : Incident} (p : Incident → Bool) (h : x.ground = some i) :
    (x.closing p).ground = if p i = true then none else some i := by
  rw [Sel.closing, h, Option.filter]
  cases p i <;> rfl

theorem State.closeIncident_sel {k : IncidentKind} {i : Incident} (h : s.incident k = some i) :
    (s.closeIncident k).sel = (s.setIncident k none).sel := by
  rw [State.closeIncident_eq h]
  cases k <;> rfl

theorem State.closeIf_arc_sel (p : Incident → Bool) : (s.closeIf .arc p).sel = { s.sel with arc := s.sel.arc.filter fun i => !p i } := by
  unfold State.closeIf
  cases h : s.sel.arc with
  | none =>
    rw [show s.incident .arc = none from h]
    show s.sel = { s.sel with arc := none }
    rw [← h]
  | some i =>
    rw [show s.incident .arc = some i from h]
    dsimp only
    cases hp : p i with
    | true =>
      rw [if_pos rfl, s.closeIncident_sel (k := .arc) h, Option.filter, hp]
      rfl
    | false =>
      rw [if_neg Bool.false_ne_true, Option.filter, hp]
      show s.sel = { s.sel with arc := some i }
      rw [← h]

theorem State.closeIf_ground_sel (p : Incident → Bool) :
    (s.closeIf .ground p).sel = { s.sel with ground := s.sel.ground.filter fun i => !p i } := by
  unfold State.closeIf
  cases h : s.sel.ground with
  | none =>
    rw [show s.incident .ground = none from h]
    show s.sel = { s.sel with ground := none }
    rw [← h]
  | some i =>
    rw [show s.incident .ground = some i from h]
    dsimp only
    cases hp : p i with
    | true =>
      rw [if_pos rfl, s.closeIncident_sel (k := .ground) h, Option.filter, hp]
      rfl
    | false =>
      rw [if_neg Bool.false_ne_true, Option.filter, hp]
      show s.sel = { s.sel with ground := some i }
      rw [← h]

theorem State.closeBoth_sel (p : Incident → Bool) : ((s.closeIf .arc p).closeIf .ground p).sel = s.sel.closing p := by
  rw [State.closeIf_ground_sel, State.closeIf_arc_sel]
  rfl

theorem State.selSuperseded_sel : s.selSuperseded.sel = { s.sel with arc := none, ground := none } := by
  refine (s.closeBoth_sel _).trans ?_
  unfold Sel.closing
  cases s.sel.arc <;> cases s.sel.ground <;> rfl

end Closing

/-! ### The part in a window ends (R62, R68, R91) -/

section Barred
variable {s : State}

theorem State.probeBarred_of_none (hr : s.prb.role = .none) : s.probeBarred = s := by
  unfold State.probeBarred
  rw [hr]

theorem State.probeBarred_of_listening {w : Window} (hr : s.prb.role = .listening) (hw : s.prb.window = some w) :
    s.probeBarred = s.setPrb { s.prb with role := .none, window := none, output := .released } := by
  unfold State.probeBarred
  rw [hr, hw]
  rfl

theorem State.probeBarred_of_pending (hr : s.prb.role = .pending) : s.probeBarred = s.probeAbort := by
  unfold State.probeBarred
  rw [hr]

theorem State.probeBarred_of_injecting (hr : s.prb.role = .injecting) : s.probeBarred = s.probeAbort := by
  unfold State.probeBarred
  rw [hr]

theorem State.probeBarred_sel (s : State) : s.probeBarred.sel = s.sel := by
  have habort : s.probeAbort.sel = s.sel := by
    unfold State.probeAbort
    rw [State.abortInjection_sel]
    exact (State.withdrawProbeOpen_frame s).keeps .sel (by simp)
  unfold State.probeBarred
  split
  · rfl
  · rfl
  · exact habort
  · exact habort
  · rfl

/-- The part in a window ends, the withdrawals of the claims made before. -/
theorem State.probeBarred_ends {s u : State} (hprb : u.prb = s.prb) (ha : u.smu.address = s.smu.address)
    (hl : ClaimsWithdrawn s.lnc u.lnc) (hs : QueueSound s.lnc) (hu : QueueSound u.lnc) : ProbePartEnds s u.probeBarred := by
  refine ⟨fun hr => ?_, fun w hr hw => ?_, fun g hr hg => ?_, fun w hr hw => ?_⟩
  · rw [State.probeBarred_of_none (by rw [hprb]; exact hr), hprb]
  · rw [State.probeBarred_of_listening (w := w) (by rw [hprb]; exact hr) (by rw [hprb]; exact hw), State.setPrb_prb, hprb]
  · obtain ⟨hmem, hkind⟩ := State.queuedOf_mem hg
    have honce : g.kind.once := .inr (.inr (.inr hkind))
    have hgu := hl.keeps hs g hmem (by rw [hkind]; decide) (by rw [hkind]; decide)
    have hqueued : u.queuedOf .probeOpen = some g := hkind ▸ State.queuedOf_of_mem hu honce hgu
    have hru : u.prb.role = .pending := by rw [hprb]; exact hr
    rw [State.probeBarred_of_pending hru, ← hl.sending]
    refine ⟨fun hsend => ?_, fun hsend => ?_⟩
    · rw [State.probeAbort_of_waiting hru hqueued hsend]
      refine ⟨by rw [State.setPrb_prb, hprb], fun h hh => ?_⟩
      rw [← hkind]
      exact none_left_of_once hu hgu honce h hh
    · rw [State.probeAbort_of_attempt hru hqueued hsend]
      exact ⟨hprb, _, List.mem_map.2 ⟨g, hgu, if_pos rfl⟩, rfl⟩
  · have hru : u.prb.role = .injecting := by rw [hprb]; exact hr
    have hwu : u.prb.window = some w := by rw [hprb]; exact hw
    rw [State.probeBarred_of_injecting hru, State.probeAbort_of_injecting hru]
    refine ⟨fun hp => ?_, fun hp haddr hroom => ?_⟩
    · rw [State.abortInjection_of_closing hru hwu hp, hprb]
    · rw [State.abortInjection_of_open hru hwu hp, State.closeInjection_of_room _ _ _ (by rw [ha]; exact haddr) (hl.length.trans_lt hroom)]
      obtain ⟨hkind, hrank, hpayload⟩ := probeCloseFrame_aborted w
      refine ⟨?_, _, State.enterFrame_mem _ _, hkind, hrank, hl.nextEntry, hpayload⟩
      rw [State.enterFrame_prb, State.setPrb_prb, hprb]
      rfl

end Barred

/-- Incidents superseded and the part in a window ended, after what keeps the LNC and the PRB. -/
theorem State.superseded_ends {s u : State} (hprb : u.prb = s.prb) (hsmu : u.smu.address = s.smu.address) (hlnc : u.lnc = s.lnc) :
    u.selSuperseded.probeBarred.sel = { u.sel with arc := none, ground := none } ∧
    (QueueSound s.lnc → ProbePartEnds s u.selSuperseded.probeBarred) := by
  have hl := u.closeBoth_lnc fun _ => true
  have hframe := u.selSuperseded_frame
  refine ⟨by rw [State.probeBarred_sel, State.selSuperseded_sel], fun hs => ?_⟩
  have hsound : QueueSound u.selSuperseded.lnc := (State.selSuperseded_sound (.refl u)).queue (by rw [hlnc]; exact hs)
  rw [hlnc] at hl
  exact State.probeBarred_ends ((hframe.keeps .prb (by simp)).trans hprb)
    (by rw [show u.selSuperseded.smu = u.smu from hframe.keeps .smu (by simp)]; exact hsmu) hl hs hsound

/-- A hold taken by all strings, read through what keeps the strings. -/
theorem holdTakenByAll_congr {s s' t t' : State} {add : HoldSet → HoldSet} {c : OpenCause} (h : HoldTakenByAll s' t' add c) (hs : s'.swc = s.swc)
    (hn : s'.smu.strings = s.smu.strings) (ht : t'.swc.str = t.swc.str) : HoldTakenByAll s t add c := by
  intro k
  have hk := h k
  have htk : t'.string k = t.string k := by unfold State.string; rw [ht]
  rw [State.string_of_swc hs, hs, hn, htk] at hk
  exact hk

/-! ### The Stop Set (R126, R127, R171) -/

/-- A hold asked for every fitted string moves the SWC, the SMU's memo writes and the RSL. -/
theorem State.addAll_frame (s : State) (x : HoldRequest) :
    Frame [.swc, .smu, .rsl] s (forStrings s.fittedStrings (fun t k => t.addHold k x) s) := frame_forStrings s fun t k => t.addHold_frame k x

theorem State.addAll_withoutMemos (s : State) (x : HoldRequest) :
    (forStrings s.fittedStrings (fun t k => t.addHold k x) s).smu.withoutMemos = s.smu.withoutMemos :=
  forStrings_keeps (fun t => t.smu.withoutMemos) _ fun t k => t.addHold_withoutMemos k x

/-- The RSL but for the strings' timers: the inputs, their tests and the stop repeat. -/
def Rsl.inputs (r : Rsl) : (ButtonState × Bool × Option Time) × KeyState × KeyState × Option Time :=
  ((r.button, r.buttonIn, r.buttonAt), r.stopKey, r.lockKey, r.repeatAt)

theorem State.queueOpen_inputs (s : State) (k : StringNo) (c : OpenCause) (d : HoldDetail) : (s.queueOpen k c d).rsl.inputs = s.rsl.inputs := by
  unfold State.queueOpen
  dsimp only
  rw [(State.kickDrive_frame _).keeps .rsl (by simp)]
  rfl

theorem State.addHold_inputs (s : State) (k : StringNo) (x : HoldRequest) : (s.addHold k x).rsl.inputs = s.rsl.inputs := by
  have hmemo (u : State) : (u.updateMemo k).rsl = u.rsl := (u.updateMemo_frame k).keeps .rsl (by simp)
  unfold State.addHold
  split
  · rw [State.queueOpen_inputs]
    rfl
  · rfl
  · split
    · rw [hmemo]
      rfl
    · rfl
  · rw [hmemo]
    rfl
  · rw [hmemo]
    rfl
  · rw [hmemo]
    rfl
  · rfl

/-- A hold that every fitted string takes, the incidents superseded and the part in a window ended. -/
def State.stoppedBy (s : State) (x : HoldRequest) : State :=
  (forStrings s.fittedStrings (fun t k => t.addHold k x) s).selSuperseded.probeBarred

theorem State.stoppedBy_ends (s : State) (x : HoldRequest) (hx : x = .stop ∨ x = .lockout) :
    (s.stoppedBy x).sel = { s.sel with arc := none, ground := none } ∧ (QueueSound s.lnc → ProbePartEnds s (s.stoppedBy x)) ∧
    HoldTakenByAll s (s.stoppedBy x) (fun h => h.add x) x.cause ∧ (s.stoppedBy x).smu.withoutMemos = s.smu.withoutMemos ∧
    (s.stoppedBy x).rsl.inputs = s.rsl.inputs ∧ Frame [.smu, .sel, .prb, .lnc, .swc, .rsl] s (s.stoppedBy x) := by
  have hframe := s.addAll_frame x
  have hmemos := s.addAll_withoutMemos x
  have hinputs := forStrings_keeps (ks := s.fittedStrings) (fun t => t.rsl.inputs) s fun t k => t.addHold_inputs k x
  have hheld := s.addHold_all x hx
  unfold State.stoppedBy
  generalize forStrings s.fittedStrings (fun t k => t.addHold k x) s = u at *
  have hrest : Frame [.sel, .prb, .lnc] u u.selSuperseded.probeBarred :=
    ((State.selSuperseded_frame u).mono (by simp)).trans (State.probeBarred_frame _)
  obtain ⟨hsel, hends⟩ := State.superseded_ends (u := u) (hframe.keeps .prb (by simp)) (address_of_withoutMemos hmemos) (hframe.keeps .lnc (by simp))
  refine ⟨?_, hends, holdTakenByAll_congr hheld rfl rfl ?_, ?_, ?_, (hframe.mono (by simp)).trans (hrest.mono (by simp))⟩
  · rw [hsel, show u.sel = s.sel from hframe.keeps .sel (by simp)]
  · rw [show u.selSuperseded.probeBarred.swc = u.swc from hrest.keeps .swc (by simp)]
  · rw [show u.selSuperseded.probeBarred.smu = u.smu from hrest.keeps .smu (by simp), hmemos]
  · rw [show u.selSuperseded.probeBarred.rsl = u.rsl from hrest.keeps .rsl (by simp), hinputs]

/-- An ARRAY-STOP taken: the address enters the set, and every string takes the STOP hold. -/
theorem State.takeArrayStop_eq (s : State) (a : Nat) : s.takeArrayStop a = (s.setStopSet (insertAddress a s.pvw.stopSet)).stoppedBy .stop := rfl

theorem State.takeArrayStop_stopSet (s : State) (a : Nat) : (s.takeArrayStop a).pvw.stopSet = insertAddress a s.pvw.stopSet := by
  obtain ⟨-, -, -, -, -, hframe⟩ := (s.setStopSet (insertAddress a s.pvw.stopSet)).stoppedBy_ends .stop (.inl rfl)
  rw [State.takeArrayStop_eq, show ((s.setStopSet (insertAddress a s.pvw.stopSet)).stoppedBy .stop).pvw = _ from hframe.keeps .pvw (by simp)]
  rfl

theorem HoldSet.has_stopTied (h : HoldSet) : h.has .stopTied = true ↔ h.stop = some .tied := by
  simp [HoldSet.has]

section Removed
variable {s : State} {a : Nat}

theorem State.removeStop_absent (h : a ∉ s.pvw.stopSet) : s.removeStop a = s := if_neg (by simpa using h)

/-- The Stop Set without an address. -/
def State.stopsWithout (s : State) (a : Nat) : State := s.setStopSet (s.pvw.stopSet.filter fun b => b != a)

theorem State.stopsWithout_isEmpty : (s.stopsWithout a).pvw.stopSet.isEmpty = true ↔ ∀ b ∈ s.pvw.stopSet, b = a := by
  simp [State.stopsWithout, State.setStopSet, List.filter_eq_nil_iff]

theorem State.removeStop_present (h : a ∈ s.pvw.stopSet) :
    s.removeStop a = if (s.stopsWithout a).pvw.stopSet.isEmpty = true then (s.stopsWithout a).releaseStops else s.stopsWithout a :=
  if_pos (by simpa using h)

theorem State.removeStop_others (h : a ∈ s.pvw.stopSet) (ho : ∃ b ∈ s.pvw.stopSet, b ≠ a) : s.removeStop a = s.stopsWithout a := by
  obtain ⟨b, hb, hne⟩ := ho
  rw [State.removeStop_present h, if_neg fun he => hne (State.stopsWithout_isEmpty.1 he b hb)]

theorem State.removeStop_last (h : a ∈ s.pvw.stopSet) (ho : ∀ b ∈ s.pvw.stopSet, b = a) : s.removeStop a = (s.stopsWithout a).releaseStops := by
  rw [State.removeStop_present h, if_pos (State.stopsWithout_isEmpty.2 ho)]

/-- What the removal of an address leaves of the other blocks. -/
theorem State.removeStop_keeps (s : State) (a : Nat) : (s.removeStop a).pvw.stopSet = s.pvw.stopSet.filter (fun b => b != a) ∧
    Frame [.swc, .smu] (s.stopsWithout a) (s.removeStop a) := by
  have hrelease : Frame [.swc, .smu] (s.stopsWithout a) (s.stopsWithout a).releaseStops := frame_forStrings _ fun t k => t.releaseHold_frame k _
  by_cases h : a ∈ s.pvw.stopSet
  · rw [State.removeStop_present h]
    split
    · refine ⟨?_, hrelease⟩
      rw [show (s.stopsWithout a).releaseStops.pvw = (s.stopsWithout a).pvw from hrelease.keeps .pvw (by simp)]
      rfl
    · exact ⟨rfl, Frame.refl _ _⟩
  · have hsame : s.pvw.stopSet.filter (fun b => b != a) = s.pvw.stopSet :=
      List.filter_eq_self.2 fun b hb => by
        rw [bne_iff_ne]
        exact fun e => h (e ▸ hb)
    have hself : s.stopsWithout a = s := by rw [State.stopsWithout, hsame]; rfl
    rw [State.removeStop_absent h, hsame, hself]
    exact ⟨rfl, Frame.refl _ _⟩

/-- The last address removed releases the STOP tied to the set on every fitted string. -/
theorem State.removeStop_string (h : a ∈ s.pvw.stopSet) (ho : ∀ b ∈ s.pvw.stopSet, b = a) {k : StringNo} (hk : k.val < s.smu.strings) :
    ((s.removeStop a).string k).holds = { (s.string k).holds with
      stop := if (s.string k).holds.stop = some .tied then none else (s.string k).holds.stop } ∧
    ((s.removeStop a).string k).state = if (s.string k).state = .opened ∧ (s.string k).holds.stop = some .tied ∧
      ((s.removeStop a).string k).holds.isEmpty = true then .closing else (s.string k).state := by
  obtain ⟨-, hholds, hstate⟩ := (s.stopsWithout a).releaseAll_string .stopTied k
  rw [State.removeStop_last h ho]
  have hsame : (s.stopsWithout a).string k = s.string k := rfl
  have hfitted : k.val < (s.stopsWithout a).smu.strings := hk
  simp only [hsame, hfitted, true_and, HoldSet.has_stopTied] at hholds hstate
  by_cases ht : (s.string k).holds.stop = some .tied
  · rw [if_pos ht] at hholds
    refine ⟨hholds.trans (by rw [if_pos ht]; rfl), hstate.trans ?_⟩
    rw [show ((s.stopsWithout a).releaseStops.string k).holds = _ from hholds]
    simp only [ht, true_and]
  · rw [if_neg ht] at hholds
    refine ⟨hholds.trans (by rw [if_neg ht]), hstate.trans ?_⟩
    rw [if_neg fun h => ht h.1, if_neg fun h => ht h.2.1]

end Removed

/-- Settles O45. -/
theorem stopFramesMoveTheStopSet : Obligations.StopFramesMoveTheStopSet := by
  refine fun s f => ⟨?_, fun kind hkind => ?_, fun hkey => if_pos hkey⟩
  · have hdeliver : s.deliver .arrayStop f = (s.setStopSet (insertAddress f.source s.pvw.stopSet)).stoppedBy .stop := rfl
    obtain ⟨hsel, hends, hheld, hmemos, -, hframe⟩ := (s.setStopSet (insertAddress f.source s.pvw.stopSet)).stoppedBy_ends .stop (.inl rfl)
    have hset := s.takeArrayStop_stopSet f.source
    rw [State.takeArrayStop_eq] at hset
    rw [hdeliver]
    dsimp only
    rw [hset, hsel]
    refine ⟨(insertAddress_mem _ _ _).2 (.inl rfl), fun a ha => ?_, rfl, rfl, hframe.keeps .ssu (by simp), hframe.keeps .eve (by simp),
      mem_of_withoutMemos (s := s) hmemos, hends, holdTakenByAll_congr hheld rfl rfl rfl⟩
    rw [insertAddress_mem]
    exact ⟨fun h => h.resolve_left ha, .inr⟩
  · have hdeliver : s.deliver kind f = s.removeStop f.source := by
      rcases hkind with rfl | ⟨rfl, hkey⟩
      · rfl
      · exact if_neg (by rw [show (charAt f.payload 1).getLsbD 7 = false from hkey]; exact Bool.false_ne_true)
    rw [hdeliver]
    obtain ⟨hset, hframe⟩ := s.removeStop_keeps f.source
    refine ⟨State.removeStop_absent, fun h => ⟨hset, hframe.keeps .sel (by simp), hframe.keeps .prb (by simp), hframe.keeps .lnc (by simp),
      hframe.keeps .ssu (by simp), hframe.keeps .eve (by simp), mem_of_withoutMemos (s.removeStop_withoutMemos _), fun ho => ?_,
      fun ho k hk => State.removeStop_string h ho hk⟩⟩
    rw [State.removeStop_others h ho]
    rfl

end Sys2Proof.Machine

/-! PROOFS. The ARRAY STOP and LOCKOUT keys (R118, R168, R170, R173, R174). -/

namespace Sys2Proof.Machine

open Sys2Proof.Safety

section Keys
variable {s : State}

/-! ### A key input changes (R168, R173) -/

theorem State.keyInput_changed (hs : s.started = true) {k : Key} {c : Bool} (h : (s.key k).input ≠ c) : s.keyInput k c =
    s.setKey k { s.key k with input := c, testAt := if c = (s.key k).accepted then none else some (s.now.plus 50) } := by
  unfold State.keyInput
  dsimp only
  rw [if_neg (by simpa using h), if_pos hs]
  simp only [beq_iff_eq]
  rfl

/-! ### A key input accepted (R168, R170, R173, R174) -/

/-- A key with its input accepted. -/
def State.keyTaken (s : State) (k : Key) : State := s.setKey k { s.key k with accepted := (s.key k).input, testAt := none }

/-- What a key does once its input is accepted as closed or as open. -/
def State.keyAction (s : State) : Key → Bool → State
  | .arrayStop, true => s.stopKeyCloses
  | .arrayStop, false => s.stopKeyOpens
  | .lockout, true => s.stoppedBy .lockout
  | .lockout, false => s.lockKeyOpens

theorem State.keyAccepted_at (hs : s.started = true) {k : Key} {b : Bool} (h : expired s.now (s.key k).testAt = true)
    (hi : (s.key k).input = b) : s.keyAccepted k = (s.setKey k { input := b, accepted := b, testAt := none }).keyAction k b := by
  subst hi
  unfold State.keyAccepted
  dsimp only
  rw [if_pos (by rw [hs, h]; rfl)]
  cases k <;> cases (s.key _).input <;> rfl

/-! ### The ARRAY STOP key (R118, R168, R170) -/

theorem State.announceStop_listening (ha : s.smu.address = 0) : s.announceStop = s := if_pos (by simp [State.listenOnly, ha])

theorem State.startRepeat_listening (ha : s.smu.address = 0) : s.startRepeat = s := if_pos (by simp [State.listenOnly, ha])

/-- A part in a window ended, read through what keeps the PRB and the queue. -/
theorem probePartEnds_congr {s t t' : State} (h : ProbePartEnds s t) (hp : t'.prb = t.prb) (hq : t'.lnc.queue = t.lnc.queue) : ProbePartEnds s t' := by
  unfold ProbePartEnds
  rw [hp, hq]
  exact h

theorem probePartEnds_congr_before {s s' t : State} (h : ProbePartEnds s' t) (hp : s'.prb = s.prb) (hl : s'.lnc = s.lnc)
    (ha : s'.smu.address = s.smu.address) : ProbePartEnds s t := by
  unfold ProbePartEnds State.queuedOf at *
  rw [hp, hl, ha] at h
  exact h

end Keys

/-! ### The own break is left by what comes before it (R118) -/

section Break
variable (s : State)

theorem State.makeRoomAndEnter_breakEndAt (f : QueuedFrame) : (s.makeRoomAndEnter f).1.lnc.breakEndAt = s.lnc.breakEndAt := by
  rcases s.makeRoomAndEnter_cases f with h | ⟨h, -⟩ | ⟨old, -, -, h⟩ <;> rw [h] <;> rfl

theorem State.enqueue_breakEndAt (f : QueuedFrame) : (s.enqueue f).1.lnc.breakEndAt = s.lnc.breakEndAt := by
  unfold State.enqueue
  repeat' split
  · rfl
  · rfl
  · rfl
  · exact s.makeRoomAndEnter_breakEndAt f
  · rfl
  · exact s.makeRoomAndEnter_breakEndAt f

theorem State.windowLost_breakEndAt : s.windowLost.lnc.breakEndAt = s.lnc.breakEndAt := by
  unfold State.windowLost
  split
  · rfl
  · rw [State.windowReport_empty, State.windowEndSeen_discarded]
    rfl

theorem State.abortInjection_breakEndAt (st : WindowStatus) : (s.abortInjection st).lnc.breakEndAt = s.lnc.breakEndAt := by
  have hclose (w : Window) (r : Nat) : (s.closeInjection w st r).lnc.breakEndAt = s.lnc.breakEndAt := by
    rw [State.closeInjection_eq]
    dsimp only
    split
    · exact State.enqueue_breakEndAt _ _
    · exact State.windowLost_breakEndAt _
  unfold State.abortInjection
  split
  · dsimp only
    repeat' split
    all_goals solve | rfl | exact hclose _ _
  all_goals rfl

theorem State.probeBarred_breakEndAt : s.probeBarred.lnc.breakEndAt = s.lnc.breakEndAt := by
  have hwithdraw : s.withdrawProbeOpen.lnc.breakEndAt = s.lnc.breakEndAt := by
    have hlnc : (s.withdraw .probeOpen).1.lnc.breakEndAt = s.lnc.breakEndAt := by
      rw [State.withdraw_lnc]
      exact afterWithdrawal_breakEndAt _ _
    simp only [State.withdrawProbeOpen]
    repeat' split
    all_goals solve | rfl | exact hlnc
  have habort : s.probeAbort.lnc.breakEndAt = s.lnc.breakEndAt := (State.abortInjection_breakEndAt _ _).trans hwithdraw
  unfold State.probeBarred
  split
  · rfl
  · rfl
  · exact habort
  · exact habort
  · rfl

theorem State.stoppedBy_breakEndAt (x : HoldRequest) : (s.stoppedBy x).lnc.breakEndAt = s.lnc.breakEndAt := by
  have hlnc : (forStrings s.fittedStrings (fun t k => t.addHold k x) s).lnc = s.lnc := (s.addAll_frame x).keeps .lnc (by simp)
  rw [State.stoppedBy, State.probeBarred_breakEndAt, ← hlnc]
  exact ((forStrings s.fittedStrings (fun t k => t.addHold k x) s).closeBoth_lnc fun _ => true).breakEndAt

end Break

/-! ### The ARRAY STOP key is accepted (R118, R168, R170) -/

section StopKey
variable (s : State)

/-- What the stop announced and its repeat change: the LNC but for its queue, and the repeat. -/
theorem State.announced_keeps : s.announceStop.startRepeat.lnc.queue = s.lnc.queue ∧
    s.announceStop.startRepeat.rsl.stopKey = s.rsl.stopKey ∧ Frame [.lnc, .rsl] s s.announceStop.startRepeat := by
  by_cases ha : s.smu.address = 0
  · rw [State.announceStop_listening ha, State.startRepeat_listening ha]
    exact ⟨rfl, rfl, .refl _ _⟩
  · rw [State.announceStop_sending ha, State.startRepeat_sending (by exact ha)]
    refine ⟨rfl, rfl, rfl, rfl, fun b hb => ?_⟩
    cases b <;> simp at hb <;> rfl

theorem State.stopKeyCloses_announces : let t := s.stopKeyCloses
    (s.smu.address ≠ 0 → t.lnc.breakEndAt = some (s.now.plus 300) ∧ t.lnc.sending = none ∧ t.lnc.tx = [] ∧ t.lnc.rx = .sync ∧
      t.rsl.repeatAt = some (s.now.plus 10000)) ∧
    (s.smu.address = 0 → t.lnc.breakEndAt = s.lnc.breakEndAt ∧ t.rsl.repeatAt = s.rsl.repeatAt) := by
  intro t
  obtain ⟨-, -, -, hmemos, hinputs, hframe⟩ := (s.setStopSet (insertAddress s.smu.address s.pvw.stopSet)).stoppedBy_ends .stop (.inl rfl)
  have hbreak := (s.setStopSet (insertAddress s.smu.address s.pvw.stopSet)).stoppedBy_breakEndAt .stop
  have ht : t = ((s.setStopSet (insertAddress s.smu.address s.pvw.stopSet)).stoppedBy .stop).announceStop.startRepeat := rfl
  rw [ht]
  generalize (s.setStopSet (insertAddress s.smu.address s.pvw.stopSet)).stoppedBy .stop = v at *
  have haddr : v.smu.address = s.smu.address := address_of_withoutMemos hmemos
  have hnow : v.now = s.now := hframe.2.1
  refine ⟨fun ha => ?_, fun ha => ?_⟩
  · rw [State.announceStop_sending (by rwa [haddr]), State.startRepeat_sending (by rw [← haddr] at ha; exact ha), ← hnow]
    exact ⟨rfl, rfl, rfl, rfl, rfl⟩
  · rw [State.announceStop_listening (by rwa [haddr]), State.startRepeat_listening (by rwa [haddr])]
    exact ⟨hbreak, congrArg (fun i => i.2.2.2) hinputs⟩

theorem State.stopKeyCloses_stops : let t := s.stopKeyCloses
    t.rsl.stopKey = s.rsl.stopKey ∧ t.pvw.stopSet = insertAddress s.smu.address s.pvw.stopSet ∧ t.sel.arc = none ∧ t.sel.ground = none ∧
    (QueueSound s.lnc → ProbePartEnds s t) ∧ HoldTakenByAll s t (fun h => { h with stop := some .tied }) .stop := by
  intro t
  obtain ⟨hsel, hends, hheld, -, hinputs, -⟩ := (s.setStopSet (insertAddress s.smu.address s.pvw.stopSet)).stoppedBy_ends .stop (.inl rfl)
  have hset := s.takeArrayStop_stopSet s.smu.address
  rw [State.takeArrayStop_eq] at hset
  have ht : t = ((s.setStopSet (insertAddress s.smu.address s.pvw.stopSet)).stoppedBy .stop).announceStop.startRepeat := rfl
  rw [ht]
  generalize (s.setStopSet (insertAddress s.smu.address s.pvw.stopSet)).stoppedBy .stop = v at *
  obtain ⟨hqueue, hkey, hframe⟩ := v.announced_keeps
  have hvsel : v.announceStop.startRepeat.sel = v.sel := hframe.keeps .sel (by simp)
  have hvswc : v.announceStop.startRepeat.swc = v.swc := hframe.keeps .swc (by simp)
  refine ⟨hkey.trans (congrArg (fun i => i.2.1) hinputs), ?_, ?_, ?_, fun hq => ?_, holdTakenByAll_congr hheld rfl rfl (by rw [hvswc])⟩
  · rw [show v.announceStop.startRepeat.pvw = v.pvw from hframe.keeps .pvw (by simp), hset]
  · rw [hvsel, hsel]
  · rw [hvsel, hsel]
  · exact probePartEnds_congr (hends hq) (hframe.keeps .prb (by simp)) hqueue

/-- The repeat of the stop announcement stops (R170). -/
def State.repeatStopped (s : State) : State := { s with rsl := { s.rsl with repeatAt := none } }

theorem State.stopKeyOpens_eq (s : State) : s.stopKeyOpens = (s.repeatStopped.removeStop s.smu.address).queueFrame (newFrame .arrayResume 0 []) := rfl

theorem State.stopKeyOpens_keeps (s : State) : Frame [.smu, .lnc, .swc] (s.repeatStopped.stopsWithout s.smu.address) s.stopKeyOpens ∧
    s.stopKeyOpens.swc = (s.repeatStopped.removeStop s.smu.address).swc := by
  obtain ⟨-, hframe⟩ := s.repeatStopped.removeStop_keeps s.smu.address
  have hqueue := (s.repeatStopped.removeStop s.smu.address).queueFrame_frame (newFrame .arrayResume 0 [])
  exact ⟨(hframe.mono (by simp)).trans (hqueue.mono (by simp)), hqueue.keeps .swc (by simp)⟩

theorem State.stopKeyOpens_resumes (s : State) (ha : s.smu.address ≠ 0) (hroom : s.lnc.queue.length < 16) :
    ∃ f ∈ s.stopKeyOpens.lnc.queue, f.kind = .arrayResume ∧ f.entry = s.lnc.nextEntry := by
  obtain ⟨-, hframe⟩ := s.repeatStopped.removeStop_keeps s.smu.address
  have haddr : (s.repeatStopped.removeStop s.smu.address).smu.address = s.smu.address :=
    address_of_withoutMemos (s.repeatStopped.removeStop_withoutMemos s.smu.address)
  have hlnc : (s.repeatStopped.removeStop s.smu.address).lnc = s.lnc := hframe.keeps .lnc (by simp)
  rw [State.stopKeyOpens_eq, State.queueFrame, State.enqueue_of_room (by rwa [haddr]) (by decide)
    (fun h => absurd h (by decide)) (by rwa [hlnc])]
  exact ⟨_, State.enterFrame_mem _ _, rfl, by rw [hlnc]⟩

end StopKey

/-! ### The LOCKOUT key is accepted (R173, R174) -/

theorem State.lockKeyOpens_eq (s : State) : s.lockKeyOpens = forStrings s.fittedStrings (fun t k => t.releaseHold k .lockout) s := rfl

theorem State.lockKeyOpens_string (s : State) {k : StringNo} (hk : k.val < s.smu.strings) :
    (s.lockKeyOpens.string k).holds = { (s.string k).holds with lockout := false } ∧
    ((s.string k).state = .opened → (s.string k).holds = { HoldSet.empty with lockout := true } → (s.lockKeyOpens.string k).state = .closing) := by
  obtain ⟨-, hholds, hstate⟩ := s.releaseAll_string .lockout k
  rw [State.lockKeyOpens_eq, hholds, hstate]
  refine ⟨?_, fun ho hh => ?_⟩
  · by_cases hl : (s.string k).holds.lockout = true
    · rw [if_pos ⟨hk, hl⟩]
      rfl
    · rw [if_neg fun h => hl h.2, ← Bool.eq_false_iff.2 hl]
  · rw [hh, if_pos ⟨hk, rfl, ho, rfl⟩]

/-- Settles O59. -/
theorem keysStopAndLockOut : Obligations.KeysStopAndLockOut := by
  refine fun dt s hs => ⟨fun c h => ?_, fun c h => ?_, fun hd hi => ?_, fun hd hi => ?_, fun hd hi => ?_, fun hd hi => ?_⟩
  · rw [exec_keyInputChange, State.keyInput_changed (s := s.elapse dt) hs (by exact h)]
    rfl
  · rw [exec_keyInputChange, State.keyInput_changed (s := s.elapse dt) hs (by exact h)]
    rfl
  · obtain ⟨hannounced, hlistening⟩ :=
      ((s.elapse dt).setKey .arrayStop { input := true, accepted := true, testAt := none }).stopKeyCloses_announces
    obtain ⟨hstop, hset, harc, hground, hends, hheld⟩ :=
      ((s.elapse dt).setKey .arrayStop { input := true, accepted := true, testAt := none }).stopKeyCloses_stops
    refine ⟨_, exec_keyAcceptExpiry s dt .arrayStop, ?_⟩
    rw [State.keyAccepted_at (s := s.elapse dt) hs (k := .arrayStop) hd hi]
    exact ⟨hstop, hset, harc, hground, hannounced, hlistening,
      fun hq => probePartEnds_congr_before (probePartEnds_congr (hends hq) rfl rfl) rfl rfl rfl, holdTakenByAll_congr hheld rfl rfl rfl⟩
  · obtain ⟨hframe, hswc⟩ := ((s.elapse dt).setKey .arrayStop { input := false, accepted := false, testAt := none }).stopKeyOpens_keeps
    have hresumes := ((s.elapse dt).setKey .arrayStop { input := false, accepted := false, testAt := none }).stopKeyOpens_resumes
    refine ⟨_, exec_keyAcceptExpiry s dt .arrayStop, ?_⟩
    rw [State.keyAccepted_at (s := s.elapse dt) hs (k := .arrayStop) hd hi]
    have hrsl := hframe.keeps .rsl (by simp)
    refine ⟨congrArg Rsl.stopKey hrsl, congrArg Rsl.repeatAt hrsl, congrArg Pvw.stopSet (hframe.keeps .pvw (by simp)), hframe.keeps .sel (by simp),
      hframe.keeps .prb (by simp), fun h => ?_, fun hin honly k hk => ?_, hresumes⟩
    · refine (congrArg Swc.str hswc).trans ?_
      by_cases hin : s.smu.address ∈ s.pvw.stopSet
      · rw [State.removeStop_others (by exact hin) (by exact h.resolve_left (not_not.2 hin))]
        rfl
      · rw [State.removeStop_absent (by exact hin)]
        rfl
    · have hstring := State.removeStop_string (s := ((s.elapse dt).setKey .arrayStop
        { input := false, accepted := false, testAt := none }).repeatStopped)
        (a := ((s.elapse dt).setKey .arrayStop { input := false, accepted := false, testAt := none }).smu.address) hin honly (k := k) hk
      rw [← State.string_of_swc hswc] at hstring
      exact hstring
  · obtain ⟨hsel, hends, hheld, -, hinputs, hframe⟩ :=
      ((s.elapse dt).setKey .lockout { input := true, accepted := true, testAt := none }).stoppedBy_ends .lockout (.inr rfl)
    refine ⟨_, exec_keyAcceptExpiry s dt .lockout, ?_⟩
    rw [State.keyAccepted_at (s := s.elapse dt) hs (k := .lockout) hd hi]
    exact ⟨congrArg (fun i => i.2.2.1) hinputs, hframe.keeps .pvw (by simp), congrArg Sel.arc hsel, congrArg Sel.ground hsel,
      fun hq => probePartEnds_congr_before (probePartEnds_congr (hends hq) rfl rfl) rfl rfl rfl,
      holdTakenByAll_congr hheld rfl rfl rfl⟩
  · have hframe : Frame [.swc, .smu] ((s.elapse dt).setKey .lockout { input := false, accepted := false, testAt := none })
      ((s.elapse dt).setKey .lockout { input := false, accepted := false, testAt := none }).lockKeyOpens :=
      frame_forStrings _ fun t k => t.releaseHold_frame k _
    refine ⟨_, exec_keyAcceptExpiry s dt .lockout, ?_⟩
    rw [State.keyAccepted_at (s := s.elapse dt) hs (k := .lockout) hd hi]
    exact ⟨congrArg Rsl.lockKey (hframe.keeps .rsl (by simp)), hframe.keeps .pvw (by simp), hframe.keeps .sel (by simp),
      hframe.keeps .prb (by simp), hframe.keeps .lnc (by simp), fun k hk => State.lockKeyOpens_string _ hk⟩

end Sys2Proof.Machine

/-! PROOFS. The RESTORE pushbutton: its filter, and what a press releases (R156, R160, R161). -/

namespace Sys2Proof.Machine

open Sys2Proof.Safety

/-! ### Holds released at a press (R161) -/

/-- The holds a press leaves. -/
def HoldSet.pressed (h : HoldSet) : HoldSet :=
  { h with fault := none, later := if h.fault = none then h.later else none, service := false }

theorem HoldSet.pressed_isEmpty (h : HoldSet) : h.pressed.isEmpty = true ↔ h.stop = none ∧ h.lockout = false := by
  simp [HoldSet.isEmpty, HoldSet.pressed]

/-- The release of the fault and SERVICE holds of one string. -/
def State.pressString (s : State) (k : StringNo) : State := (s.releaseFault k).releaseHold k .service

section Press
variable (s : State) (k j : StringNo)

theorem State.pressString_holds : ((s.pressString k).string j).holds = if j = k then (s.string k).holds.pressed else (s.string j).holds := by
  obtain ⟨-, hfault, -⟩ := s.releaseFault_string k j
  obtain ⟨-, hfaultK, -⟩ := s.releaseFault_string k k
  obtain ⟨-, hservice, -⟩ := (s.releaseFault k).releaseHold_string k j .service
  rw [State.pressString, hservice, hfault, hfaultK]
  by_cases hj : j = k
  · subst hj
    obtain ⟨fault, stop, lockout, service, later⟩ := (s.string j).holds
    cases fault <;> cases service <;> simp [HoldSet.has, HoldSet.remove, HoldSet.pressed]
  · simp only [hj, false_and, if_false]

theorem State.pressString_state : ((s.pressString k).string j).state =
    if j = k ∧ (s.string k).state = .opened ∧ ((s.string k).holds.fault ≠ none ∨ (s.string k).holds.service = true) ∧
      (s.string k).holds.pressed.isEmpty = true then .closing else (s.string j).state := by
  obtain ⟨-, -, hfault⟩ := s.releaseFault_string k j
  obtain ⟨-, hholdsK, hfaultK⟩ := s.releaseFault_string k k
  obtain ⟨-, -, hservice⟩ := (s.releaseFault k).releaseHold_string k j .service
  rw [State.pressString, hservice, hfault, hfaultK, hholdsK]
  by_cases hj : j = k
  · subst hj
    by_cases ho : (s.string j).state = .opened
    · rw [ho]
      obtain ⟨fault, stop, lockout, service, later⟩ := (s.string j).holds
      cases fault <;> cases service <;> simp [HoldSet.has, HoldSet.remove, HoldSet.pressed, HoldSet.isEmpty]
    · simp only [ho, false_and, and_false, if_false]
  · simp only [hj, false_and, if_false]

theorem State.pressString_recloseAt : (s.pressString k).rsl.str[j].recloseAt =
    if j = k ∧ (s.string k).holds.fault ≠ none then none else s.rsl.str[j].recloseAt := by
  have hservice : (s.pressString k).rsl = (s.releaseFault k).rsl := ((s.releaseFault k).releaseHold_frame k .service).keeps .rsl (by simp)
  rw [hservice, State.releaseFault_rsl]
  by_cases hf : (s.string k).holds.fault = none
  · rw [if_pos hf, if_neg fun h => h.2 hf]
  · rw [if_neg hf, State.stopReclose, State.setRelease_rsl]
    dsimp only
    rw [modifyAt_get]
    by_cases hj : j = k
    · rw [if_pos hj, if_pos ⟨hj, hf⟩]
    · rw [if_neg hj, if_neg fun h => hj h.1]

theorem State.pressString_inputs : (s.pressString k).rsl.inputs = s.rsl.inputs := by
  have hservice : (s.pressString k).rsl = (s.releaseFault k).rsl := ((s.releaseFault k).releaseHold_frame k .service).keeps .rsl (by simp)
  rw [hservice, State.releaseFault_rsl]
  split <;> rfl

/-! ### A fresh attempt (R156) -/

/-- The state a fresh attempt brings a string to. -/
def StringState.retried (x : StringState) (free : Bool) : StringState :=
  match x with
  | .stuckClosed => if free = true then .closed else .opening
  | .stuckOpen => if free = true then .closing else .opened
  | .closed => .closed
  | .opening => .opening
  | .opened => .opened
  | .closing => .closing
  | .disabled => .disabled

/-- A string as it stands once taken as CLOSED. -/
def StringRecord.taken (r : StringRecord) : StringRecord :=
  { r with state := .closed, mismatch := 0, request := none, iso := { r.iso with active := false }, memo := .none }

theorem State.takenClosed_string : (s.takenClosed k).string j = if j = k then (s.string k).taken else s.string j := by
  have hasked : (s.takenClosed k).string j = ((s.setString k StringRecord.taken).askMemo k .none).string j := rfl
  rw [hasked, State.askMemo_string]
  by_cases hj : j = k
  · rw [if_pos hj, hj, State.setString_string]
  · rw [if_neg hj, State.setString_other _ _ _ _ hj]

theorem State.takenClosed_eve : (s.takenClosed k).eve = modifyAt s.eve k fun e => { e with learnPending := true } := by
  simp only [State.takenClosed, State.setRelease_eve, State.setEvidence_eve]
  rw [(State.askMemo_frame _ _ _).keeps .eve (by simp)]
  rfl

theorem State.takenClosed_rsl : (s.takenClosed k).rsl = (s.setRelease k fun r => { r with closedAt := some (s.now.plus closedTimerMs) }).rsl := by
  have hframe := (s.setString k StringRecord.taken).askMemo_frame k .none
  have hrsl : ((s.setString k StringRecord.taken).askMemo k .none).rsl = s.rsl := hframe.keeps .rsl (by simp)
  have hnow : ((s.setString k StringRecord.taken).askMemo k .none).now = s.now := hframe.2.1
  have htaken : (s.takenClosed k).rsl = { ((s.setString k StringRecord.taken).askMemo k .none).rsl with
    str := modifyAt ((s.setString k StringRecord.taken).askMemo k .none).rsl.str k fun r =>
      { r with closedAt := some (((s.setString k StringRecord.taken).askMemo k .none).now.plus closedTimerMs) } } := rfl
  rw [htaken, hrsl, hnow]
  rfl

/-- What a fresh attempt of a string does to the states and holds, to the learn loads asked and to the reclose timers. -/
structure Retried (s t : State) (k j : StringNo) : Prop where
  holds : (t.string j).holds = (s.string j).holds
  state : (t.string j).state = if j = k then (s.string k).state.retried (s.string k).holds.isEmpty else (s.string j).state
  learns : t.eve[j].learnPending = if j = k ∧ (s.string k).state = .stuckClosed ∧ (s.string k).holds.isEmpty = true then true else s.eve[j].learnPending
  recloseAt : t.rsl.str[j].recloseAt = s.rsl.str[j].recloseAt
  inputs : t.rsl.inputs = s.rsl.inputs

theorem State.takenClosed_retried (hs : (s.string k).state = .stuckClosed) (he : (s.string k).holds.isEmpty = true) :
    Retried s (s.takenClosed k) k j := by
  have hstring := s.takenClosed_string k j
  refine ⟨?_, ?_, ?_, ?_, ?_⟩
  · rw [hstring]
    split
    next h => rw [h]; rfl
    · rfl
  · rw [hstring, hs, he]
    split <;> rfl
  · rw [State.takenClosed_eve, modifyAt_get]
    by_cases hj : j = k
    · rw [if_pos hj, if_pos ⟨hj, hs, he⟩]
    · rw [if_neg hj, if_neg fun h => hj h.1]
  · rw [State.takenClosed_rsl, State.setRelease_rsl]
    dsimp only
    rw [modifyAt_get]
    split
    next h => rw [h]
    · rfl
  · rw [State.takenClosed_rsl]
    rfl

theorem State.queueOpen_recloseAt (c : OpenCause) (d : HoldDetail) : (s.queueOpen k c d).rsl.str[j].recloseAt = s.rsl.str[j].recloseAt := by
  unfold State.queueOpen
  dsimp only
  rw [(State.kickDrive_frame _).keeps .rsl (by simp)]
  show (modifyAt s.rsl.str k _)[j].recloseAt = _
  rw [modifyAt_get]
  split
  next h => rw [h]
  · rfl

theorem State.freshAttempt_retried : Retried s (s.freshAttempt k) k j := by
  have hrest {u : State} (hholds : (u.string j).holds = (s.string j).holds)
      (hstate : (u.string j).state = if j = k then (s.string k).state.retried (s.string k).holds.isEmpty else (s.string j).state)
      (heve : u.eve = s.eve) (hrecl : u.rsl.str[j].recloseAt = s.rsl.str[j].recloseAt) (hin : u.rsl.inputs = s.rsl.inputs)
      (h : (s.string k).state ≠ .stuckClosed ∨ (s.string k).holds.isEmpty = false) : Retried s u k j := by
    refine ⟨hholds, hstate, ?_, hrecl, hin⟩
    rw [heve, if_neg]
    rintro ⟨-, hs, he⟩
    rcases h with h | h
    · exact h hs
    · exact absurd (h.symm.trans he) Bool.false_ne_true
  have hself (h : ∀ b, (s.string k).state.retried b = (s.string k).state) (hs : (s.string k).state ≠ .stuckClosed) : Retried s s k j := by
    refine hrest rfl ?_ rfl rfl rfl (.inl hs)
    rw [h]
    split
    next hj => rw [hj]
    · rfl
  unfold State.freshAttempt
  split
  next h =>
    split
    next he => exact s.takenClosed_retried k j h he
    next he =>
      obtain ⟨hstate, hholds, -, -⟩ := s.queueOpen_string k j (s.string k).holds.leading.1 (s.string k).holds.leading.2
      refine hrest hholds ?_ ((s.queueOpen_frame k _ _).keeps .eve (by simp)) (s.queueOpen_recloseAt k j _ _) (s.queueOpen_inputs k _ _)
        (.inr (Bool.eq_false_iff.2 he))
      rw [hstate, h, Bool.eq_false_iff.2 he]
      rfl
  next h =>
    split
    next he =>
      obtain ⟨hstate, hholds, -, -⟩ := s.queueClose_string k j
      have hrsl : (s.queueClose k).rsl = s.rsl := (s.queueClose_frame k).keeps .rsl (by simp)
      refine hrest hholds ?_ ((s.queueClose_frame k).keeps .eve (by simp)) (by rw [hrsl]) (by rw [hrsl]) (.inl (by rw [h]; decide))
      rw [hstate, h, he]
      rfl
    next he =>
      refine hrest ?_ ?_ rfl rfl rfl (.inl (by rw [h]; decide))
      · by_cases hj : j = k
        · rw [hj, State.setString_string]
        · rw [State.setString_other _ _ _ _ hj]
      · by_cases hj : j = k
        · rw [if_pos hj, hj, State.setString_string, h, Bool.eq_false_iff.2 he]
          rfl
        · rw [if_neg hj, State.setString_other _ _ _ _ hj]
  all_goals
    next h => exact hself (fun b => by rw [h]; rfl) (by rw [h]; decide)

end Press

/-! ### An accepted press (R161) -/

section Accepted
variable (s : State)

/-- The fault and SERVICE holds of every fitted string released. -/
def State.pressReleased (s : State) : State := forStrings s.fittedStrings State.pressString s

theorem State.press_eq : s.press = forStrings s.pressReleased.fittedStrings State.freshAttempt s.pressReleased := rfl

theorem State.pressReleased_withoutMemos : s.pressReleased.smu.withoutMemos = s.smu.withoutMemos :=
  forStrings_keeps (fun t => t.smu.withoutMemos) _ fun u k => by simp [State.pressString]

/-- A fitted string once its fault and SERVICE holds are released. -/
theorem State.pressReleased_string {k : StringNo} (hk : k.val < s.smu.strings) :
    (s.pressReleased.string k).holds = (s.string k).holds.pressed ∧
    (s.pressReleased.string k).state = (if (s.string k).state = .opened ∧ ((s.string k).holds.fault ≠ none ∨ (s.string k).holds.service = true) ∧
      (s.string k).holds.pressed.isEmpty = true then .closing else (s.string k).state) ∧
    s.pressReleased.rsl.str[k].recloseAt = if (s.string k).holds.fault ≠ none then none else s.rsl.str[k].recloseAt := by
  obtain ⟨-, -, hin⟩ := forStrings_at (fun t j => ((t.string j).holds, (t.string j).state, t.rsl.str[j].recloseAt)) (fun _ => True) State.pressString
    (fun t i j _ hj => by
      rw [t.pressString_holds, t.pressString_state, t.pressString_recloseAt, if_neg hj, if_neg fun h => hj h.1, if_neg fun h => hj h.1])
    (fun _ _ _ => trivial) s.fittedStrings s.nodup_fittedStrings s trivial k
  obtain ⟨u, -, hget, hset⟩ := hin ((s.mem_fittedStrings k).2 hk)
  rw [u.pressString_holds, u.pressString_state, u.pressString_recloseAt] at hset
  simp only [Prod.mk.injEq] at hget hset
  obtain ⟨gholds, gstate, grecl⟩ := hget
  obtain ⟨sholds, sstate, srecl⟩ := hset
  rw [gholds, if_pos trivial] at sholds
  rw [gstate, gholds] at sstate
  rw [gholds, grecl] at srecl
  simp only [true_and] at sstate srecl
  exact ⟨sholds, sstate, srecl⟩

/-- A fitted string after the fresh attempts. -/
theorem State.press_retried {k : StringNo} (hk : k.val < s.smu.strings) :
    (s.press.string k).holds = (s.pressReleased.string k).holds ∧
    (s.press.string k).state = (s.pressReleased.string k).state.retried (s.pressReleased.string k).holds.isEmpty ∧
    ((s.pressReleased.string k).state = .stuckClosed → (s.pressReleased.string k).holds.isEmpty = true → s.press.eve[k].learnPending = true) ∧
    s.press.rsl.str[k].recloseAt = s.pressReleased.rsl.str[k].recloseAt := by
  have hfitted : k.val < s.pressReleased.smu.strings := by
    rw [strings_of_withoutMemos s.pressReleased_withoutMemos]
    exact hk
  rw [State.press_eq]
  generalize s.pressReleased = v at *
  obtain ⟨-, -, hin⟩ := forStrings_at (fun t j => ((t.string j).holds, (t.string j).state, t.eve[j].learnPending, t.rsl.str[j].recloseAt))
    (fun _ => True) State.freshAttempt
    (fun t i j _ hj => by
      obtain ⟨hholds, hstate, hlearns, hrecl, -⟩ := t.freshAttempt_retried i j
      rw [hholds, hstate, hlearns, hrecl, if_neg hj, if_neg fun h => hj h.1])
    (fun _ _ _ => trivial) v.fittedStrings v.nodup_fittedStrings v trivial k
  obtain ⟨u, -, hget, hset⟩ := hin ((v.mem_fittedStrings k).2 hfitted)
  obtain ⟨hholds, hstate, hlearns, hrecl, -⟩ := u.freshAttempt_retried k k
  rw [hholds, hstate, hlearns, hrecl] at hset
  simp only [Prod.mk.injEq] at hget hset
  obtain ⟨gholds, gstate, -, grecl⟩ := hget
  obtain ⟨sholds, sstate, slearns, srecl⟩ := hset
  refine ⟨sholds.trans gholds, ?_, fun hs he => ?_, srecl.trans grecl⟩
  · rw [sstate, if_pos trivial, gstate, gholds]
  · rw [slearns, if_pos ⟨trivial, gstate.trans hs, by rw [gholds]; exact he⟩]

/-- A press leaves the inputs, and every block but the SWC, the RSL, the SMU's memo writes and the learn loads. -/
theorem State.press_keeps : s.press.rsl.inputs = s.rsl.inputs ∧ Frame [.smu, .eve, .swc, .rsl] s s.press := by
  have hreleased : Frame [.smu, .eve, .swc, .rsl] s s.pressReleased := frame_forStrings _ fun t k =>
    ((State.releaseFault_frame t k).mono (by simp)).trans ((State.releaseHold_frame _ _ _).mono (by simp))
  refine ⟨?_, hreleased.trans (frame_forStrings _ fun t k => t.freshAttempt_frame k)⟩
  rw [State.press_eq, forStrings_keeps (fun t => t.rsl.inputs) _ fun u k => (u.freshAttempt_retried k k).inputs]
  exact forStrings_keeps (fun t => t.rsl.inputs) _ fun u k => u.pressString_inputs k

/-- What a press does to a fitted string. -/
theorem State.press_string {k : StringNo} (hk : k.val < s.smu.strings) :
    let h := (s.string k).holds
    let t := s.press
    (t.string k).holds.fault = none ∧ (t.string k).holds.service = false ∧ (t.string k).holds.stop = h.stop ∧
    (t.string k).holds.lockout = h.lockout ∧ (h.fault ≠ none → t.rsl.str[k].recloseAt = none) ∧
    ((s.string k).state = .opened → h.stop = none → h.lockout = false → (h.fault ≠ none ∨ h.service = true) → (t.string k).state = .closing) ∧
    ((s.string k).state = .stuckClosed → h.stop = none → h.lockout = false → (t.string k).state = .closed ∧ t.eve[k].learnPending = true) ∧
    ((s.string k).state = .stuckClosed → h.stop ≠ none ∨ h.lockout = true → (t.string k).state = .opening) ∧
    ((s.string k).state = .stuckOpen → h.stop = none → h.lockout = false → (t.string k).state = .closing) ∧
    ((s.string k).state = .stuckOpen → h.stop ≠ none ∨ h.lockout = true → (t.string k).state = .opened) := by
  intro h t
  obtain ⟨rholds, rstate, rrecl⟩ := s.pressReleased_string hk
  obtain ⟨hholds, hstate, hlearns, hrecl⟩ := s.press_retried hk
  rw [rholds] at hholds hstate hlearns
  rw [rstate] at hstate hlearns
  rw [rrecl] at hrecl
  have hholds' : (t.string k).holds = h.pressed := hholds
  have hfree (h1 : h.stop = none) (h2 : h.lockout = false) : h.pressed.isEmpty = true := h.pressed_isEmpty.2 ⟨h1, h2⟩
  have hheld (h1 : h.stop ≠ none ∨ h.lockout = true) : h.pressed.isEmpty = false := by
    rw [← Bool.not_eq_true, h.pressed_isEmpty]
    rintro ⟨hstop, hlock⟩
    rcases h1 with h1 | h1
    · exact h1 hstop
    · exact absurd (hlock.symm.trans h1) Bool.false_ne_true
  have hstuck {x : StringState} (hx : (s.string k).state = x) (hne : x ≠ .opened) :
      (t.string k).state = x.retried h.pressed.isEmpty ∧ (x = .stuckClosed → h.pressed.isEmpty = true → t.eve[k].learnPending = true) := by
    rw [if_neg fun hn => hne (hx.symm.trans hn.1), hx] at hstate hlearns
    exact ⟨hstate, hlearns⟩
  rw [hholds']
  refine ⟨rfl, rfl, rfl, rfl, fun hf => hrecl.trans (if_pos hf), fun ho h1 h2 hf => ?_, fun hs h1 h2 => ?_, fun hs h1 => ?_,
    fun hs h1 h2 => ?_, fun hs h1 => ?_⟩
  · rw [hstate, if_pos ⟨ho, hf, hfree h1 h2⟩]
    rfl
  · obtain ⟨hst, hl⟩ := hstuck hs (by decide)
    exact ⟨by rw [hst, hfree h1 h2]; rfl, hl rfl (hfree h1 h2)⟩
  · rw [(hstuck hs (by decide)).1, hheld h1]
    rfl
  · rw [(hstuck hs (by decide)).1, hfree h1 h2]
    rfl
  · rw [(hstuck hs (by decide)).1, hheld h1]
    rfl

end Accepted

/-! ### The filter (R160) -/

section Filter
variable {s : State} {p : Bool}

theorem State.buttonInput_same (h : s.rsl.buttonIn = p) : s.buttonInput p = s := if_pos (by simpa using h)

theorem State.buttonInput_before (hs : s.started = false) (h : s.rsl.buttonIn ≠ p) :
    s.buttonInput p = { s with rsl := { s.rsl with buttonIn := p } } := by
  unfold State.buttonInput
  rw [if_neg (by simpa using h)]
  exact if_neg fun he => Bool.false_ne_true (hs.symm.trans he)

section Changed
variable (hs : s.started = true) (h : s.rsl.buttonIn ≠ p)
include hs h

theorem State.buttonInput_waitOpen (hb : s.rsl.button = .waitOpen) : s.buttonInput p =
    { s with rsl := { s.rsl with buttonIn := p, buttonAt := if p = true then none else some (s.now.plus 50) } } := by
  unfold State.buttonInput
  dsimp only
  rw [if_neg (by simpa using h), if_pos (by exact hs), hb]
  rfl

theorem State.buttonInput_pressed (hb : s.rsl.button = .pressed) : s.buttonInput p =
    { s with rsl := { s.rsl with buttonIn := p, buttonAt := if p = true then none else some (s.now.plus 50) } } := by
  unfold State.buttonInput
  dsimp only
  rw [if_neg (by simpa using h), if_pos (by exact hs), hb]
  rfl

theorem State.buttonInput_pressing (hb : s.rsl.button = .released) (hp : p = true) : s.buttonInput p =
    { s with rsl := { s.rsl with buttonIn := p, button := .pressing, buttonAt := some (s.now.plus 50) } } := by
  subst hp
  unfold State.buttonInput
  dsimp only
  rw [if_neg (by simpa using h), if_pos (by exact hs), hb]
  rfl

theorem State.buttonInput_cancelled (hb : s.rsl.button = .pressing) (hp : p = false) : s.buttonInput p =
    { s with rsl := { s.rsl with buttonIn := p, button := .released, buttonAt := none } } := by
  subst hp
  unfold State.buttonInput
  dsimp only
  rw [if_neg (by simpa using h), if_pos (by exact hs), hb]
  rfl

end Changed

section Expiry
variable (hs : s.started = true) (hd : expired s.now s.rsl.buttonAt = true)
include hs hd

theorem State.buttonExpiry_released (hb : s.rsl.button = .waitOpen ∨ s.rsl.button = .pressed) : s.buttonExpiry = s.setButton .released none := by
  unfold State.buttonExpiry
  rw [if_pos (by rw [hs, hd]; rfl)]
  rcases hb with hb | hb <;> rw [hb]

theorem State.buttonExpiry_pressed (hb : s.rsl.button = .pressing) : s.buttonExpiry = (s.setButton .pressed none).press := by
  unfold State.buttonExpiry
  rw [if_pos (by rw [hs, hd]; rfl), hb]

end Expiry
end Filter

/-- Settles O58. -/
theorem pressesReleaseHolds : Obligations.PressesReleaseHolds := by
  intro dt p s after test pressed
  refine ⟨fun h => ?_, fun h hs => ?_, fun h hs => ⟨fun hb => ?_, fun hb hp => ?_, fun hb hp => ?_, fun hb => ?_⟩,
    fun hs hd => ⟨fun hb => ?_, fun hb => ?_⟩⟩
  · exact congrArg (fun t => Host.Outcome.next t.settle) (State.buttonInput_same (s := s.elapse dt) h)
  · exact congrArg (fun t => Host.Outcome.next t.settle) (State.buttonInput_before (s := s.elapse dt) hs h)
  · exact congrArg (fun t => Host.Outcome.next t.settle) (State.buttonInput_waitOpen (s := s.elapse dt) hs h hb)
  · exact congrArg (fun t => Host.Outcome.next t.settle) (State.buttonInput_pressing (s := s.elapse dt) hs h hb hp)
  · exact congrArg (fun t => Host.Outcome.next t.settle) (State.buttonInput_cancelled (s := s.elapse dt) hs h hb hp)
  · exact congrArg (fun t => Host.Outcome.next t.settle) (State.buttonInput_pressed (s := s.elapse dt) hs h hb)
  · exact congrArg (fun t => Host.Outcome.next t.settle) (State.buttonExpiry_released (s := s.elapse dt) hs hd hb)
  · obtain ⟨hinputs, hframe⟩ := ((s.elapse dt).setButton .pressed none).press_keeps
    have hmem : ((s.elapse dt).setButton .pressed none).press.smu.mem = s.smu.mem :=
      mem_of_withoutMemos ((s.elapse dt).setButton .pressed none).press_withoutMemos
    refine ⟨_, exec_pushbuttonFilterExpiry s dt, ?_⟩
    rw [State.buttonExpiry_pressed (s := s.elapse dt) hs hd hb]
    have hbutton := congrArg (fun i => i.1) hinputs
    exact ⟨congrArg (fun i => i.1) hbutton, congrArg (fun i => i.2.2) hbutton, hframe.keeps .sel (by simp), hframe.keeps .prb (by simp),
      hframe.keeps .lnc (by simp), hframe.keeps .pvw (by simp), hframe.keeps .ssu (by simp), hmem,
      fun k hk => State.press_string _ (k := k) hk⟩

end Sys2Proof.Machine

/-! PROOFS. A request to add a hold, by the string's state (R139, R140, R153). -/

namespace Sys2Proof.Machine

open Sys2Proof.Safety

/-! ### The hold sets (R139, R140) -/

theorem HoldSet.add_fault (h : HoldSet) (f : FaultHold) : h.add (.fault f) =
    if h.fault = none then { h with fault := some f } else h.recordLater f.cause := by
  simp only [HoldSet.add, Option.isNone_iff_eq_none]

theorem HoldSet.recordLater_eq (h : HoldSet) (c : FaultCause) : h.recordLater c =
    if h.fault.map FaultHold.cause = some c then h else { h with later := some c } := by
  simp only [HoldSet.recordLater, beq_iff_eq]

/-! ### A hold added, by the string's state (R140) -/

section Added
variable {s : State} {k : StringNo} {x : HoldRequest}

/-- The state with an OPEN of a string queued last of its class, before the engine is served. -/
def State.openQueued (s : State) (k : StringNo) (c : OpenCause) (d : HoldDetail) : State :=
  let u := (s.setString k fun r =>
    { r with state := .opening, mismatch := 0, request := some { dir := .toOpen, cause := some c, detail := d, failed := 0, held := false } }).setRelease k
      fun r => { r with closedAt := none }
  { u with swc := { u.swc with openQ := u.swc.openQ ++ [k] } }

theorem State.queueOpen_eq (s : State) (k : StringNo) (c : OpenCause) (d : HoldDetail) : s.queueOpen k c d = (s.openQueued k c d).kickDrive := rfl

theorem State.queueOpen_closedAt (s : State) (k : StringNo) (c : OpenCause) (d : HoldDetail) : (s.queueOpen k c d).rsl.str[k].closedAt = none := by
  rw [State.queueOpen_eq, (State.kickDrive_frame _).keeps .rsl (by simp)]
  show (modifyAt s.rsl.str k _)[k].closedAt = none
  rw [modifyAt_same]

/-- A string with a hold added to those it has. -/
def State.held (s : State) (k : StringNo) (x : HoldRequest) : State := s.setString k fun r => { r with holds := r.holds.add x }

/-- An OPEN or STUCK string with a hold added, its memo not yet brought up to date. -/
def State.heldIsolated (s : State) (k : StringNo) (x : HoldRequest) : State := s.setString k fun r => { r with holds := r.holds.addIsolated x }

/-- A waiting CLOSE taken back under a hold, the memo not yet brought up to date. -/
def State.takenBack (s : State) (k : StringNo) (x : HoldRequest) : State :=
  let u := s.setString k fun r => { r with holds := r.holds.add x, request := none, state := .opened }
  { u with swc := { u.swc with closeQ := u.swc.closeQ.filter fun j => j != k } }

theorem State.addHold_closed (h : (s.string k).state = .closed) : s.addHold k x = (s.held k x).queueOpen k x.cause x.detail := by
  unfold State.addHold
  rw [h]
  rfl

theorem State.addHold_opening (h : (s.string k).state = .opening) : s.addHold k x = s.held k x := by
  unfold State.addHold
  rw [h]
  rfl

theorem State.addHold_closing (h : (s.string k).state = .closing) :
    s.addHold k x = if (s.string k).waiting = true then (s.takenBack k x).updateMemo k else s.held k x := by
  unfold State.addHold
  rw [h]
  rfl

theorem State.addHold_isolated (h : (s.string k).state = .opened ∨ (s.string k).state = .stuckClosed ∨ (s.string k).state = .stuckOpen) :
    s.addHold k x = (s.heldIsolated k x).updateMemo k := by
  unfold State.addHold
  rcases h with h | h | h <;> rw [h] <;> rfl

theorem State.addHold_disabled (h : (s.string k).state = .disabled) : s.addHold k x = s := by
  unfold State.addHold
  rw [h]

theorem State.held_string : (s.held k x).string k = { s.string k with holds := (s.string k).holds.add x } := State.setString_string _ _ _

/-- Bringing a memo up to date moves no queue, engine or pin of the SWC. -/
theorem State.updateMemo_swc (s : State) (k : StringNo) : (s.updateMemo k).swc = { s.swc with str := (s.updateMemo k).swc.str } := by
  have hask (t : State) (v : MemoValue) : (t.askMemo k v).swc = t.swc := (State.askMemo_frame t k v).keeps .swc (by decide)
  unfold State.updateMemo
  dsimp only
  split
  · rw [hask]
    rfl
  · rfl

theorem StringRecord.waiting_of_request {r : StringRecord} {q : Request} (h : r.request = some q) : r.waiting = !q.held := by
  simp [StringRecord.waiting, h]

/-- A CLOSED string that takes a hold: its OPEN waits behind the others, or is driven when the engine is free. -/
theorem State.addHold_closed_queues (h : (s.string k).state = .closed) :
    let t := s.addHold k x
    (s.swc.engine ≠ .idle → t.swc.openQ = s.swc.openQ ++ [k] ∧ t.swc.engine = s.swc.engine ∧
      (t.string k).request = some { dir := .toOpen, cause := some x.cause, detail := x.detail, failed := 0, held := false }) ∧
    (s.started = true → s.swc.engine = .idle → s.swc.ready = true → s.smu.supply = .run → s.swc.openQ = [] →
      t.swc.openQ = [] ∧ t.swc.engine = .pulsing k .toOpen ∧ t.swc.coil = some (k, .toOpen) ∧
      (t.string k).request = some { dir := .toOpen, cause := some x.cause, detail := x.detail, failed := 0, held := true }) := by
  have hrequest : (((s.held k x).openQueued k x.cause x.detail).string k).request =
      some { dir := .toOpen, cause := some x.cause, detail := x.detail, failed := 0, held := false } :=
    congrArg StringRecord.request (State.setString_string (s.held k x) k _)
  rw [State.addHold_closed h, State.queueOpen_eq]
  refine ⟨fun he => ?_, fun hs he hr hp hq => ?_⟩
  · rw [State.kickDrive_rests (.inr (.inl (by exact he)))]
    exact ⟨rfl, rfl, hrequest⟩
  · rw [State.kickDrive_opens (rest := []) (by exact ⟨hs, he, hr, hp⟩) (congrArg (· ++ [k]) hq)]
    refine ⟨rfl, rfl, rfl, ?_⟩
    refine (congrArg StringRecord.request (State.setString_string _ k StringRecord.holdRequest)).trans ?_
    exact congrArg (Option.map fun q : Request => { q with held := true }) hrequest

end Added

/-- Settles O55. -/
theorem holdsFollowStringState : Obligations.HoldsFollowStringState := by
  refine ⟨fun h f => ⟨fun hf => ?_, fun g hg hc => ?_, fun g hg hc => ?_, fun hf => ?_⟩, fun h => ⟨rfl, rfl, rfl, rfl, rfl, rfl⟩,
    fun s k x => ⟨fun j hj => ?_, fun h => ?_, fun h => ?_, fun q h hq hheld => ?_, fun q h hq hheld => ?_, fun h => ?_, fun h => ?_,
      State.addHold_disabled⟩⟩
  · rw [HoldSet.add_fault, if_pos hf]
  · have hlater : h.recordLater f.cause = h := by
      rw [HoldSet.recordLater_eq, if_pos (by rw [hg, ← hc]; rfl)]
    exact ⟨by rw [HoldSet.add_fault, if_neg (by rw [hg]; simp), hlater], hlater⟩
  · have hlater : h.recordLater f.cause = { h with later := some f.cause } := by
      rw [HoldSet.recordLater_eq, if_neg (by rw [hg]; exact fun e => hc (Option.some.inj e))]
    exact ⟨by rw [HoldSet.add_fault, if_neg (by rw [hg]; simp), hlater], hlater⟩
  · show h.recordLater f.cause = _
    rw [HoldSet.recordLater_eq, if_neg (by rw [hf]; simp)]
  · exact (s.addHold_string k j x).2.1 hj
  · obtain ⟨-, -, hstring⟩ := s.addHold_string k k x
    have hk := hstring rfl
    rw [h] at hk
    obtain ⟨hqueues, hdrives⟩ := State.addHold_closed_queues (x := x) h
    refine ⟨hk.1, hk.2, ?_, hqueues, hdrives⟩
    rw [State.addHold_closed h, State.queueOpen_closedAt]
  · rw [State.addHold_opening h, State.held_string]
  · rw [State.addHold_closing h, StringRecord.waiting_of_request hq, hheld]
    exact State.held_string
  · rw [State.addHold_closing h, if_pos (by rw [StringRecord.waiting_of_request hq, hheld]; rfl)]
    have hstring : (s.takenBack k x).string k = { s.string k with holds := (s.string k).holds.add x, request := none, state := .opened } :=
      State.setString_string s k _
    have hstep := (s.takenBack k x).updateMemo_inStep k (.inl (by rw [hstring]))
    obtain ⟨hstate, hholds, -⟩ := (s.takenBack k x).updateMemo_string k k
    rw [hstring] at hstate hholds
    refine ⟨hstate, hholds, ?_, ?_, ?_⟩
    · rw [State.updateMemo_request, hstring]
    · rw [State.updateMemo_swc]
      simp [State.takenBack]
    · rw [hholds]
      rw [hstring] at hstep
      exact memoInStep_before (s' := s.takenBack k x) rfl (by rw [hstring]) hstep
  · rw [State.addHold_isolated h]
    have hstring : (s.heldIsolated k x).string k = { s.string k with holds := (s.string k).holds.addIsolated x } := State.setString_string s k _
    have hstep := (s.heldIsolated k x).updateMemo_inStep k (by rw [hstring]; exact h)
    obtain ⟨hstate, hholds, -⟩ := (s.heldIsolated k x).updateMemo_string k k
    rw [hstring] at hstate hholds hstep
    refine ⟨hstate, hholds, ?_⟩
    rw [hholds]
    exact memoInStep_before (s' := s.heldIsolated k x) rfl (by rw [hstring]) hstep
  · rcases h with h | h | ⟨h, hw⟩
    · rw [State.addHold_closed h]
      obtain ⟨-, -, -, hmemo⟩ := (s.held k x).queueOpen_string k k x.cause x.detail
      refine ⟨((s.held k x).queueOpen_frame k _ _).keeps .smu (by simp), hmemo.trans ?_⟩
      rw [State.held_string]
    · rw [State.addHold_opening h, State.held_string]
      exact ⟨rfl, rfl⟩
    · rw [State.addHold_closing h, if_neg fun e => hw ((StringRecord.closeWaits_iff _).2 ⟨h, e⟩), State.held_string]
      exact ⟨rfl, rfl⟩

end Sys2Proof.Machine

/-! PROOFS. Failed attempts: what the SEL closes, and where a string lands (R44, R45, R148, R154). -/

namespace Sys2Proof.Machine

open Sys2Proof.Safety

/-! ### The SEL at a confirmation and at a failure (R44, R45) -/

section Closing
variable (s : State)

theorem State.selOpened_sel (k : StringNo) : (s.selOpened k).sel = s.sel.closing fun i => i.string == k := s.closeBoth_sel _

theorem State.selReturned_sel (k : StringNo) : (s.selReturned k).sel = s.sel.closing fun i => i.string == k && i.state == .decided :=
  s.closeBoth_sel _

/-- A STUCK string clears the recent decision when its own ARC incident was DECIDED. -/
def Sel.stuck (x : Sel) (k : StringNo) : Sel :=
  { x.closing (fun i => i.string == k) with
    recent := match x.arc with
      | some i => if i.string = k ∧ i.state = .decided then none else x.recent
      | none => x.recent }

theorem Sel.stuck_decided {x : Sel} {k : StringNo} {i : Incident} (h : x.arc = some i) (hk : i.string = k) (hd : i.state = .decided) :
    (x.stuck k).recent = none := by
  rw [Sel.stuck, h]
  exact if_pos ⟨hk, hd⟩

theorem Sel.stuck_other {x : Sel} {k : StringNo} {i : Incident} (h : x.arc = some i) (hk : i.string ≠ k) :
    x.stuck k = x.closing fun i => i.string == k := by
  rw [Sel.stuck, h]
  dsimp only
  rw [if_neg fun e => hk e.1]
  rfl

theorem State.selStuck_sel (k : StringNo) : (s.selStuck k).sel = s.sel.stuck k := by
  unfold State.selStuck
  dsimp only
  rw [State.closeBoth_sel, Sel.stuck]
  cases h : s.sel.arc with
  | none => rfl
  | some i =>
    dsimp only
    by_cases hd : i.string = k ∧ i.state = .decided
    · rw [if_pos hd, if_pos (by rw [hd.1, hd.2]; simp)]
      simp only [Sel.closing, h]
    · rw [if_neg hd, if_neg (by rw [Bool.and_eq_true, beq_iff_eq, beq_iff_eq]; exact hd)]
      rfl

end Closing

/-! ### Where a string lands (R148, R154) -/

/-- From `s` to `t` the string `k` lands in the state `x` with the isolation record `y`, its holds, no request and the memo its holds want;
the other strings, the queues, the engine and the pins stay. -/
structure Landed (s t : State) (k : StringNo) (x : StringState) (y : IsolationRecord) : Prop where
  state : (t.string k).state = x
  holds : (t.string k).holds = (s.string k).holds
  request : (t.string k).request = none
  mismatch : (t.string k).mismatch = 0
  iso : (t.string k).iso = y
  others : ∀ j, j ≠ k → t.string j = s.string j
  swc : t.swc = { s.swc with str := t.swc.str }
  memo : MemoInStep s t s.now k (s.string k).holds

theorem Landed.congr {s t t' : State} {k : StringNo} {x : StringState} {y : IsolationRecord} (h : Landed s t k x y) (hswc : t'.swc = t.swc) (hsmu : t'.smu = t.smu) :
    Landed s t' k x y := by
  have hstring := State.string_of_swc hswc
  obtain ⟨hstate, hholds, hrequest, hmismatch, hiso, hothers, hrest, hmemo⟩ := h
  exact ⟨by rw [hstring, hstate], by rw [hstring, hholds], by rw [hstring, hrequest], by rw [hstring, hmismatch], by rw [hstring, hiso],
    fun j hj => by rw [hstring, hothers j hj], by rw [hswc, ← hrest], memoInStep_after hsmu (by rw [hstring]) hmemo⟩

section Lands
variable (s : State) (k : StringNo)

theorem State.updateMemo_other {j : StringNo} (hj : j ≠ k) : (s.updateMemo k).string j = s.string j := by
  unfold State.updateMemo
  dsimp only
  split
  · rw [State.askMemo_string, State.setString_other _ _ _ _ hj]
  · rfl

theorem State.updateMemo_mismatch (j : StringNo) : ((s.updateMemo k).string j).mismatch = (s.string j).mismatch := by
  by_cases hj : j = k
  · subst hj
    unfold State.updateMemo
    dsimp only
    split
    · rw [State.askMemo_string, State.setString_string]
    · rfl
  · rw [s.updateMemo_other k hj]

/-- A string brought to an isolated state with no request, and its memo with it. -/
def State.landing (x : StringState) : State := (s.setString k fun r => { r with state := x, mismatch := 0, request := none }).updateMemo k

theorem State.landing_landed {x : StringState} (hx : x = .opened ∨ x = .stuckClosed ∨ x = .stuckOpen) :
    Landed s (s.landing k x) k x (s.string k).iso := by
  have hstring := State.setString_string s k fun r => { r with state := x, mismatch := 0, request := none }
  unfold State.landing
  obtain ⟨hstate, hholds, hiso⟩ := (s.setString k fun r => { r with state := x, mismatch := 0, request := none }).updateMemo_string k k
  have hmemo := (s.setString k fun r => { r with state := x, mismatch := 0, request := none }).updateMemo_inStep k (by rw [hstring]; exact hx)
  rw [hstring] at hstate hholds hiso hmemo
  refine ⟨hstate, hholds, ?_, ?_, hiso, fun j hj => ?_, ?_,
    memoInStep_before (s' := s.setString k fun r => { r with state := x, mismatch := 0, request := none }) rfl (by rw [hstring]) hmemo⟩
  · rw [State.updateMemo_request, hstring]
  · rw [State.updateMemo_mismatch, hstring]
  · rw [State.updateMemo_other _ _ hj, State.setString_other _ _ _ _ hj]
  · rw [State.updateMemo_swc]
    rfl

theorem State.becomeStuck_eq (x : StringState) : s.becomeStuck k x = (s.landing k x).selStuck k := rfl

theorem State.becomeStuck_landed {x : StringState} (hx : x = .stuckClosed ∨ x = .stuckOpen) :
    Landed s (s.becomeStuck k x) k x (s.string k).iso :=
  (s.landing_landed k (.inr hx)).congr ((State.selStuck_frame _ k).keeps .swc (by simp)) ((State.selStuck_frame _ k).keeps .smu (by simp))

theorem State.landing_sel (x : StringState) : (s.landing k x).sel = s.sel := (State.updateMemo_frame _ k).keeps .sel (by simp)

theorem State.becomeStuck_sel (x : StringState) : (s.becomeStuck k x).sel = s.sel.stuck k := by
  rw [State.becomeStuck_eq, State.selStuck_sel, State.landing_sel]

/-- A CLOSE that fails under a hold leaves the string OPEN, its DECIDED incidents closed. -/
theorem State.returned_landed : Landed s ((s.landing k .opened).selReturned k) k .opened (s.string k).iso :=
  (s.landing_landed k (.inl rfl)).congr ((State.selReturned_frame _ k).keeps .swc (by simp)) ((State.selReturned_frame _ k).keeps .smu (by simp))

theorem State.returned_sel : ((s.landing k .opened).selReturned k).sel = s.sel.closing fun i => i.string == k && i.state == .decided := by
  rw [State.selReturned_sel, State.landing_sel]

end Lands

/-! ### Failed attempts with the source recharging (R148) -/

section Failed
variable {s : State} {k : StringNo} {q : Request}

/-- The record of a string whose failed request is queued again. -/
def StringRecord.again (r : StringRecord) (q : Request) : StringRecord := { r with request := some { q with failed := q.failed + 1, held := false } }

theorem State.requeue_str (hq : (s.string k).request = some q) :
    modifyAt s.swc.str k (fun r => { r with request := r.request.map fun p => { p with failed := p.failed + 1, held := false } }) =
      s.swc.str.set k.val ((s.string k).again q) := by
  have hagain : { s.string k with request := (s.string k).request.map fun p => { p with failed := p.failed + 1, held := false } } =
      (s.string k).again q := by
    rw [hq]
    rfl
  rw [← hagain]
  rfl

theorem State.requeue_toOpen (hq : (s.string k).request = some q) : s.requeue k .toOpen =
    { s with swc := { s.swc with openQ := k :: s.swc.openQ, str := s.swc.str.set k.val ((s.string k).again q) } } := by
  rw [← State.requeue_str hq]
  rfl

theorem State.requeue_toClose (hq : (s.string k).request = some q) : s.requeue k .toClose =
    { s with swc := { s.swc with closeQ := k :: s.swc.closeQ, str := s.swc.str.set k.val ((s.string k).again q) } } := by
  rw [← State.requeue_str hq]
  rfl

variable (hq : (s.string k).request = some q) (hready : s.swc.ready = false)
include hq hready

theorem State.attemptFailed_retries_toOpen (hf : q.failed = 0) : s.attemptFailed k .toOpen = { s.engineIdle with
    swc := { s.engineIdle.swc with openQ := k :: s.swc.openQ, str := s.swc.str.set k.val ((s.string k).again q) } } := by
  unfold State.attemptFailed
  dsimp only
  rw [show (s.engineIdle.string k).request = some q from hq]
  dsimp only
  rw [if_pos hf, State.kickDrive_rests (.inr (.inr (.inl (by exact hready)))), State.requeue_toOpen (s := s.engineIdle) hq]
  rfl

theorem State.attemptFailed_retries_toClose (he : (s.string k).holds.isEmpty = true) (hf : q.failed = 0) :
    s.attemptFailed k .toClose = { s.engineIdle with
      swc := { s.engineIdle.swc with closeQ := k :: s.swc.closeQ, str := s.swc.str.set k.val ((s.string k).again q) } } := by
  unfold State.attemptFailed
  dsimp only
  rw [show (s.engineIdle.string k).request = some q from hq]
  dsimp only
  rw [if_pos (by exact he), if_pos hf, State.kickDrive_rests (.inr (.inr (.inl (by exact hready)))), State.requeue_toClose (s := s.engineIdle) hq]
  rfl

omit hq hready in
theorem kickDrive_of_landed {u t : State} {x : StringState} {y : IsolationRecord} (h : Landed u t k x y) (hr : u.swc.ready = false) : t.kickDrive = t :=
  State.kickDrive_rests (.inr (.inr (.inl (by rw [h.swc]; exact hr))))

theorem State.attemptFailed_stuckClosed (hf : q.failed ≠ 0) : s.attemptFailed k .toOpen = s.engineIdle.becomeStuck k .stuckClosed := by
  unfold State.attemptFailed
  dsimp only
  rw [show (s.engineIdle.string k).request = some q from hq]
  dsimp only
  rw [if_neg hf, kickDrive_of_landed (s.engineIdle.becomeStuck_landed k (.inl rfl)) hready]

theorem State.attemptFailed_stuckOpen (he : (s.string k).holds.isEmpty = true) (hf : q.failed ≠ 0) :
    s.attemptFailed k .toClose = s.engineIdle.becomeStuck k .stuckOpen := by
  unfold State.attemptFailed
  dsimp only
  rw [show (s.engineIdle.string k).request = some q from hq]
  dsimp only
  rw [if_pos (by exact he), if_neg hf, kickDrive_of_landed (s.engineIdle.becomeStuck_landed k (.inr rfl)) hready]

theorem State.attemptFailed_returned (he : (s.string k).holds.isEmpty = false) :
    s.attemptFailed k .toClose = (s.engineIdle.landing k .opened).selReturned k := by
  unfold State.attemptFailed
  dsimp only
  rw [show (s.engineIdle.string k).request = some q from hq]
  dsimp only
  rw [if_neg (by rw [show (s.engineIdle.string k).holds.isEmpty = false from he]; exact Bool.false_ne_true)]
  exact kickDrive_of_landed (s.engineIdle.returned_landed k) hready

end Failed

end Sys2Proof.Machine

/-! PROOFS. Confirmed attempts (R150 to R152, R164). -/

namespace Sys2Proof.Machine

open Sys2Proof.Safety

/-! ### The isolation record of a confirmed OPEN (R150, R151) -/

section Recorded
variable (s : State) (k : StringNo) (q : Request)

/-- The isolation record a string has once its OPEN is confirmed. -/
def State.isolationGiven : IsolationRecord :=
  match (q.cause.getD .stop).isolation with
  | none => (s.string k).iso
  | some i => { active := true, cause := i, time := s.now
                detail := isolationDetail i ((s.string k).holds.openingDetail (q.cause.getD .stop) q) }

/-- A string whose OPEN is confirmed, its memo not yet in step. -/
def State.justOpened : State := s.setString k fun r => { r with state := .opened, mismatch := 0, request := none }

/-- The isolation recorded and its ISOLATED handed over. -/
def State.recorded : State :=
  (s.justOpened k).recordIsolation k (q.cause.getD .stop) ((s.justOpened k).string k |>.holds.openingDetail (q.cause.getD .stop) q)

theorem State.justOpened_string : (s.justOpened k).string k = { s.string k with state := .opened, mismatch := 0, request := none } :=
  State.setString_string _ _ _

theorem State.recorded_of_none (h : (q.cause.getD .stop).isolation = none) : s.recorded k q = s.justOpened k := by
  unfold State.recorded State.recordIsolation
  rw [h]

/-- A string with its isolation record set. -/
def State.isolated (r : IsolationRecord) : State := (s.justOpened k).setString k fun x => { x with iso := r }

theorem State.recorded_of_some {i : IsoCause} (h : (q.cause.getD .stop).isolation = some i) :
    s.recorded k q = (s.isolated k (s.isolationGiven k q)).queueFrame (isolatedFrame k (s.isolationGiven k q)) := by
  have hgiven : s.isolationGiven k q = { active := true, cause := i, time := s.now
                                         detail := isolationDetail i ((s.string k).holds.openingDetail (q.cause.getD .stop) q) } := by
    unfold State.isolationGiven
    rw [h]
  unfold State.recorded State.recordIsolation
  rw [h, hgiven, State.justOpened_string]
  rfl

/-- The string once recorded, and what the recording leaves. -/
theorem State.recorded_string : (s.recorded k q).string k =
      { s.string k with state := .opened, mismatch := 0, request := none, iso := s.isolationGiven k q } ∧
    (∀ j, j ≠ k → (s.recorded k q).string j = s.string j) ∧ (s.recorded k q).swc = { s.swc with str := (s.recorded k q).swc.str } := by
  cases h : (q.cause.getD .stop).isolation with
  | none =>
    have hgiven : s.isolationGiven k q = (s.string k).iso := by
      unfold State.isolationGiven
      rw [h]
    rw [State.recorded_of_none _ _ _ h, State.justOpened_string, hgiven]
    exact ⟨rfl, fun j hj => State.setString_other _ _ _ _ hj, rfl⟩
  | some i =>
    have hswc : (s.recorded k q).swc = (s.isolated k (s.isolationGiven k q)).swc := by
      rw [State.recorded_of_some _ _ _ h]
      exact (State.queueFrame_frame _ _).keeps .swc (by simp)
    have hstring := State.string_of_swc hswc
    refine ⟨?_, fun j hj => ?_, ?_⟩
    · rw [hstring, State.isolated, State.setString_string, State.justOpened_string]
    · rw [hstring, State.isolated, State.setString_other _ _ _ _ hj, State.justOpened, State.setString_other _ _ _ _ hj]
    · rw [hswc]
      rfl

theorem State.recorded_frame : Frame [.swc, .lnc] s (s.recorded k q) :=
  ((State.setString_frame _ _ _).mono (by simp)).trans (State.recordIsolation_frame _ _ _ _)

/-- In a queue with room the ISOLATED is entered. -/
theorem State.recorded_lnc {i : IsoCause} (h : (q.cause.getD .stop).isolation = some i) (ha : s.smu.address ≠ 0) (hroom : s.lnc.queue.length < 16) :
    (s.recorded k q).lnc = (s.enterFrame (isolatedFrame k (s.isolationGiven k q))).lnc := by
  rw [State.recorded_of_some _ _ _ h, State.queueFrame, State.enqueue_of_room (by exact ha) (by simp [isolatedFrame, newFrame])
    (fun hs => absurd hs (by simp [isolatedFrame, newFrame, Kind.single])) (by exact hroom)]
  rfl

theorem State.recorded_length (ha : s.smu.address ≠ 0) (hroom : s.lnc.queue.length < 16) :
    (s.recorded k q).lnc.queue.length ≤ s.lnc.queue.length + 1 := by
  cases h : (q.cause.getD .stop).isolation with
  | none =>
    rw [State.recorded_of_none _ _ _ h]
    exact Nat.le_succ _
  | some i =>
    rw [State.recorded_lnc _ _ _ h ha hroom]
    exact (length_insertFrame _ _).le

end Recorded

/-! ### The confirmation of an OPEN (R150) -/

section Confirmed
variable (s : State) (k : StringNo) (q : Request)

/-- A confirmed OPEN before a string without holds closes again. -/
def State.openLanding : State := ((((s.recorded k q).updateMemo k).selOpened k).probeDisturbed).startReclose k

theorem State.openConfirmed_eq : s.openConfirmed k q =
    if ((s.openLanding k q).string k).holds.isEmpty = true then (s.openLanding k q).queueClose k else s.openLanding k q := rfl

/-- Up to the memo, a confirmed OPEN moves the SWC, the SMU and the LNC. -/
theorem State.openMemo_frame : Frame [.swc, .smu, .lnc] s ((s.recorded k q).updateMemo k) :=
  ((s.recorded_frame k q).mono (by simp)).trans ((State.updateMemo_frame _ _).mono (by simp))

theorem State.openLanding_rest : Frame [.sel, .prb, .lnc, .rsl] ((s.recorded k q).updateMemo k) (s.openLanding k q) :=
  ((State.selOpened_frame _ _).mono (by simp)).trans
    (((State.probeDisturbed_frame _).mono (by simp)).trans ((State.startReclose_frame _ _).mono (by simp)))

theorem State.openLanding_landed : Landed s (s.openLanding k q) k .opened (s.isolationGiven k q) := by
  obtain ⟨hstring, hothers, hswc⟩ := s.recorded_string k q
  have hframe := s.recorded_frame k q
  obtain ⟨hstate, hholds, hiso⟩ := (s.recorded k q).updateMemo_string k k
  have hmemo := (s.recorded k q).updateMemo_inStep k (.inl (by rw [hstring]))
  rw [hstring] at hstate hholds hiso hmemo
  rw [show (s.recorded k q).now = s.now from hframe.2.1] at hmemo
  have hlanded : Landed s ((s.recorded k q).updateMemo k) k .opened (s.isolationGiven k q) := by
    refine ⟨hstate, hholds, ?_, ?_, hiso, fun j hj => ?_, ?_, memoInStep_before (hframe.keeps .smu (by simp)) (by rw [hstring]) hmemo⟩
    · rw [State.updateMemo_request, hstring]
    · rw [State.updateMemo_mismatch, hstring]
    · rw [State.updateMemo_other _ _ hj, hothers j hj]
    · rw [State.updateMemo_swc, hswc]
  exact hlanded.congr ((s.openLanding_rest k q).keeps .swc (by simp)) ((s.openLanding_rest k q).keeps .smu (by simp))

theorem State.openLanding_sel : (s.openLanding k q).sel = s.sel.closing fun i => i.string == k := by
  unfold State.openLanding
  rw [(State.startReclose_frame _ _).keeps .sel (by simp), State.probeDisturbed_sel, State.selOpened_sel, (s.openMemo_frame k q).keeps .sel (by simp)]

/-- The state whose window a confirmed OPEN disturbs. -/
def State.beforeDisturbed : State := ((s.recorded k q).updateMemo k).selOpened k

theorem State.beforeDisturbed_keeps : (s.beforeDisturbed k q).prb = s.prb ∧ (s.beforeDisturbed k q).smu.address = s.smu.address ∧
    ClaimsWithdrawn (s.recorded k q).lnc (s.beforeDisturbed k q).lnc ∧ (s.beforeDisturbed k q).rsl = s.rsl ∧ (s.beforeDisturbed k q).now = s.now := by
  have hmemo := s.openMemo_frame k q
  have hsel := ((s.recorded k q).updateMemo k).selOpened_frame k
  have hlnc := ((s.recorded k q).updateMemo k).closeBoth_lnc fun i => i.string == k
  rw [(State.updateMemo_frame _ _).keeps .lnc (by simp)] at hlnc
  refine ⟨(hsel.keeps .prb (by simp)).trans (hmemo.keeps .prb (by simp)), ?_, hlnc, (hsel.keeps .rsl (by simp)).trans (hmemo.keeps .rsl (by simp)),
    hsel.2.1.trans hmemo.2.1⟩
  have hsmu : (s.beforeDisturbed k q).smu = ((s.recorded k q).updateMemo k).smu := hsel.keeps .smu (by simp)
  rw [hsmu, address_of_withoutMemos (State.updateMemo_withoutMemos (s.recorded k q) k), (s.recorded_frame k q).keeps .smu (by simp)]

theorem State.openLanding_prb : (s.openLanding k q).prb = (s.beforeDisturbed k q).probeDisturbed.prb := (State.startReclose_frame _ _).keeps .prb (by simp)

theorem State.openLanding_lnc : (s.openLanding k q).lnc = (s.beforeDisturbed k q).probeDisturbed.lnc := (State.startReclose_frame _ _).keeps .lnc (by simp)

end Confirmed

/-! ### Confirmed attempts (R147, R150, R152) -/

section Attempt
variable {s : State} {k : StringNo}

theorem State.attemptConfirmed_congr {t : State} (h : t.engineIdle = s.engineIdle) (k : StringNo) (d : Direction) :
    t.attemptConfirmed k d = s.attemptConfirmed k d := by
  unfold State.attemptConfirmed
  rw [h]

theorem State.attemptConfirmed_of_none (h : (s.string k).request = none) (d : Direction) : s.attemptConfirmed k d = s.engineIdle.kickDrive := by
  unfold State.attemptConfirmed
  dsimp only
  rw [show (s.engineIdle.string k).request = none from h]

theorem State.attemptConfirmed_toOpen {q : Request} (h : (s.string k).request = some q) :
    s.attemptConfirmed k .toOpen = (s.engineIdle.openConfirmed k q).kickDrive := by
  unfold State.attemptConfirmed
  dsimp only
  rw [show (s.engineIdle.string k).request = some q from h]

theorem State.attemptConfirmed_toClose {q : Request} (h : (s.string k).request = some q) :
    s.attemptConfirmed k .toClose = (s.engineIdle.closeConfirmed k).kickDrive := by
  unfold State.attemptConfirmed
  dsimp only
  rw [show (s.engineIdle.string k).request = some q from h]

theorem State.openConfirmed_held (q : Request) (he : (s.string k).holds.isEmpty = false) : s.openConfirmed k q = s.openLanding k q := by
  rw [State.openConfirmed_eq, (s.openLanding_landed k q).holds, he, if_neg Bool.false_ne_true]

theorem State.openConfirmed_free (q : Request) (he : (s.string k).holds.isEmpty = true) : s.openConfirmed k q = (s.openLanding k q).queueClose k := by
  rw [State.openConfirmed_eq, (s.openLanding_landed k q).holds, he, if_pos rfl]

theorem State.takenClosed_holds : ((s.takenClosed k).string k).holds = (s.string k).holds := by
  rw [State.takenClosed_string, if_pos rfl]
  rfl

theorem State.closeConfirmed_free (he : (s.string k).holds.isEmpty = true) : s.closeConfirmed k = s.takenClosed k := by
  unfold State.closeConfirmed
  dsimp only
  rw [State.takenClosed_holds, if_pos he]

theorem State.closeConfirmed_held (he : (s.string k).holds.isEmpty = false) : s.closeConfirmed k =
    (s.takenClosed k).queueOpen k (s.string k).holds.leading.1 (s.string k).holds.leading.2 := by
  unfold State.closeConfirmed
  dsimp only
  rw [State.takenClosed_holds, if_neg (by rw [he]; exact Bool.false_ne_true)]

theorem State.takenClosed_swc : (s.takenClosed k).swc = { s.swc with str := (s.takenClosed k).swc.str } := by
  have hswc : (s.takenClosed k).swc = (s.setString k StringRecord.taken).swc := ((s.setString k StringRecord.taken).askMemo_frame k .none).keeps .swc (by simp)
  rw [hswc]
  rfl

/-! ### A confirmation while the source recharges (R145, R147) -/

/-- The drive side of the SWC: engine, coil, ready pin and recharge. -/
def Swc.drive (x : Swc) : Engine × Option (StringNo × Direction) × Bool × Option Time := (x.engine, x.coil, x.ready, x.rechargeAt)

theorem State.queueClose_drive (s : State) (k : StringNo) (hr : s.swc.ready = false) : (s.queueClose k).swc.drive = s.swc.drive := by
  unfold State.queueClose
  dsimp only
  rw [State.kickDrive_rests (.inr (.inr (.inl (by exact hr))))]
  rfl

theorem State.queueOpen_drive (s : State) (k : StringNo) (c : OpenCause) (d : HoldDetail) (hr : s.swc.ready = false) :
    (s.queueOpen k c d).swc.drive = s.swc.drive := by
  rw [State.queueOpen_eq, State.kickDrive_rests (.inr (.inr (.inl (by exact hr))))]
  rfl

theorem State.openConfirmed_drive (s : State) (k : StringNo) (q : Request) (hr : s.swc.ready = false) : (s.openConfirmed k q).swc.drive = s.swc.drive := by
  have hlanded := (s.openLanding_landed k q).swc
  have hdrive : (s.openLanding k q).swc.drive = s.swc.drive := by rw [hlanded]; rfl
  rw [State.openConfirmed_eq]
  split
  · rw [State.queueClose_drive _ _ (by rw [hlanded]; exact hr), hdrive]
  · exact hdrive

theorem State.closeConfirmed_drive (s : State) (k : StringNo) (hr : s.swc.ready = false) : (s.closeConfirmed k).swc.drive = s.swc.drive := by
  have hdrive : (s.takenClosed k).swc.drive = s.swc.drive := by rw [State.takenClosed_swc]; rfl
  unfold State.closeConfirmed
  dsimp only
  split
  · exact hdrive
  · rw [State.queueOpen_drive _ _ _ _ (by rw [State.takenClosed_swc]; exact hr), hdrive]

theorem State.openConfirmed_holds (s : State) (k : StringNo) (q : Request) : ((s.openConfirmed k q).string k).holds = (s.string k).holds := by
  have hholds := (s.openLanding_landed k q).holds
  rw [State.openConfirmed_eq]
  split
  · rw [((s.openLanding k q).queueClose_string k k).2.1, hholds]
  · exact hholds

theorem State.closeConfirmed_holds (s : State) (k : StringNo) : ((s.closeConfirmed k).string k).holds = (s.string k).holds := by
  unfold State.closeConfirmed
  dsimp only
  split
  · exact State.takenClosed_holds
  · rw [((s.takenClosed k).queueOpen_string k k _ _).2.1, State.takenClosed_holds]

theorem kickDrive_of_drive {s t : State} (hr : s.swc.ready = false) (h : t.swc.drive = s.swc.drive) : t.kickDrive = t := by
  have hready : t.swc.ready = s.swc.ready := congrArg (fun x => x.2.2.1) h
  exact State.kickDrive_rests (.inr (.inr (.inl (hready.trans hr))))

/-- While the source recharges a confirmed attempt leaves the engine idle and the holds as they were. -/
theorem State.attemptConfirmed_recharging (k : StringNo) (d : Direction) (hr : s.swc.ready = false) :
    (s.attemptConfirmed k d).swc.drive = (.idle, none, false, s.swc.rechargeAt) ∧
    ((s.attemptConfirmed k d).string k).holds = (s.string k).holds ∧
    (d = .toOpen → (s.string k).request ≠ none → (s.string k).holds.isEmpty = false →
      ((s.attemptConfirmed k d).string k).state = .opened ∧ ((s.attemptConfirmed k d).string k).request = none) ∧
    (d = .toClose → (s.string k).request ≠ none → (s.string k).holds.isEmpty = true →
      ((s.attemptConfirmed k d).string k).state = .closed ∧ ((s.attemptConfirmed k d).string k).request = none) := by
  have hidle : s.engineIdle.swc.drive = (.idle, none, false, s.swc.rechargeAt) := by
    rw [← hr]
    rfl
  have hready : s.engineIdle.swc.ready = false := hr
  cases hq : (s.string k).request with
  | none =>
    rw [State.attemptConfirmed_of_none hq, kickDrive_of_drive hready rfl]
    exact ⟨hidle, rfl, fun _ h => absurd rfl h, fun _ h => absurd rfl h⟩
  | some q =>
    cases d with
    | toOpen =>
      have hdrive := s.engineIdle.openConfirmed_drive k q hready
      rw [State.attemptConfirmed_toOpen hq, kickDrive_of_drive hready hdrive]
      refine ⟨hdrive.trans hidle, s.engineIdle.openConfirmed_holds k q, fun _ _ he => ?_, fun h => absurd h (by decide)⟩
      rw [State.openConfirmed_held q (by exact he)]
      exact ⟨(s.engineIdle.openLanding_landed k q).state, (s.engineIdle.openLanding_landed k q).request⟩
    | toClose =>
      have hdrive := s.engineIdle.closeConfirmed_drive k hready
      rw [State.attemptConfirmed_toClose hq, kickDrive_of_drive hready hdrive]
      refine ⟨hdrive.trans hidle, s.engineIdle.closeConfirmed_holds k, fun h => absurd h (by decide), fun _ _ he => ?_⟩
      rw [State.closeConfirmed_free (by exact he), State.takenClosed_string, if_pos rfl]
      exact ⟨rfl, rfl⟩

end Attempt

end Sys2Proof.Machine

/-! PROOFS. SOURCE_READY, RECHARGE_EXPIRY, PULSE_END and COIL_OVER (R143 to R148). -/

namespace Sys2Proof.Machine

open Sys2Proof.Safety

/-! ### The source reports ready (R143 to R145) -/

section Source
variable {s : State}

theorem State.beginPulse_string (s : State) (k : StringNo) (d : Direction) : ((s.beginPulse k d).string k).state = (s.string k).state ∧
    ((s.beginPulse k d).string k).holds = (s.string k).holds ∧ ∀ j, j ≠ k → (s.beginPulse k d).string j = s.string j := by
  have hstring (j : StringNo) : (s.beginPulse k d).string j = (s.setString k StringRecord.holdRequest).string j := rfl
  rw [hstring, State.setString_string]
  exact ⟨rfl, rfl, fun j hj => (hstring j).trans (State.setString_other _ _ _ _ hj)⟩

/-- The source reported ready, the engine not yet served. -/
def State.sourced (s : State) : State := { s with swc := { s.swc with ready := true, driveSupply := false, rechargeAt := none } }

theorem State.sourceReady_eq (s : State) : s.sourceReady = s.sourced.kickDrive := rfl

end Source

/-! ### A pulse ends (R146, R147) -/

section Pulse
variable {s : State} {k : StringNo} {d : Direction} (he : s.swc.engine = .pulsing k d)
include he

theorem State.coilOver_pulsing : s.coilOver = s.pulseEnds.attemptFailed k d := by
  unfold State.coilOver
  rw [he]

theorem State.pulseEnd_pulsing (hp : expired s.now s.swc.pulseEndAt = true) (r : CoilReading) : s.pulseEnd r =
    if r = .none then s.pulseEnds.attemptFailed k d
    else if s.pulseEnds.contactShows k d = true then s.pulseEnds.attemptConfirmed k d
    else { s.pulseEnds with swc := { s.pulseEnds.swc with
      engine := .confirming k d, confirmAt := some (s.now.plus s.smu.settings.confirmMs) } } := by
  unfold State.pulseEnd
  rw [he]
  exact if_pos hp

end Pulse

theorem State.contactShows_iff (s : State) (k : StringNo) (d : Direction) : s.contactShows k d = true ↔ s.swc.contact[k] = (d == .toClose) := by
  rw [State.contactShows, beq_iff_eq]

/-- The engine awaiting the contact of a string. -/
def State.awaiting (s : State) (k : StringNo) (d : Direction) : State := { s with swc := { s.swc with engine := .confirming k d } }

/-- A contact that shows the requested position already confirms as a change to it does. -/
theorem State.contactChange_shown {s : State} {k : StringNo} {d : Direction} (he : s.swc.engine = .confirming k d)
    (hc : s.swc.contact[k] = (d == .toClose)) : s.contactChange k (d == .toClose) = s.attemptConfirmed k d := by
  have hsame : (modifyAt s.swc.contact k fun _ => d == .toClose) = s.swc.contact := by
    rw [modifyAt, ← hc]
    exact Vector.set_getElem_self k.isLt
  unfold State.contactChange
  dsimp only
  rw [hsame, he]
  exact if_pos ⟨rfl, (s.contactShows_iff k d).2 hc⟩

theorem State.elapse_zero (s : State) : s.elapse 0 = s := by
  have hnow : s.now.plus 0 = s.now := BitVec.add_zero _
  rw [State.elapse, hnow]

/-! ### A pulse that fails (R44, R45, R148, R154) -/

section Fails
variable {dt : Nat} {s : State} {k : StringNo} {d : Direction}

/-- COIL_OVER, and a PULSE_END with no current read at its time, end the pulse as failed. -/
theorem exec_pulseFails (hs : s.started = true) (he : s.swc.engine = .pulsing k d) {c : Instr}
    (hc : c = Instr.coilOver dt ∨ (c = .pulseEnd dt .none ∧ expired (s.now.plus dt) s.swc.pulseEndAt = true)) :
    exec c s = .next ((s.elapse dt).pulseEnds.attemptFailed k d).settle := by
  rcases hc with rfl | ⟨rfl, hp⟩
  · rw [exec_coilOver hs, State.coilOver_pulsing (s := s.elapse dt) he]
  · rw [exec_pulseEnd hs, State.pulseEnd_pulsing (s := s.elapse dt) he hp, if_pos rfl]

end Fails

/-- A CLOSE that fails for good: the string is STUCK-OPEN, or OPEN again under its holds, and the incidents that the failure ends close. -/
theorem State.attemptFailed_lands {s : State} {k : StringNo} {q : Request} (hq : (s.string k).request = some q) (hr : s.swc.ready = false)
    (hf : (s.string k).holds.isEmpty = false ∨ q.failed ≠ 0) : ∃ p : Incident → Bool,
      ((s.attemptFailed k .toClose).sel.arc = (s.sel.closing p).arc ∧ (s.attemptFailed k .toClose).sel.ground = (s.sel.closing p).ground) ∧
      (∀ i, p i = true ↔ i.string = k ∧ ((s.string k).holds.isEmpty = true ∨ i.state = .decided)) ∧
      Landed s.engineIdle (s.attemptFailed k .toClose) k (if (s.string k).holds.isEmpty = true then .stuckOpen else .opened) (s.string k).iso := by
  cases he : (s.string k).holds.isEmpty with
  | true =>
    rw [State.attemptFailed_stuckOpen hq hr he (hf.resolve_left (by rw [he]; decide)), if_pos rfl, State.becomeStuck_sel]
    exact ⟨fun i => i.string == k, ⟨rfl, rfl⟩, fun i => by simp, s.engineIdle.becomeStuck_landed k (.inr rfl)⟩
  | false =>
    rw [State.attemptFailed_returned hq hr he, if_neg Bool.false_ne_true, State.returned_sel]
    exact ⟨fun i => i.string == k && i.state == .decided, ⟨rfl, rfl⟩, fun i => by simp, s.engineIdle.returned_landed k⟩

/-- Settles O56. -/
theorem pulsesDriveAndFail : Obligations.PulsesDriveAndFail := by
  refine fun dt s => ⟨fun h => ?_, fun k q hs he hp hq => ?_, fun k q hs he hp ho hq => ?_, fun hs hr hd => ?_,
    fun k d hs he => ⟨fun r hp hr hc => ?_, fun r hp hr hc => ?_, fun c hc q hd hq => ⟨fun hf => ?_, fun hf => ?_⟩,
      fun c hc q hd hq => ⟨fun hh hf => ?_, fun hf => ?_⟩⟩⟩
  · have hrest : (s.elapse dt).sourced.kickDrive = (s.elapse dt).sourced := State.kickDrive_rests (by
      rcases h with h | h | h | h
      · exact .inl h
      · exact .inr (.inl h)
      · exact .inr (.inr (.inr (.inl h)))
      · exact .inr (.inr (.inr (.inr h))))
    rw [exec_sourceReady, State.sourceReady_eq, hrest]
    rfl
  · have hdrive := State.kickDrive_opens (s := (s.elapse dt).sourced) (k := k) (rest := q) ⟨hs, he, rfl, hp⟩ hq
    obtain ⟨hstate, hholds, hothers⟩ := ({ (s.elapse dt).sourced with swc := { (s.elapse dt).sourced.swc with openQ := q } } : State).beginPulse_string k .toOpen
    refine ⟨_, exec_sourceReady s dt, ?_⟩
    rw [State.sourceReady_eq, hdrive]
    exact ⟨rfl, rfl, rfl, rfl, rfl, rfl, hstate, hholds, hothers⟩
  · have hdrive := State.kickDrive_closes (s := (s.elapse dt).sourced) (k := k) (rest := q) ⟨hs, he, rfl, hp⟩ ho hq
    obtain ⟨hstate, hholds, hothers⟩ := ({ (s.elapse dt).sourced with swc := { (s.elapse dt).sourced.swc with closeQ := q } } : State).beginPulse_string k .toClose
    refine ⟨_, exec_sourceReady s dt, ?_⟩
    rw [State.sourceReady_eq, hdrive]
    exact ⟨rfl, rfl, rfl, rfl, rfl, rfl, hstate, hholds, hothers⟩
  · rw [exec_rechargeExpiry hs, State.rechargeExpiry, if_pos (by
      rw [Bool.and_eq_true]
      exact ⟨hd, by rw [show (s.elapse dt).swc.ready = false from hr]; rfl⟩)]
    rfl
  · have hnot : ¬(s.elapse dt).pulseEnds.contactShows k d = true := by
      rw [State.contactShows_iff]
      intro h
      have := hc.symm.trans h
      cases d <;> exact absurd this (by decide)
    rw [exec_pulseEnd hs, State.pulseEnd_pulsing (s := s.elapse dt) he hp, if_neg hr, if_neg hnot]
    rfl
  · have hshows : (s.elapse dt).pulseEnds.contactShows k d = true := (State.contactShows_iff _ _ _).2 hc
    have hend : exec (.pulseEnd dt r) s = .next ((s.elapse dt).pulseEnds.attemptConfirmed k d).settle := by
      rw [exec_pulseEnd hs, State.pulseEnd_pulsing (s := s.elapse dt) he hp, if_neg hr, if_pos hshows]
    obtain ⟨hdrive, hholds, hopen, hclose⟩ := State.attemptConfirmed_recharging (s := (s.elapse dt).pulseEnds) k d rfl
    refine ⟨?_, _, hend, congrArg (fun x => x.1) hdrive, congrArg (fun x => x.2.1) hdrive, congrArg (fun x => x.2.2.1) hdrive,
      congrArg (fun x => x.2.2.2) hdrive, hholds, hopen, hclose⟩
    have hchange := State.contactChange_shown (s := (s.elapse dt).pulseEnds.awaiting k d) rfl hc
    rw [hend, exec_contactFeedbackChange, State.elapse_zero, State.attemptConfirmed_congr (t := (s.elapse dt).pulseEnds)
      (s := (s.elapse dt).pulseEnds.awaiting k d) rfl k d, ← hchange]
    rfl
  · subst hd
    rw [exec_pulseFails hs he hc, State.attemptFailed_retries_toOpen (s := (s.elapse dt).pulseEnds) hq rfl hf, StringRecord.again, hf]
    rfl
  · subst hd
    refine ⟨_, exec_pulseFails hs he hc, ?_⟩
    rw [State.attemptFailed_stuckClosed (s := (s.elapse dt).pulseEnds) hq rfl hf]
    have hlanded := (s.elapse dt).pulseEnds.engineIdle.becomeStuck_landed k (x := .stuckClosed) (.inl rfl)
    have hsel := (s.elapse dt).pulseEnds.engineIdle.becomeStuck_sel k .stuckClosed
    have hstrings := strings_of_withoutMemos ((s.elapse dt).pulseEnds.engineIdle.becomeStuck_withoutMemos k .stuckClosed)
    generalize (s.elapse dt).pulseEnds.engineIdle.becomeStuck k .stuckClosed = t at *
    obtain ⟨hstate, hholds, hrequest, -, -, hothers, hswc, hmemo⟩ := hlanded
    refine ⟨congrArg Swc.engine hswc, congrArg Swc.coil hswc, congrArg Swc.ready hswc, (congrArg Swc.openQ hswc :), (congrArg Swc.closeQ hswc :), hstate,
      hholds, hrequest, hothers, memoInStep_before (s' := (s.elapse dt).pulseEnds.engineIdle) rfl rfl (memoInStep_after (t := t) rfl rfl hmemo),
      fun i hi hk => ?_, fun i hi hk => ?_, fun hk hx => ?_⟩
    · rw [State.settle_sel, hsel]
      exact (Sel.closing_arc _ hi).trans (if_pos (beq_iff_eq.2 hk))
    · have harc := (Sel.closing_arc (x := s.sel) (fun i => i.string == k) hi).trans (if_neg (by simpa using hk))
      rw [State.settle_sel, hsel, ← harc]
      exact Sel.stuck_other hi hk
    · refine (State.boxTripCondition_iff t).2 ⟨k, ?_, hstate, ?_⟩
      · rw [hstrings]
        exact hk
      · rw [hholds]
        exact hx
  · subst hd
    rw [exec_pulseFails hs he hc, State.attemptFailed_retries_toClose (s := (s.elapse dt).pulseEnds) hq rfl hh hf, StringRecord.again, hf]
    rfl
  · subst hd
    refine ⟨_, exec_pulseFails hs he hc, ?_⟩
    obtain ⟨p, ⟨harc, hground⟩, hcloses, hlanded⟩ := State.attemptFailed_lands (s := (s.elapse dt).pulseEnds) hq rfl hf
    generalize (s.elapse dt).pulseEnds.attemptFailed k .toClose = t at *
    obtain ⟨hstate, hholds, hrequest, -, hiso, hothers, hswc, hmemo⟩ := hlanded
    refine ⟨congrArg Swc.engine hswc, congrArg Swc.coil hswc, congrArg Swc.ready hswc, (congrArg Swc.openQ hswc :), (congrArg Swc.closeQ hswc :),
      hholds, hrequest, hiso, memoInStep_before (s' := (s.elapse dt).pulseEnds.engineIdle) rfl rfl (memoInStep_after (t := t) rfl rfl hmemo),
      hothers, hstate, fun i hi => ?_, fun i hi => ?_⟩
    · have h := harc.trans (Sel.closing_arc (x := s.sel) p hi)
      exact ⟨fun hc => h.trans (if_pos ((hcloses i).2 hc)), fun hc => h.trans (if_neg fun hp => hc ((hcloses i).1 hp))⟩
    · have h := hground.trans (Sel.closing_ground (x := s.sel) p hi)
      exact ⟨fun hc => h.trans (if_pos ((hcloses i).2 hc)), fun hc => h.trans (if_neg fun hp => hc ((hcloses i).1 hp))⟩

end Sys2Proof.Machine

/-! PROOFS. CONTACT_FEEDBACK_CHANGE and CONFIRM_EXPIRY (R44, R45, R68, R69, R87, R147, R148, R150 to R154, R164, R167). -/

namespace Sys2Proof.Machine

open Sys2Proof.Safety

/-! ### The engine served (R143, R144) -/

section Served
variable (s : State)

/-- The engine's service holds the request of at most one string, and moves no contact. -/
theorem State.kickDrive_served (k : StringNo) : (s.kickDrive.string k = s.string k ∨ s.kickDrive.string k = (s.string k).holdRequest) ∧
    s.kickDrive.swc.contact = s.swc.contact := by
  have hpulse (u : State) (j : StringNo) (d : Direction) (hu : u.swc.str = s.swc.str) (hc : u.swc.contact = s.swc.contact) :
      ((u.beginPulse j d).string k = s.string k ∨ (u.beginPulse j d).string k = (s.string k).holdRequest) ∧
      (u.beginPulse j d).swc.contact = s.swc.contact := by
    have hstring : (u.beginPulse j d).string k = (u.setString j StringRecord.holdRequest).string k := rfl
    have hk : u.string k = s.string k := by
      unfold State.string
      rw [hu]
    refine ⟨?_, hc⟩
    by_cases hj : k = j
    · rw [hstring, hj, State.setString_string, ← hj, hk]
      exact .inr rfl
    · rw [hstring, State.setString_other _ _ _ _ hj, hk]
      exact .inl rfl
  unfold State.kickDrive
  split
  · split
    · exact hpulse _ _ _ rfl rfl
    · split
      · exact hpulse _ _ _ rfl rfl
      · exact ⟨.inl rfl, rfl⟩
  · exact ⟨.inl rfl, rfl⟩

theorem State.kickDrive_request_none {k : StringNo} (h : (s.string k).request = none) : (s.kickDrive.string k).request = none := by
  obtain ⟨hk | hk, -⟩ := s.kickDrive_served k
  · rw [hk, h]
  · rw [hk, StringRecord.holdRequest, h]
    rfl

end Served

/-! ### A contact changes (R147) -/

section Contact
variable {s : State} {k : StringNo}

/-- The contact feedback of a string moved. -/
def State.contacted (s : State) (k : StringNo) (c : Bool) : State := { s with swc := { s.swc with contact := s.swc.contact.set k.val c } }

theorem State.contactChange_moves {c : Bool} (h : ∀ d, s.swc.engine = .confirming k d → c ≠ (d == .toClose)) :
    s.contactChange k c = s.contacted k c := by
  have hmoved : (modifyAt s.swc.contact k fun _ => c) = s.swc.contact.set k.val c := rfl
  unfold State.contactChange State.contacted
  dsimp only
  rw [hmoved]
  cases he : s.swc.engine with
  | idle => rfl
  | pulsing j d => rfl
  | confirming j d =>
    refine if_neg ?_
    rintro ⟨rfl, hshows⟩
    rw [State.contactShows_iff] at hshows
    refine h d he ?_
    rw [← hshows]
    exact (Vector.getElem_set_self _).symm

theorem State.contactChange_confirms {d : Direction} (he : s.swc.engine = .confirming k d) :
    s.contactChange k (d == .toClose) = (s.contacted k (d == .toClose)).attemptConfirmed k d := by
  have hmoved : (modifyAt s.swc.contact k fun _ => d == .toClose) = s.swc.contact.set k.val (d == .toClose) := rfl
  unfold State.contactChange State.contacted
  dsimp only
  rw [hmoved, he]
  refine if_pos ⟨rfl, (State.contactShows_iff _ _ _).2 ?_⟩
  exact Vector.getElem_set_self _

end Contact

/-! ### A confirmed OPEN, the engine served (R150) -/

section Opened
variable (s : State) (k : StringNo) (q : Request)

theorem State.queueClose_spec : ((s.queueClose k).string k).state = .closing ∧ ((s.queueClose k).string k).holds = (s.string k).holds ∧
    ((s.queueClose k).string k).iso = (s.string k).iso ∧ ((s.queueClose k).string k).mismatch = 0 ∧
    (∃ b, ((s.queueClose k).string k).request = some { dir := .toClose, cause := none, detail := HoldDetail.none, failed := 0, held := b }) ∧
    (s.queueClose k).swc.contact = s.swc.contact := by
  obtain ⟨hstate, hholds, hiso, -⟩ := s.queueClose_string k k
  have hset := State.setString_string s k fun r => { r with
    state := .closing, mismatch := 0
    request := some { dir := .toClose, cause := none, detail := HoldDetail.none, failed := 0, held := false } }
  refine ⟨hstate.trans (if_pos rfl), hholds, hiso, ?_, ?_, ?_⟩
  · unfold State.queueClose
    rw [(State.kickDrive_string _ k).2.2.2.2]
    exact congrArg StringRecord.mismatch hset
  · unfold State.queueClose
    exact State.kickDrive_request (q := { dir := .toClose, cause := none, detail := HoldDetail.none, failed := 0, held := false })
      (congrArg StringRecord.request hset)
  · exact (State.kickDrive_served _ k).2

/-- A confirmed OPEN once the engine is served. -/
def State.openServed : State := (s.openConfirmed k q).kickDrive

theorem State.openServed_rest : Frame [.swc] (s.openLanding k q) (s.openServed k q) := by
  have hconfirmed : Frame [.swc] (s.openLanding k q) (s.openConfirmed k q) := by
    rw [State.openConfirmed_eq]
    split
    · exact State.queueClose_frame _ _
    · exact .refl _ _
  exact hconfirmed.trans (State.kickDrive_frame _)

theorem State.openServed_string :
    ((s.openServed k q).string k).iso = s.isolationGiven k q ∧ ((s.openServed k q).string k).holds = (s.string k).holds ∧
    ((s.openServed k q).string k).mismatch = 0 ∧ (s.openServed k q).swc.contact = s.swc.contact ∧
    ((s.string k).holds.isEmpty = false → ((s.openServed k q).string k).state = .opened ∧ ((s.openServed k q).string k).request = none) ∧
    ((s.string k).holds.isEmpty = true → ((s.openServed k q).string k).state = .closing ∧
      ∃ p, ((s.openServed k q).string k).request = some p ∧ p.dir = .toClose ∧ p.failed = 0) := by
  obtain ⟨kstate, kholds, kiso, -, kmismatch⟩ := (s.openConfirmed k q).kickDrive_string k
  have hlanded := s.openLanding_landed k q
  have hcontact : (s.openServed k q).swc.contact = (s.openConfirmed k q).swc.contact := ((s.openConfirmed k q).kickDrive_served k).2
  have hlandedContact : (s.openLanding k q).swc.contact = s.swc.contact := (congrArg Swc.contact hlanded.swc :)
  unfold State.openServed at *
  rw [kiso, kholds, kmismatch, hcontact, kstate]
  cases he : (s.string k).holds.isEmpty with
  | false =>
    rw [State.openConfirmed_held q he]
    exact ⟨hlanded.iso, hlanded.holds, hlanded.mismatch, hlandedContact,
      fun _ => ⟨hlanded.state, State.kickDrive_request_none _ hlanded.request⟩, fun h => absurd h Bool.false_ne_true⟩
  | true =>
    rw [State.openConfirmed_free q he]
    obtain ⟨hstate, hholds, hiso, hmismatch, ⟨b, hrequest⟩, hcont⟩ := (s.openLanding k q).queueClose_spec k
    refine ⟨hiso.trans hlanded.iso, hholds.trans hlanded.holds, hmismatch, hcont.trans hlandedContact, fun h => absurd h.symm Bool.false_ne_true, fun _ => ⟨hstate, ?_⟩⟩
    obtain ⟨b', hserved⟩ := State.kickDrive_request hrequest
    exact ⟨_, hserved, rfl, rfl⟩

theorem State.openServed_memo : MemoInStep s (s.openServed k q) s.now k (s.string k).holds :=
  memoInStep_after ((State.kickDrive_frame _).keeps .smu (by simp)) ((s.openConfirmed k q).kickDrive_string k).2.2.2.1 (s.openConfirmed_memo k q)

theorem State.openServed_sel : (s.openServed k q).sel = s.sel.closing fun i => i.string == k :=
  ((s.openServed_rest k q).keeps .sel (by simp)).trans (s.openLanding_sel k q)

theorem State.openServed_prb : (s.openServed k q).prb = (s.beforeDisturbed k q).probeDisturbed.prb :=
  ((s.openServed_rest k q).keeps .prb (by simp)).trans (s.openLanding_prb k q)

theorem State.openServed_lnc : (s.openServed k q).lnc = (s.beforeDisturbed k q).probeDisturbed.lnc :=
  ((s.openServed_rest k q).keeps .lnc (by simp)).trans (s.openLanding_lnc k q)

/-- A reclosable fault starts the reclose timer at the confirmation. -/
theorem State.openServed_recloses {g : FaultHold} (hg : (s.string k).holds.fault = some g) (hc : g.cause = .reverse ∨ g.cause = .overcurrent)
    (hm : s.rsl.str[k].reclose < s.smu.settings.recloseMax) :
    (s.openServed k q).rsl.str[k].recloseAt = some (s.now.plus (s.smu.settings.recloseDelay * 1000)) := by
  obtain ⟨-, -, -, hrsl, hnow⟩ := s.beforeDisturbed_keeps k q
  have hdisturbed := (s.beforeDisturbed k q).probeDisturbed_frame
  have hreclose : s.openLanding k q = (s.beforeDisturbed k q).probeDisturbed.startReclose k := rfl
  have hswc : (s.beforeDisturbed k q).probeDisturbed.swc = (s.openLanding k q).swc := ((State.startReclose_frame _ _).keeps .swc (by simp)).symm
  have hholds := (s.openLanding_landed k q).holds
  rw [← State.string_of_swc hswc] at hholds
  have hsettings : (s.beforeDisturbed k q).probeDisturbed.smu.settings = s.smu.settings := by
    rw [hdisturbed.keeps .smu (by simp), State.beforeDisturbed, (State.selOpened_frame _ _).keeps .smu (by simp),
      settings_of_withoutMemos (State.updateMemo_withoutMemos (s.recorded k q) k), (s.recorded_frame k q).keeps .smu (by simp)]
  have hrsl' : (s.beforeDisturbed k q).probeDisturbed.rsl = s.rsl := (hdisturbed.keeps .rsl (by simp)).trans hrsl
  have hnow' : (s.beforeDisturbed k q).probeDisturbed.now = s.now := hdisturbed.2.1.trans hnow
  have hreclosable : (s.string k).holds.reclosable = true := by
    rw [HoldSet.reclosable, hg]
    dsimp only
    rcases hc with hc | hc <;> rw [hc] <;> rfl
  rw [(s.openServed_rest k q).keeps .rsl (by simp), hreclose, State.startReclose, hholds, hrsl', hsettings, hreclosable, decide_eq_true hm, hnow']
  rw [Bool.true_and, if_pos rfl, State.setRelease_rsl, hrsl']
  exact congrArg ReleaseString.recloseAt (modifyAt_same _ _ _)

end Opened

/-! ### A confirmed CLOSE, the engine served (R152) -/

section Closed
variable (s : State) (k : StringNo)

/-- A confirmed CLOSE once the engine is served. -/
def State.closeServed : State := (s.closeConfirmed k).kickDrive

/-- A string taken as CLOSED opens again while it is held: what that leaves. -/
theorem State.closeServed_rest : Frame [.swc, .rsl] (s.takenClosed k) (s.closeServed k) := by
  have hconfirmed : Frame [.swc, .rsl] (s.takenClosed k) (s.closeConfirmed k) := by
    unfold State.closeConfirmed
    dsimp only
    split
    · exact .refl _ _
    · exact State.queueOpen_frame _ _ _ _
  exact hconfirmed.trans ((State.kickDrive_frame _).mono (by simp))

theorem State.queueOpen_mismatch (c : OpenCause) (d : HoldDetail) : ((s.queueOpen k c d).string k).mismatch = 0 := by
  have hset := State.setString_string s k fun r => { r with
    state := .opening, mismatch := 0
    request := some { dir := .toOpen, cause := some c, detail := d, failed := 0, held := false } }
  rw [State.queueOpen_eq, (State.kickDrive_string _ k).2.2.2.2]
  exact congrArg StringRecord.mismatch hset

theorem State.queueOpen_contact (c : OpenCause) (d : HoldDetail) : (s.queueOpen k c d).swc.contact = s.swc.contact :=
  (State.kickDrive_served (s.openQueued k c d) k).2

theorem State.closeServed_string :
    ((s.closeServed k).string k).holds = (s.string k).holds ∧ ((s.closeServed k).string k).iso = { (s.string k).iso with active := false } ∧
    ((s.closeServed k).string k).memo = .none ∧ ((s.closeServed k).string k).mismatch = 0 ∧ (s.closeServed k).swc.contact = s.swc.contact := by
  obtain ⟨-, kholds, kiso, kmemo, kmismatch⟩ := (s.closeConfirmed k).kickDrive_string k
  have hcontact : (s.closeServed k).swc.contact = (s.closeConfirmed k).swc.contact := ((s.closeConfirmed k).kickDrive_served k).2
  have htakenContact : (s.takenClosed k).swc.contact = s.swc.contact := (congrArg Swc.contact (s.takenClosed_swc) :)
  have htaken : (s.takenClosed k).string k = (s.string k).taken := by rw [State.takenClosed_string, if_pos rfl]
  unfold State.closeServed at *
  rw [kholds, kiso, kmemo, kmismatch, hcontact]
  cases he : (s.string k).holds.isEmpty with
  | true =>
    rw [State.closeConfirmed_free he, htaken]
    exact ⟨rfl, rfl, rfl, rfl, htakenContact⟩
  | false =>
    rw [State.closeConfirmed_held he]
    obtain ⟨-, hholds, hiso, hmemo⟩ := (s.takenClosed k).queueOpen_string k k (s.string k).holds.leading.1 (s.string k).holds.leading.2
    rw [htaken] at hholds hiso hmemo
    exact ⟨hholds, hiso, hmemo, State.queueOpen_mismatch _ _ _ _, (State.queueOpen_contact _ _ _ _).trans htakenContact⟩

theorem State.closeServed_asks : MemoAsked s (s.closeServed k) s.now k .none := by
  have hsmu : (s.closeServed k).smu = ((s.setString k StringRecord.taken).askMemo k .none).smu := (s.closeServed_rest k).keeps .smu (by simp)
  have hasked := (s.setString k StringRecord.taken).askMemo_asked k .none
  unfold MemoAsked at *
  rw [hsmu]
  exact hasked

theorem State.closeServed_learns : (s.closeServed k).eve[k].learnPending = true := by
  have heve : (s.closeServed k).eve = modifyAt s.eve k fun e => { e with learnPending := true } :=
    ((s.closeServed_rest k).keeps .eve (by simp)).trans (s.takenClosed_eve k)
  rw [heve, modifyAt_same]

/-- A string closed without a hold is CLOSED with its closed timer running. -/
theorem State.closeServed_free (he : (s.string k).holds.isEmpty = true) :
    ((s.closeServed k).string k).state = .closed ∧ ((s.closeServed k).string k).request = none ∧
    (s.closeServed k).rsl.str[k].closedAt = some (s.now.plus 1800000) ∧
    (s.swc.engine = .idle → s.swc.openQ = [] → s.swc.closeQ = [] → (s.closeServed k).swc.engine = .idle) := by
  have htaken : (s.takenClosed k).string k = (s.string k).taken := by rw [State.takenClosed_string, if_pos rfl]
  have hserved : s.closeServed k = (s.takenClosed k).kickDrive := by rw [State.closeServed, State.closeConfirmed_free he]
  rw [hserved]
  refine ⟨?_, State.kickDrive_request_none _ (by rw [htaken]; rfl), ?_, fun hidle ho hc => ?_⟩
  · rw [((s.takenClosed k).kickDrive_string k).1, htaken]
    rfl
  · rw [(State.kickDrive_frame _).keeps .rsl (by simp), State.takenClosed_rsl, State.setRelease_rsl]
    exact congrArg ReleaseString.closedAt (modifyAt_same _ _ _)
  · have hswc := s.takenClosed_swc (k := k)
    rw [State.kickDrive_rests (.inr (.inr (.inr (.inr ⟨by rw [hswc]; exact ho, by rw [hswc]; exact hc⟩)))), hswc]
    exact hidle

/-- A string closed under a hold opens again under its leading hold. -/
theorem State.closeServed_held (he : (s.string k).holds.isEmpty = false) :
    ((s.closeServed k).string k).state = .opening ∧ (s.closeServed k).rsl.str[k].closedAt = none ∧
    ∃ p, ((s.closeServed k).string k).request = some p ∧ p.dir = .toOpen ∧ p.failed = 0 ∧
      p.cause = some (s.string k).holds.leading.1 ∧ p.detail = (s.string k).holds.leading.2 := by
  have hserved : s.closeServed k = ((s.takenClosed k).queueOpen k (s.string k).holds.leading.1 (s.string k).holds.leading.2).kickDrive := by
    rw [State.closeServed, State.closeConfirmed_held he]
  obtain ⟨b, hrequest⟩ := (s.takenClosed k).queueOpen_request k (s.string k).holds.leading.1 (s.string k).holds.leading.2
  obtain ⟨hstate, -⟩ := (s.takenClosed k).queueOpen_string k k (s.string k).holds.leading.1 (s.string k).holds.leading.2
  obtain ⟨b', hkicked⟩ := State.kickDrive_request hrequest
  rw [hserved]
  refine ⟨?_, ?_, _, hkicked, rfl, rfl, rfl, rfl⟩
  · rw [(State.kickDrive_string _ k).1, hstate, if_pos rfl]
  · rw [(State.kickDrive_frame _).keeps .rsl (by simp), State.queueOpen_closedAt]

/-- The leading hold, by the holds in their order (R139). -/
theorem HoldSet.leading_spec (h : HoldSet) : (∀ g, h.fault = some g → h.leading = (.fault g.cause, g.detail)) ∧
    (h.fault = none → h.stop ≠ none → h.leading.1 = .stop) ∧ (h.fault = none → h.stop = none → h.lockout = true → h.leading.1 = .lockout) ∧
    (h.fault = none → h.stop = none → h.lockout = false → h.leading.1 = .service) := by
  unfold HoldSet.leading
  refine ⟨fun g hg => ?_, fun hf hs => ?_, fun hf hs hl => ?_, fun hf hs hl => ?_⟩
  · rw [hg]
  · rw [hf]
    dsimp only
    rw [if_pos (Option.isSome_iff_ne_none.2 hs)]
  · rw [hf, hs, hl]
    rfl
  · rw [hf, hs, hl]
    rfl

end Closed

end Sys2Proof.Machine

/-! PROOFS. CONTACT_FEEDBACK_CHANGE confirms an attempt, CONFIRM_EXPIRY fails it. -/

namespace Sys2Proof.Machine

open Sys2Proof.Safety

/-! ### The ISOLATED of a confirmed OPEN (R151) -/

section Isolated
variable {s : State} {k : StringNo} {q : Request}

/-- The payload of an ISOLATED, by the record (10.3; log entry 36). -/
theorem isolatedFrame_payload (k : StringNo) (r : IsolationRecord) : (isolatedFrame k r).payload =
    [BitVec.ofNat 8 (k.val + 1), BitVec.ofNat 8 r.cause.code, BitVec.ofNat 8 r.detail.round,
      BitVec.ofNat 8 ((r.detail.tag.map Tag.injector).getD 0), BitVec.ofNat 8 ((r.detail.tag.map Tag.sequence).getD 0)] := by
  unfold isolatedFrame
  cases r.detail.tag <;> rfl

theorem State.openServed_isolated (hs : QueueSound s.lnc) (hrole : s.prb.role ≠ .injecting) {i : IsoCause}
    (h : (q.cause.getD .stop).isolation = some i) (ha : s.smu.address ≠ 0) (hroom : s.lnc.queue.length < 16) :
    ∃ g ∈ (s.openServed k q).lnc.queue, g.kind = .isolated ∧ g.entry = s.lnc.nextEntry ∧ g.rank = (s.isolationGiven k q).detail.rank ∧
      g.payload = (isolatedFrame k (s.isolationGiven k q)).payload := by
  obtain ⟨hprb, -, hclaims, -⟩ := s.beforeDisturbed_keeps k q
  have hsound : QueueSound (s.recorded k q).lnc :=
    (State.recordIsolation_sound k _ _ (State.setString_sound _ _ (.refl s))).queue hs
  have hmem := s.enterFrame_mem (isolatedFrame k (s.isolationGiven k q))
  rw [← s.recorded_lnc k q h ha hroom] at hmem
  rw [State.openServed_lnc, State.probeDisturbed_lnc (by rw [hprb]; exact hrole)]
  exact ⟨_, hclaims.keeps hsound _ hmem (by simp [isolatedFrame, newFrame]) (by simp [isolatedFrame, newFrame]), rfl, rfl, rfl, rfl⟩

/-- With no isolation record and no incident a confirmed OPEN leaves the LNC. -/
theorem State.openServed_quiet (hrole : s.prb.role ≠ .injecting) (h : (q.cause.getD .stop).isolation = none) (harc : s.sel.arc = none)
    (hground : s.sel.ground = none) : (s.openServed k q).lnc = s.lnc := by
  obtain ⟨hprb, -⟩ := s.beforeDisturbed_keeps k q
  have hsel : ((s.recorded k q).updateMemo k).sel = s.sel := (s.openMemo_frame k q).keeps .sel (by simp)
  have hbefore : s.beforeDisturbed k q = (s.recorded k q).updateMemo k := by
    unfold State.beforeDisturbed State.selOpened State.closeIf State.incident
    rw [hsel, harc]
    dsimp only
    rw [hsel, hground]
  rw [State.openServed_lnc, State.probeDisturbed_lnc (by rw [hprb]; exact hrole), hbefore, (State.updateMemo_frame _ _).keeps .lnc (by simp),
    s.recorded_of_none k q h]
  rfl

/-- A listener's window is disturbed by a confirmed OPEN, and an injection ends. -/
theorem State.openServed_window :
    (∀ w, s.prb.role = .listening → s.prb.window = some w → (s.openServed k q).prb = { s.prb with window := some { w with disturbed := true } }) ∧
    (s.prb.role ≠ .listening → s.prb.role ≠ .injecting → (s.openServed k q).prb = s.prb) := by
  obtain ⟨hprb, -⟩ := s.beforeDisturbed_keeps k q
  rw [State.openServed_prb, ← hprb]
  generalize s.beforeDisturbed k q = u
  refine ⟨fun w hr hw => ?_, fun hl hi => ?_⟩
  · rw [State.probeDisturbed_of_listening hr hw]
    rfl
  · have hapart : u.prb.role = .none ∨ u.prb.role = .pending := by
      cases h : u.prb.role with
      | none => exact .inl rfl
      | pending => exact .inr rfl
      | listening => exact absurd h hl
      | injecting => exact absurd h hi
    rw [State.probeDisturbed_of_apart hapart]

theorem State.openServed_injecting {w : Window} (hr : s.prb.role = .injecting) (hw : s.prb.window = some w) :
    (w.phase = some .closing → w.status ≠ none → (s.openServed k q).prb = { s.prb with window := some { w with disturbed := true } }) ∧
    (w.phase ≠ some .closing → s.smu.address ≠ 0 → s.lnc.queue.length < 15 →
      (s.openServed k q).prb = { s.prb with
        output := .released,
        window := some { w with disturbed := true, status := some .disturbed, riso := 65535, phase := some .closing } } ∧
      ∃ g ∈ (s.openServed k q).lnc.queue, g.kind = .probeClose ∧ g.rank = 0 ∧
        g.payload = [BitVec.ofNat 8 w.tag.sequence, 4, BitVec.ofNat 8 w.halvesInjected, 255, 255]) := by
  obtain ⟨hprb, haddr, hclaims, -⟩ := s.beforeDisturbed_keeps k q
  have hlength := s.recorded_length k q
  rw [State.openServed_prb, State.openServed_lnc]
  rw [← hprb] at hr hw ⊢
  generalize s.beforeDisturbed k q = u at *
  refine ⟨fun hp hstatus => ?_, fun hp ha hroom => ?_⟩
  · rw [State.probeDisturbed_of_injecting hr hw, if_pos hp, if_pos (Option.isSome_iff_ne_none.2 hstatus)]
    rfl
  · have hfree : u.lnc.queue.length < 16 := by
      have h1 := hlength ha (by omega)
      have h2 := hclaims.length
      omega
    rw [State.probeDisturbed_of_injecting hr hw, if_neg hp, State.closeInjection_of_room _ _ _ (by rw [haddr]; exact ha) hfree, probeCloseFrame_disturbed]
    exact ⟨rfl, _, State.enterFrame_mem _ _, rfl, rfl, rfl⟩

end Isolated

/-! ### The commands -/

theorem State.settle_string (s : State) (k : StringNo) : s.settle.string k = s.string k := rfl

section Commands
variable {dt : Nat} {s : State} {k : StringNo} {q : Request}

theorem State.isolationGiven_of {c : OpenCause} {i : IsoCause} (hc : q.cause = some c) (h : c.isolation = some i) :
    s.isolationGiven k q = { active := true, cause := i, detail := isolationDetail i ((s.string k).holds.openingDetail c q), time := s.now } := by
  unfold State.isolationGiven
  rw [hc]
  dsimp only [Option.getD_some]
  rw [h]

theorem State.isolationGiven_none {c : OpenCause} (hc : q.cause = some c) (h : c.isolation = none) : s.isolationGiven k q = (s.string k).iso := by
  unfold State.isolationGiven
  rw [hc]
  dsimp only [Option.getD_some]
  rw [h]

/-- The state at a contact change that confirms: the contact moved and the engine idle. -/
def State.confirmed (s : State) (dt : Nat) (k : StringNo) (c : Bool) : State := ((s.elapse dt).contacted k c).engineIdle

theorem State.confirmed_string (s : State) (dt : Nat) (k : StringNo) (c : Bool) : (s.confirmed dt k c).string k = s.string k := rfl

/-- What keeps the contacts keeps the one that moved. -/
theorem State.confirmed_contact {u : State} {c : Bool} (h : u.swc.contact = (s.confirmed dt k c).swc.contact) : u.settle.swc.contact[k] = c := by
  rw [State.settle_swc]
  dsimp only
  rw [h]
  exact Vector.getElem_set_self _

theorem exec_confirmsOpen (he : s.swc.engine = .confirming k .toOpen) (hq : (s.string k).request = some q) :
    exec (.contactFeedbackChange dt k false) s = .next ((s.confirmed dt k false).openServed k q).settle := by
  have hchange := State.contactChange_confirms (s := s.elapse dt) (k := k) (d := .toOpen) he
  rw [exec_contactFeedbackChange, show (false : Bool) = (Direction.toOpen == .toClose) from rfl, hchange,
    State.attemptConfirmed_toOpen (s := (s.elapse dt).contacted k _) hq]
  rfl

theorem exec_confirmsClose (he : s.swc.engine = .confirming k .toClose) (hq : (s.string k).request = some q) :
    exec (.contactFeedbackChange dt k true) s = .next ((s.confirmed dt k true).closeServed k).settle := by
  have hchange := State.contactChange_confirms (s := s.elapse dt) (k := k) (d := .toClose) he
  rw [exec_contactFeedbackChange, show (true : Bool) = (Direction.toClose == .toClose) from rfl, hchange,
    State.attemptConfirmed_toClose (s := (s.elapse dt).contacted k _) hq]
  rfl

theorem exec_confirmFails (hs : s.started = true) {d : Direction} (he : s.swc.engine = .confirming k d)
    (hx : expired (s.now.plus dt) s.swc.confirmAt = true) : exec (.confirmExpiry dt) s = .next ((s.elapse dt).attemptFailed k d).settle := by
  rw [exec_confirmExpiry hs, State.confirmExpiry, show (s.elapse dt).swc.engine = .confirming k d from he]
  dsimp only
  rw [if_pos (by exact hx)]

end Commands

/-- Settles O57. -/
theorem contactsConfirmAttempts : Obligations.ContactsConfirmAttempts := by
  intro dt s k hs r now
  refine ⟨fun c h => ?_, fun q c he hq hc hrole hqueue => ⟨_, exec_confirmsOpen he hq, ?_⟩, fun q w he hq hr hw => ⟨_, exec_confirmsOpen he hq, ?_⟩,
    fun he hq => ?_, fun q d he hq hx hready => ?_⟩
  · rw [exec_contactFeedbackChange, State.contactChange_moves (s := s.elapse dt) h]
    rfl
  · obtain ⟨hiso, hholds, hmismatch, hcontact, hheld, hfree⟩ := (s.confirmed dt k false).openServed_string k q
    have hmemo := (s.confirmed dt k false).openServed_memo k q
    have hsel := (s.confirmed dt k false).openServed_sel k q
    have hrecloses := fun g => State.openServed_recloses (s.confirmed dt k false) k q (g := g)
    have hisolated := fun i => State.openServed_isolated (s := s.confirmed dt k false) (k := k) (q := q) hqueue hrole (i := i)
    have hquiet := State.openServed_quiet (s := s.confirmed dt k false) (k := k) (q := q) hrole
    obtain ⟨hlistening, hapart⟩ := State.openServed_window (s := s.confirmed dt k false) (k := k) (q := q)
    generalize (s.confirmed dt k false).openServed k q = u at *
    have hcause : q.cause.getD .stop = c := by rw [hc]; rfl
    refine ⟨?_, ?_, hholds, hmismatch, ?_, hheld, hfree, fun i hi => ?_, fun i hi => ?_, hlistening, fun hl => hapart hl hrole, hrecloses⟩
    · exact State.confirmed_contact hcontact
    · intro x record
      have hrecord (i : IsoCause) (hi : c.isolation = some i) : record i i.code (isolationDetail i x) := by
        have hgiven := State.isolationGiven_of (s := s.confirmed dt k false) (k := k) hc hi
        refine ⟨hiso.trans hgiven, fun ha hroom => ?_⟩
        obtain ⟨g, hg, hkind, hentry, hrank, hpayload⟩ := hisolated i (by rw [hcause]; exact hi) ha hroom
        rw [hgiven] at hrank hpayload
        exact ⟨g, hg, hkind, hentry, hrank, hpayload.trans (isolatedFrame_payload _ _)⟩
      refine ⟨fun h => ?_, fun h => ?_, fun h => ?_, fun h => ?_, fun h => ?_, fun h => ?_⟩
      · exact hrecord .arc (by rw [h]; rfl)
      · exact hrecord .ground (by rw [h]; rfl)
      · exact hrecord .reverse (by rw [h]; rfl)
      · exact hrecord .overcurrent (by rw [h]; rfl)
      · exact hrecord .service (by rw [h]; rfl)
      · have hnone : c.isolation = none := by rcases h with h | h | h <;> rw [h] <;> rfl
        exact ⟨hiso.trans (State.isolationGiven_none hc hnone), hquiet (by rw [hcause]; exact hnone)⟩
    · exact memoInStep_before (s' := s.confirmed dt k false) rfl rfl (memoInStep_after (t := u) rfl rfl hmemo)
    · have harc := (congrArg Sel.arc hsel).trans (Sel.closing_arc (x := s.sel) (fun i => i.string == k) hi)
      simp only [beq_iff_eq] at harc
      exact harc
    · have hground := (congrArg Sel.ground hsel).trans (Sel.closing_ground (x := s.sel) (fun i => i.string == k) hi)
      simp only [beq_iff_eq] at hground
      exact hground
  · have hinjecting := State.openServed_injecting (s := s.confirmed dt k false) (k := k) (q := q) hr hw
    generalize (s.confirmed dt k false).openServed k q = u at *
    exact hinjecting
  · obtain ⟨q, hq⟩ := Option.ne_none_iff_exists'.1 hq
    refine ⟨_, exec_confirmsClose he hq, ?_⟩
    obtain ⟨hholds, hiso, hmemo, hmismatch, hcontact⟩ := (s.confirmed dt k true).closeServed_string k
    have hasks := (s.confirmed dt k true).closeServed_asks k
    have hlearns := (s.confirmed dt k true).closeServed_learns k
    have hframe : Frame [.smu, .eve, .swc, .rsl] (s.confirmed dt k true) ((s.confirmed dt k true).closeServed k) :=
      ((State.takenClosed_frame _ k).mono (by simp)).trans (((s.confirmed dt k true).closeServed_rest k).mono (by simp))
    have hfree := (s.confirmed dt k true).closeServed_free k
    have hheld := (s.confirmed dt k true).closeServed_held k
    generalize (s.confirmed dt k true).closeServed k = u at *
    refine ⟨?_, hholds, hiso, hmemo, hasks, hmismatch, hlearns, hframe.keeps .lnc (by simp), hframe.keeps .sel (by simp), hframe.keeps .prb (by simp),
      fun he => ?_, fun he => ?_⟩
    · exact State.confirmed_contact hcontact
    · obtain ⟨hstate, hrequest, hclosedAt, hengine⟩ := hfree he
      exact ⟨hstate, hrequest, hclosedAt, hengine rfl⟩
    · obtain ⟨hstate, hclosedAt, p, hrequest, hdir, hfailed, hpcause, hpdetail⟩ := hheld he
      obtain ⟨hfault, hstop, hlock, hservice⟩ := r.holds.leading_spec
      refine ⟨hstate, hclosedAt, p, hrequest, hdir, hfailed, fun g hg => ?_, fun hf hs => ?_, fun hf hs hl => ?_, fun hf hs hl => ?_⟩
      · have hleads : (s.string k).holds.leading = _ := hfault g hg
        rw [hpcause, hpdetail, State.confirmed_string, hleads]
        exact ⟨rfl, rfl⟩
      · exact hpcause.trans (congrArg some (hstop hf hs))
      · exact hpcause.trans (congrArg some (hlock hf hs hl))
      · exact hpcause.trans (congrArg some (hservice hf hs hl))
  · intro idle again
    rw [exec_confirmFails hs he hx]
    refine ⟨fun hd hf => ?_, fun hd hf => ⟨_, rfl, ?_⟩, fun hd hh hf => ?_, fun hd hh hf => ⟨_, rfl, ?_⟩, fun hd hh => ⟨_, rfl, ?_⟩⟩
    · subst hd
      rw [State.attemptFailed_retries_toOpen (s := s.elapse dt) hq hready hf]
      rfl
    · subst hd
      rw [State.attemptFailed_stuckClosed (s := s.elapse dt) hq hready hf]
      have hlanded := (s.elapse dt).engineIdle.becomeStuck_landed k (x := .stuckClosed) (.inl rfl)
      have hsel := (s.elapse dt).engineIdle.becomeStuck_sel k .stuckClosed
      have hstrings := strings_of_withoutMemos ((s.elapse dt).engineIdle.becomeStuck_withoutMemos k .stuckClosed)
      generalize (s.elapse dt).engineIdle.becomeStuck k .stuckClosed = t at *
      obtain ⟨hstate, hholds, hrequest, -, hiso, -, hswc, hmemo⟩ := hlanded
      refine ⟨congrArg Swc.engine hswc, (congrArg Swc.openQ hswc :), hstate, hholds, hrequest, hiso,
        memoInStep_before (s' := (s.elapse dt).engineIdle) rfl rfl (memoInStep_after (t := t) rfl rfl hmemo), fun i hi hk => ⟨?_, fun hdec => ?_⟩,
        fun i hi hk => ?_, fun hk hx => ?_⟩
      · rw [State.settle_sel, hsel]
        exact (Sel.closing_arc _ hi).trans (if_pos (beq_iff_eq.2 hk))
      · rw [State.settle_sel, hsel]
        exact Sel.stuck_decided hi hk hdec
      · rw [State.settle_sel, hsel]
        exact (Sel.closing_ground _ hi).trans (if_pos (beq_iff_eq.2 hk))
      · refine (State.boxTripCondition_iff t).2 ⟨k, ?_, hstate, ?_⟩
        · rw [hstrings]
          exact hk
        · rw [hholds, Option.isSome_iff_ne_none, Option.isSome_iff_ne_none]
          exact hx
    · subst hd
      rw [State.attemptFailed_retries_toClose (s := s.elapse dt) hq hready hh hf]
      rfl
    · subst hd
      rw [State.attemptFailed_stuckOpen (s := s.elapse dt) hq hready hh hf]
      have hlanded := (s.elapse dt).engineIdle.becomeStuck_landed k (x := .stuckOpen) (.inr rfl)
      generalize (s.elapse dt).engineIdle.becomeStuck k .stuckOpen = t at *
      obtain ⟨hstate, hholds, hrequest, -, -, -, hswc, hmemo⟩ := hlanded
      exact ⟨congrArg Swc.engine hswc, hstate, hholds, hrequest, (congrArg Swc.closeQ hswc :),
        memoInStep_before (s' := (s.elapse dt).engineIdle) rfl rfl (memoInStep_after (t := t) rfl rfl hmemo)⟩
    · subst hd
      rw [State.attemptFailed_returned (s := s.elapse dt) hq hready hh]
      have hlanded := (s.elapse dt).engineIdle.returned_landed k
      have hsel := (s.elapse dt).engineIdle.returned_sel k
      generalize ((s.elapse dt).engineIdle.landing k .opened).selReturned k = t at *
      obtain ⟨hstate, hholds, hrequest, -, -, -, hswc, hmemo⟩ := hlanded
      refine ⟨congrArg Swc.engine hswc, hstate, hholds, hrequest, (congrArg Swc.closeQ hswc :),
        memoInStep_before (s' := (s.elapse dt).engineIdle) rfl rfl (memoInStep_after (t := t) rfl rfl hmemo), fun i hi hk hdec => ?_⟩
      rw [State.settle_sel, hsel]
      exact (Sel.closing_arc _ hi).trans (if_pos (by rw [hk, hdec]; simp))

end Sys2Proof.Machine

/-! PROOFS. SERVICE: RESTORE, OPEN, PROBE-NOW and QUERY, and their ANSWER (R61, R131 to R135, R163). -/

namespace Sys2Proof.Machine

open Sys2Proof.Safety

/-! ### A matching SERVICE and its ANSWER (R131, R135) -/

theorem Operation.ofCode_code (o : Operation) : Operation.ofCode o.code = some o := by cases o <;> rfl

section Matching
variable {s : State} {f : Received} {d m op h l : Byte} (hp : f.payload = [d, m, op, h, l])
include hp

theorem State.service_unmatched (hm : Nat.land s.smu.address m.toNat ≠ Nat.land d.toNat m.toNat) : s.deliver .service f = s := by
  have hdeliver : s.deliver .service f = s.serviceDelivered f := rfl
  rw [hdeliver, State.serviceDelivered, hp]
  exact if_neg (by simpa [addressMatches, charAt] using hm)

theorem State.service_matched (hm : Nat.land s.smu.address m.toNat = Nat.land d.toNat m.toNat) {o : Operation} (ho : op = BitVec.ofNat 8 o.code) :
    s.deliver .service f = if m = 31 then
      (s.carryOut o h l).1.queueFrame (newFrame .answer 0 ([BitVec.ofNat 8 f.source, op] ++ (s.carryOut o h l).2)) else (s.carryOut o h l).1 := by
  have hdeliver : s.deliver .service f = s.serviceDelivered f := rfl
  have hdest : charAt f.payload 0 = d := by rw [hp]; rfl
  have hmask : charAt f.payload 1 = m := by rw [hp]; rfl
  have hcode : (charAt f.payload 2).toNat = o.code := by rw [hp, ho]; cases o <;> rfl
  have hhigh : charAt f.payload 3 = h := by rw [hp]; rfl
  have hlow : charAt f.payload 4 = l := by rw [hp]; rfl
  have hall : (m.toNat == 31) = true ↔ m = 31 := by
    rw [beq_iff_eq]
    exact ⟨fun e => BitVec.eq_of_toNat_eq e, fun e => by rw [e]; rfl⟩
  rw [hdeliver]
  simp only [State.serviceDelivered, hdest, hmask, hcode, hhigh, hlow, Operation.ofCode_code, hall, ← ho]
  exact if_pos (beq_iff_eq.2 hm)

end Matching

/-- An ANSWER enters a queue with room. -/
theorem State.queueFrame_answer (v : State) (p : List Byte) (ha : v.smu.address ≠ 0) (hroom : v.lnc.queue.length < 16) :
    ∃ a ∈ (v.queueFrame (newFrame .answer 0 p)).lnc.queue, a.kind = .answer ∧ a.rank = 0 ∧ a.entry = v.lnc.nextEntry ∧ a.payload = p := by
  rw [State.queueFrame, State.enqueue_of_room ha (by simp [newFrame]) (fun hk => absurd hk (by simp [newFrame, Kind.single])) hroom]
  exact ⟨_, State.enterFrame_mem _ _, rfl, rfl, rfl, rfl⟩

/-! ### RESTORE (R132, R163) -/

theorem setStrings_eq (h l : Byte) : setStrings (word16 h l) =
    (List.finRange 12).filter fun k : StringNo => (256 * h.toNat + l.toNat).testBit k.val := by
  have hall : allStrings = List.finRange 12 := by decide
  rw [setStrings, hall]
  rfl

theorem mem_setStrings (bits : Nat) (k : StringNo) : k ∈ setStrings bits ↔ bits.testBit k.val = true := by
  rw [setStrings, List.mem_filter]
  exact ⟨fun h => h.2, fun h => ⟨mem_allStrings k, h⟩⟩

theorem nodup_setStrings (bits : Nat) : (setStrings bits).Nodup := nodup_allStrings.filter _

theorem StringState.stuck_iff (x : StringState) : x.stuck = true ↔ x = .stuckClosed ∨ x = .stuckOpen := by cases x <;> simp [StringState.stuck]

theorem HoldSet.refusesCause_eq (h : HoldSet) : h.refusesCause = h.fault.any fun g => g.cause == .arc || g.cause == .unknown := by
  unfold HoldSet.refusesCause
  cases h.fault <;> rfl

/-- A line RESTORE may release what is neither ARC nor unknown. -/
theorem HoldSet.lineReleasable_iff {h : HoldSet} (hr : ¬h.fault.any (fun g => g.cause == .arc || g.cause == .unknown) = true) :
    h.lineReleasable = true ↔ h.fault ≠ none ∨ h.service = true := by
  unfold HoldSet.lineReleasable
  cases hf : h.fault with
  | none => simp
  | some g =>
    rw [hf] at hr
    cases hc : g.cause <;> simp [hc] at hr <;> simp [hc]

/-- The result code RESTORE gives a string, by the first test that applies (R132). -/
theorem State.restoreResult_code (s : State) (k : StringNo) : (s.restoreResult k).code =
    (let x := (s.string k).holds
      if s.smu.strings ≤ k.val then 6 else if (s.string k).state = .stuckClosed ∨ (s.string k).state = .stuckOpen then 5
      else if x.fault.any (fun g => g.cause == .arc || g.cause == .unknown) = true then 3
      else if x.stop ≠ none ∨ x.lockout = true then 4 else if x.fault ≠ none ∨ x.service = true then 1 else 2) := by
  have hfit : (!s.fitted k) = true ↔ s.smu.strings ≤ k.val := by simp [State.fitted]
  have hstop : ((s.string k).holds.stop.isSome || (s.string k).holds.lockout) = true ↔ (s.string k).holds.stop ≠ none ∨ (s.string k).holds.lockout = true := by
    rw [Bool.or_eq_true, Option.isSome_iff_ne_none]
  unfold State.restoreResult
  simp only [apply_ite ServiceResult.code, hfit, StringState.stuck_iff, hstop, HoldSet.refusesCause_eq]
  by_cases hr : (s.string k).holds.fault.any (fun g => g.cause == .arc || g.cause == .unknown) = true
  · simp only [hr, if_true]
    rfl
  · simp only [hr, HoldSet.lineReleasable_iff hr]
    rfl

section Restore
variable (s : State)

theorem State.restoreResult_done {k : StringNo} (h : (s.restoreResult k).code = 1) :
    ((s.string k).holds.fault ≠ none ∨ (s.string k).holds.service = true) ∧ (s.string k).holds.stop = none ∧ (s.string k).holds.lockout = false := by
  rw [State.restoreResult_code] at h
  dsimp only at h
  split_ifs at h with h6 h5 h3 h4 h1 <;> cases h
  rw [not_or, not_not, Bool.not_eq_true] at h4
  exact ⟨h1, h4⟩

theorem State.restoreResult_heldOther {k : StringNo} (h : (s.restoreResult k).code = 4) :
    (s.string k).holds.stop ≠ none ∨ (s.string k).holds.lockout = true := by
  rw [State.restoreResult_code] at h
  dsimp only at h
  split_ifs at h with h6 h5 h3 h4 h1 <;> cases h
  exact h4

/-- The strings whose holds a RESTORE releases. -/
def State.restored (s : State) (bits : Nat) : List StringNo :=
  (setStrings bits).filter fun k => s.restoreResult k == .done || s.restoreResult k == .heldOther

theorem State.mem_restored (bits : Nat) (k : StringNo) :
    k ∈ s.restored bits ↔ bits.testBit k.val = true ∧ ((s.restoreResult k).code = 1 ∨ (s.restoreResult k).code = 4) := by
  rw [State.restored, List.mem_filter, mem_setStrings]
  cases s.restoreResult k <;> simp [ServiceResult.code]

theorem State.serviceRestore_eq (bits : Nat) : s.serviceRestore (setStrings bits) =
    (forStrings (s.restored bits) State.pressString s, (setStrings bits).map fun k => (k, s.restoreResult k)) := rfl

theorem State.pressString_frame (k : StringNo) : Frame [.swc, .smu, .rsl] s (s.pressString k) :=
  ((State.releaseFault_frame s k).mono (by simp)).trans ((State.releaseHold_frame _ _ _).mono (by simp))

/-- What a RESTORE makes of each string. -/
theorem State.restored_string (bits : Nat) (k : StringNo) :
    let t := forStrings (s.restored bits) State.pressString s
    (bits.testBit k.val = true → (s.restoreResult k).code = 1 ∨ (s.restoreResult k).code = 4 →
      (t.string k).holds = (s.string k).holds.pressed ∧ ((s.string k).holds.fault ≠ none → t.rsl.str[k].recloseAt = none) ∧
      (t.string k).state = if (s.restoreResult k).code = 1 ∧ (s.string k).state = .opened then .closing else (s.string k).state) ∧
    (bits.testBit k.val = false ∨ ((s.restoreResult k).code ≠ 1 ∧ (s.restoreResult k).code ≠ 4) →
      (t.string k).state = (s.string k).state ∧ (t.string k).holds = (s.string k).holds) := by
  intro t
  obtain ⟨-, hout, hin⟩ := forStrings_at (fun t j => ((t.string j).holds, (t.string j).state, t.rsl.str[j].recloseAt)) (fun _ => True) State.pressString
    (fun t i j _ hj => by
      rw [t.pressString_holds, t.pressString_state, t.pressString_recloseAt, if_neg hj, if_neg fun h => hj h.1, if_neg fun h => hj h.1])
    (fun _ _ _ => trivial) (s.restored bits) ((nodup_setStrings bits).filter _) s trivial k
  refine ⟨fun hb hr => ?_, fun h => ?_⟩
  · obtain ⟨u, -, hget, hset⟩ := hin ((s.mem_restored bits k).2 ⟨hb, hr⟩)
    rw [u.pressString_holds, u.pressString_state, u.pressString_recloseAt] at hset
    simp only [Prod.mk.injEq] at hget hset
    obtain ⟨gholds, gstate, -⟩ := hget
    obtain ⟨sholds, sstate, srecl⟩ := hset
    refine ⟨?_, fun hf => ?_, ?_⟩
    · rw [sholds, if_pos trivial, gholds]
    · rw [srecl, gholds, if_pos ⟨trivial, hf⟩]
    · rw [sstate, gstate, gholds]
      by_cases h1 : (s.restoreResult k).code = 1
      · obtain ⟨hheld, hfree⟩ := s.restoreResult_done h1
        have hempty := (HoldSet.pressed_isEmpty _).2 hfree
        simp only [h1, hheld, hempty, true_and, and_true]
      · have hempty : ¬(s.string k).holds.pressed.isEmpty = true := by
          rw [HoldSet.pressed_isEmpty]
          rintro ⟨hstop, hlock⟩
          rcases s.restoreResult_heldOther (hr.resolve_left h1) with h | h
          · exact h hstop
          · exact absurd (hlock.symm.trans h) Bool.false_ne_true
        rw [if_neg fun h => hempty h.2.2.2, if_neg fun h => h1 h.1]
  · have hnot : k ∉ s.restored bits := by
      rw [State.mem_restored]
      rintro ⟨hb, hr⟩
      rcases h with h | ⟨h1, h4⟩
      · exact absurd (h.symm.trans hb) Bool.false_ne_true
      · exact hr.elim h1 h4
    have hget := hout hnot
    simp only [Prod.mk.injEq] at hget
    exact ⟨hget.2.1, hget.1⟩

end Restore

/-! ### OPEN (R133) -/

section Open
variable (s : State)

/-- The result code OPEN gives a string (R133). -/
theorem State.openResult_code (k : StringNo) : (s.openResult k).code =
    if s.smu.strings ≤ k.val then 6 else if (s.string k).state = .stuckClosed ∨ (s.string k).state = .stuckOpen then 5
      else if (s.string k).holds.service = true then 2 else 1 := by
  have hfit : (!s.fitted k) = true ↔ s.smu.strings ≤ k.val := by simp [State.fitted]
  unfold State.openResult
  simp only [apply_ite ServiceResult.code, hfit, StringState.stuck_iff]
  rfl

/-- The strings to which an OPEN adds a SERVICE hold. -/
def State.serviced (s : State) (bits : Nat) : List StringNo := (setStrings bits).filter fun k => s.openResult k == .done

theorem State.mem_serviced (bits : Nat) (k : StringNo) : k ∈ s.serviced bits ↔ bits.testBit k.val = true ∧ (s.openResult k).code = 1 := by
  rw [State.serviced, List.mem_filter, mem_setStrings]
  cases s.openResult k <;> simp [ServiceResult.code]

theorem State.serviceOpen_eq (bits : Nat) : s.serviceOpen (setStrings bits) =
    (forStrings (s.serviced bits) (fun t k => t.addHold k .service) s, (setStrings bits).map fun k => (k, s.openResult k)) := rfl

/-- What an OPEN makes of each string. -/
theorem State.serviced_string (bits : Nat) (k : StringNo) :
    let t := forStrings (s.serviced bits) (fun t k => t.addHold k .service) s
    (bits.testBit k.val = true → (s.openResult k).code = 1 → (s.string k).state ≠ .disabled →
      (t.string k).holds = { (s.string k).holds with service := true } ∧
      ((s.string k).state = .closed → (t.string k).state = .opening) ∧
      ((s.string k).state = .opened → (t.string k).state = .opened) ∧
      ((s.string k).state = .opening → (t.string k).state = .opening)) ∧
    (bits.testBit k.val = false ∨ (s.openResult k).code ≠ 1 →
      (t.string k).state = (s.string k).state ∧ (t.string k).holds = (s.string k).holds) := by
  intro t
  obtain ⟨-, hout, hin⟩ := forStrings_at (fun t j => ((t.string j).holds, (t.string j).state)) (fun _ => True) (fun t k => t.addHold k .service)
    (fun t i j _ hj => by
      obtain ⟨hstate, hholds⟩ := (t.addHold_string i j .service).2.1 hj
      rw [hstate, hholds])
    (fun _ _ _ => trivial) (s.serviced bits) ((nodup_setStrings bits).filter _) s trivial k
  refine ⟨fun hb hr hd => ?_, fun h => ?_⟩
  · obtain ⟨u, -, hget, hset⟩ := hin ((s.mem_serviced bits k).2 ⟨hb, hr⟩)
    simp only [Prod.mk.injEq] at hget hset
    obtain ⟨gholds, gstate⟩ := hget
    obtain ⟨sholds, sstate⟩ := hset
    have hstring := (u.addHold_string k k .service).2.2 rfl
    rw [gstate, gholds] at hstring
    rw [show (t.string k).holds = _ from sholds, show (t.string k).state = _ from sstate]
    cases hst : (s.string k).state with
    | disabled => exact absurd hst hd
    | _ =>
      rw [hst] at hstring
      obtain ⟨hs, hh⟩ := hstring
      rw [hh, hs]
      exact ⟨rfl, fun he => by cases he <;> rfl, fun he => by cases he <;> rfl, fun he => by cases he <;> rfl⟩
  · have hnot : k ∉ s.serviced bits := by
      rw [State.mem_serviced]
      rintro ⟨hb, hr⟩
      rcases h with h | h
      · exact absurd (h.symm.trans hb) Bool.false_ne_true
      · exact h hr
    have hget := hout hnot
    simp only [Prod.mk.injEq] at hget
    exact ⟨hget.2, hget.1⟩

end Open

end Sys2Proof.Machine

/-! PROOFS. PROBE-NOW and QUERY, and the SERVICE frames as a whole (R61, R131 to R135). -/

namespace Sys2Proof.Machine

open Sys2Proof.Safety

/-! ### PROBE-NOW (R61) -/

/-- The station PENDING, its PROBE-OPEN queued. -/
def State.probeStarted (s : State) : State :=
  (s.enterFrame s.probeOpenFrame).setPrb { s.prb with role := .pending, byDue := false, alarmCount := 0 }

section ProbeNow
variable {s : State}

/-- The station may not use the line for a probe, or has no address. -/
def State.deaf (s : State) : Prop := s.smu.address = 0 ∨ (s.lnc.line ≠ .up ∧ s.lnc.line ≠ .degraded)

/-- A window, the gap after one, a low supply, a stop or a lockout keeps a probe off. -/
def State.probeBusy (s : State) : Prop := s.prb.role ≠ .none ∨ (∃ e, s.prb.lastEnd = some e ∧ s.now.since e < 30000) ∨ s.smu.supply = .low ∨
  s.pvw.stopSet ≠ [] ∨ s.rsl.lockKey.accepted = true

theorem State.deaf_iff : (s.listenOnly || !s.lineUsable) = true ↔ s.deaf := by
  rw [Bool.or_eq_true, Bool.not_eq_true', ← Bool.not_eq_true, State.lineUsable_iff, not_or, State.listenOnly, beq_iff_eq]
  rfl

theorem State.probeBusy_iff : (s.prb.role != .none || !s.gapPassed || s.smu.supply == .low || s.probingBarred) = true ↔ s.probeBusy := by
  have hgap : (!s.gapPassed) = true ↔ ∃ e, s.prb.lastEnd = some e ∧ s.now.since e < 30000 := by
    rw [Bool.not_eq_true', ← Bool.not_eq_true, State.gapPassed_iff]
    simp only [not_forall, not_le, exists_prop]
  have hbarred : s.probingBarred = true ↔ s.pvw.stopSet ≠ [] ∨ s.rsl.lockKey.accepted = true := by
    rw [← Bool.not_eq_false, State.probingBarred_eq_false, not_and_or, Bool.not_eq_false]
  simp only [Bool.or_eq_true, bne_iff_ne, hgap, beq_iff_eq, hbarred, State.probeBusy, or_assoc]

theorem State.serviceTrigger_listening (h : s.smu.phase = .listening) : s.serviceTrigger = (s, .refusedListen) := if_pos (by rw [h]; rfl)

variable (hp : s.smu.phase = .running)
include hp

theorem State.serviceTrigger_running : s.serviceTrigger =
    if (s.listenOnly || !s.lineUsable) = true then (s, .refusedLine)
    else if s.sel.arc.isSome = true then (s, .refusedArc)
    else if (s.prb.role != .none || !s.gapPassed || s.smu.supply == .low || s.probingBarred) = true then (s, .refusedBusy)
    else ((s.trigger false).1, if (s.trigger false).2 = true then .started else .refusedBusy) :=
  if_neg (by rw [hp]; decide)

theorem State.serviceTrigger_deaf (h : s.deaf) : s.serviceTrigger = (s, .refusedLine) := by
  rw [State.serviceTrigger_running hp, if_pos (State.deaf_iff.2 h)]

theorem State.serviceTrigger_arc (h : ¬s.deaf) (ha : s.sel.arc ≠ none) : s.serviceTrigger = (s, .refusedArc) := by
  rw [State.serviceTrigger_running hp, if_neg (mt State.deaf_iff.1 h), if_pos (Option.isSome_iff_ne_none.2 ha)]

theorem State.serviceTrigger_busy (h : ¬s.deaf) (ha : s.sel.arc = none) (hb : s.probeBusy) : s.serviceTrigger = (s, .refusedBusy) := by
  rw [State.serviceTrigger_running hp, if_neg (mt State.deaf_iff.1 h), if_neg (by rw [ha]; decide), if_pos (State.probeBusy_iff.2 hb)]

theorem State.serviceTrigger_starts (h : ¬s.deaf) (ha : s.sel.arc = none) (hb : ¬s.probeBusy) (hq : s.queuedOf .probeOpen = none)
    (hroom : s.lnc.queue.length < 16) :
    s.serviceTrigger = (s.probeStarted, .started) := by
  have hallowed : s.probeAllowed := by
    unfold State.deaf at h
    unfold State.probeBusy at hb
    simp only [not_or, not_and_or, not_not, not_exists, not_lt, Bool.not_eq_true] at h hb
    obtain ⟨haddr, hline⟩ := h
    obtain ⟨hrole, hgap, hsupply, hstop, hlock⟩ := hb
    have hrun : s.smu.supply = .run := by
      cases hs : s.smu.supply with
      | run => rfl
      | low => exact absurd hs hsupply
    exact ⟨hrole, hline, hp, ha, hrun, fun e he => (hgap e).resolve_left (not_not.2 he), haddr, hstop, hlock⟩
  rw [State.serviceTrigger_running hp, if_neg (mt State.deaf_iff.1 h), if_neg (by rw [ha]; decide), if_neg (mt State.probeBusy_iff.1 hb),
    State.trigger_taken hallowed hq hroom]
  rfl

end ProbeNow

/-! ### The string report of QUERY (R134, 10.4) -/

theorem signed16_eq (x : Int) : signed16 x = [BitVec.ofNat 8 ((x % 65536).toNat / 256), BitVec.ofNat 8 (x % 65536).toNat] := by
  have hword : (BitVec.ofInt 16 x).toNat = (x % 65536).toNat := by rw [BitVec.toNat_ofInt]; rfl
  have hhigh : (BitVec.ofInt 16 x).extractLsb' 8 8 = BitVec.ofNat 8 ((x % 65536).toNat / 256) := by
    apply BitVec.eq_of_toNat_eq
    rw [BitVec.extractLsb'_toNat, hword, Nat.shiftRight_eq_div_pow, BitVec.toNat_ofNat]
  have hlow : (BitVec.ofInt 16 x).extractLsb' 0 8 = BitVec.ofNat 8 (x % 65536).toNat := by
    apply BitVec.eq_of_toNat_eq
    rw [BitVec.extractLsb'_toNat, hword, Nat.shiftRight_zero, BitVec.toNat_ofNat]
  rw [signed16, ← hhigh, ← hlow]

theorem isolationReport_eq (r : IsolationRecord) (now : Time) : isolationReport r now =
    [BitVec.ofNat 8 (if r.active = true then r.cause.code + 8 * r.detail.round else 0), BitVec.ofNat 8 (if r.active = true then r.detail.rank else 0),
      BitVec.ofNat 8 (if r.active = true then min 65535 (now.since r.time / 1000) / 256 else 0),
      BitVec.ofNat 8 (if r.active = true then min 65535 (now.since r.time / 1000) else 0)] := by
  unfold isolationReport
  cases r.active <;> rfl

/-- The report character by character. -/
theorem State.stringReport_eq (s : State) (k : StringNo) :
    let r := s.string k
    let i := (s.ssu.str[k].record.current % 65536).toNat
    let age := min 65535 (s.now.since r.iso.time / 1000)
    s.stringReport k = [BitVec.ofNat 8 (r.state.reportCode + 8 * causeCode r.holds.later + flagBit s.sel.suspect[k] 6 + flagBit s.ssu.str[k].sensorFault 7),
      BitVec.ofNat 8 (causeCode (r.holds.fault.map (·.cause)) + flagBit (decide (r.holds.stop ≠ none)) 3
        + flagBit (decide (r.holds.stop = some .remembered)) 4 + flagBit r.holds.lockout 5 + flagBit r.holds.service 6 + flagBit s.swc.driveSupply 7),
      BitVec.ofNat 8 (i / 256), BitVec.ofNat 8 i, BitVec.ofNat 8 s.eve[k].score, BitVec.ofNat 8 s.eve[k].evid,
      BitVec.ofNat 8 (s.eve[k].base / 16 / 256), BitVec.ofNat 8 (s.eve[k].base / 16), BitVec.ofNat 8 s.eve[k].q,
      BitVec.ofNat 8 (if r.iso.active = true then r.iso.cause.code + 8 * r.iso.detail.round else 0),
      BitVec.ofNat 8 (if r.iso.active = true then r.iso.detail.rank else 0),
      BitVec.ofNat 8 (if r.iso.active = true then age / 256 else 0), BitVec.ofNat 8 (if r.iso.active = true then age else 0)] := by
  have hstop : (s.string k).holds.stop.isSome = decide ((s.string k).holds.stop ≠ none) := by
    rw [Bool.eq_iff_iff, Option.isSome_iff_ne_none, decide_eq_true_eq]
  have hremembered : ((s.string k).holds.stop == some .remembered) = decide ((s.string k).holds.stop = some .remembered) := by
    rw [Bool.eq_iff_iff, beq_iff_eq, decide_eq_true_eq]
  intro r i age
  unfold State.stringReport
  dsimp only
  rw [signed16_eq, isolationReport_eq, hstop, hremembered]
  rfl

theorem State.queryResults_of_unfitted {s : State} {k : StringNo} (h : s.smu.strings ≤ k.val) :
    s.queryResults k = [BitVec.ofNat 8 (16 * (k.val + 1) + 6)] := if_neg (by simpa [State.fitted] using h)

theorem State.queryResults_of_fitted {s : State} {k : StringNo} (h : k.val < s.smu.strings) :
    s.queryResults k = BitVec.ofNat 8 (16 * (k.val + 1) + 1) :: s.stringReport k := if_pos (by simpa [State.fitted] using h)

/-! ### The operations carried out -/

/-- Handing over a frame changes the LNC alone. -/
theorem State.queueFrame_lnc (v : State) (f : QueuedFrame) : v.queueFrame f = { v with lnc := (v.queueFrame f).lnc } := by
  have hroom : (v.makeRoomAndEnter f).1 = { v with lnc := (v.makeRoomAndEnter f).1.lnc } := by
    rcases v.makeRoomAndEnter_cases f with h | ⟨h, -⟩ | ⟨old, -, -, h⟩ <;> rw [h] <;> rfl
  unfold State.queueFrame State.enqueue
  repeat' split
  · rfl
  · rfl
  · rfl
  · exact hroom
  · rfl
  · exact hroom

section Carried
variable {s : State} {f : Received} {d m op h l : Byte} (hp : f.payload = [d, m, op, h, l])
  (hm : Nat.land s.smu.address m.toNat = Nat.land d.toNat m.toNat) {o : Operation} (ho : op = BitVec.ofNat 8 o.code)
include hp hm ho

theorem State.service_unanswered (hn : m ≠ 31) : s.deliver .service f = (s.carryOut o h l).1 := by
  rw [State.service_matched hp hm ho, if_neg hn]

/-- The ANSWER moves the LNC alone. -/
theorem State.service_frame : Frame [.lnc] (s.carryOut o h l).1 (s.deliver .service f) := by
  rw [State.service_matched hp hm ho]
  split
  · exact State.queueFrame_frame _ _
  · exact .refl _ _

theorem State.service_lnc : s.deliver .service f = { (s.carryOut o h l).1 with lnc := (s.deliver .service f).lnc } := by
  rw [State.service_matched hp hm ho]
  split
  · exact State.queueFrame_lnc _ _
  · rfl

theorem State.service_answered (hall : m = 31) (ha : (s.carryOut o h l).1.smu.address ≠ 0) (hroom : (s.carryOut o h l).1.lnc.queue.length < 16) :
    ∃ a ∈ (s.deliver .service f).lnc.queue, a.kind = .answer ∧ a.rank = 0 ∧ a.entry = (s.carryOut o h l).1.lnc.nextEntry ∧
      a.payload = [BitVec.ofNat 8 f.source, op] ++ (s.carryOut o h l).2 := by
  rw [State.service_matched hp hm ho, if_pos hall]
  exact State.queueFrame_answer _ _ ha hroom

end Carried

/-- RESTORE and OPEN leave the LNC, and the address. -/
theorem State.carryOut_restore (s : State) (h l : Byte) :
    s.carryOut .restore h l = (forStrings (s.restored (word16 h l)) State.pressString s,
      (setStrings (word16 h l)).map fun k => BitVec.ofNat 8 (16 * (k.val + 1) + (s.restoreResult k).code)) := by
  unfold State.carryOut
  dsimp only
  rw [State.serviceRestore_eq]
  dsimp only
  rw [List.map_map]
  rfl

theorem State.carryOut_opens (s : State) (h l : Byte) :
    s.carryOut .opens h l = (forStrings (s.serviced (word16 h l)) (fun t k => t.addHold k .service) s,
      (setStrings (word16 h l)).map fun k => BitVec.ofNat 8 (16 * (k.val + 1) + (s.openResult k).code)) := by
  unfold State.carryOut
  dsimp only
  rw [State.serviceOpen_eq]
  dsimp only
  rw [List.map_map]
  rfl

theorem State.carryOut_keeps (s : State) {o : Operation} (ho : o = .restore ∨ o = .opens ∨ o = .query) (h l : Byte) :
    (s.carryOut o h l).1.lnc = s.lnc ∧ (s.carryOut o h l).1.smu.address = s.smu.address := by
  rcases ho with rfl | rfl | rfl
  · rw [State.carryOut_restore]
    exact ⟨(frame_forStrings s fun t k => t.pressString_frame k).keeps .lnc (by simp),
      address_of_withoutMemos (forStrings_keeps (fun t => t.smu.withoutMemos) _ fun u k => by simp [State.pressString])⟩
  · rw [State.carryOut_opens]
    exact ⟨(frame_forStrings s fun t k => t.addHold_frame k _).keeps .lnc (by simp),
      address_of_withoutMemos (forStrings_keeps (fun t => t.smu.withoutMemos) _ fun u k => u.addHold_withoutMemos k _)⟩
  · exact ⟨rfl, rfl⟩

theorem State.carryOut_probeNow (s : State) (h l : Byte) : s.carryOut .probeNow h l = (s.serviceTrigger.1, [BitVec.ofNat 8 s.serviceTrigger.2.code]) := rfl

/-- A frame queued before an ANSWER stays queued. -/
theorem State.mem_queueFrame_answer {v : State} {p : List Byte} {g : QueuedFrame} (ha : v.smu.address ≠ 0) (hroom : v.lnc.queue.length < 16)
    (hg : g ∈ v.lnc.queue) : g ∈ (v.queueFrame (newFrame .answer 0 p)).lnc.queue := by
  rw [State.queueFrame, State.enqueue_of_room ha (by simp [newFrame]) (fun hk => absurd hk (by simp [newFrame, Kind.single])) hroom]
  exact (mem_insertFrame _ _ _).2 (.inr hg)

/-- Settles O54. -/
theorem serviceActsOnMatchingStation : Obligations.ServiceActsOnMatchingStation := by
  intro s f d m op h l hp inSet set t stuck answered
  refine ⟨State.service_unmatched hp, fun hm => ?_⟩
  have hanswered {o : Operation} (ho : o = .restore ∨ o = .opens ∨ o = .query) (hop : op = BitVec.ofNat 8 o.code) (hall : m = 31) :
      answered 0 (s.carryOut o h l).2 := by
    intro ha hroom
    obtain ⟨hlnc, haddr⟩ := s.carryOut_keeps ho h l
    have hanswer := State.service_answered hp hm hop hall (by rwa [haddr]) (by rwa [hlnc])
    rwa [hlnc] at hanswer
  refine ⟨fun hn hop => ?_, fun hop => ?_, fun hop => ?_, fun hop => ?_, fun hop => ?_, fun k hop hall hl => ?_⟩
  · rcases hop with hop | hop | hop
    · rw [show t = _ from State.service_unanswered hp hm (o := .restore) hop hn, (s.carryOut_keeps (.inl rfl) h l).1]
    · rw [show t = _ from State.service_unanswered hp hm (o := .opens) hop hn, (s.carryOut_keeps (.inr (.inl rfl)) h l).1]
    · rw [show t = _ from State.service_unanswered hp hm (o := .query) hop hn, (s.carryOut_keeps (.inr (.inr rfl)) h l).1]
  · have hframe := State.service_frame hp hm (o := .restore) hop
    have hstring := s.restored_string (word16 h l)
    have hall := hanswered (o := .restore) (.inl rfl) hop
    rw [State.carryOut_restore] at hframe hall
    intro result
    have hresult (k : StringNo) : (s.restoreResult k).code = result k := s.restoreResult_code k
    simp only [hresult] at hstring hall
    rw [setStrings_eq] at hall
    have hswc : t.swc = _ := hframe.keeps .swc (by simp)
    have hrsl : t.rsl = _ := hframe.keeps .rsl (by simp)
    refine ⟨hall, fun k => ?_⟩
    rw [State.string_of_swc hswc, hrsl]
    exact hstring k
  · have hframe := State.service_frame hp hm (o := .opens) hop
    have hstring := s.serviced_string (word16 h l)
    have hall := hanswered (o := .opens) (.inr (.inl rfl)) hop
    rw [State.carryOut_opens] at hframe hall
    intro result
    have hresult (k : StringNo) : (s.openResult k).code = result k := s.openResult_code k
    simp only [hresult] at hstring hall
    rw [setStrings_eq] at hall
    have hswc : t.swc = _ := hframe.keeps .swc (by simp)
    refine ⟨hall, fun k => ?_⟩
    rw [State.string_of_swc hswc]
    exact hstring k
  · intro deaf busy refused
    have hrefused {r : ServiceResult} (hr : s.serviceTrigger = (s, r)) : refused r.code := by
      have hcarry : s.carryOut .probeNow h l = (s, [BitVec.ofNat 8 r.code]) := by rw [State.carryOut_probeNow, hr]
      have hlnc := State.service_lnc hp hm (o := .probeNow) hop
      have hunanswered := State.service_unanswered hp hm (o := .probeNow) hop
      have hanswer := State.service_answered hp hm (o := .probeNow) hop
      rw [hcarry] at hlnc hunanswered hanswer
      exact ⟨hlnc, hunanswered, hanswer⟩
    refine ⟨fun hph => hrefused (State.serviceTrigger_listening hph), fun hph => ⟨fun hd => hrefused (State.serviceTrigger_deaf hph hd),
      fun hd ha => hrefused (State.serviceTrigger_arc hph hd ha), fun hd ha hb => hrefused (State.serviceTrigger_busy hph hd ha hb),
      fun hd ha hb hq hroom => ?_⟩⟩
    have hstarts := State.serviceTrigger_starts hph hd ha hb hq hroom
    have hcarry : s.carryOut .probeNow h l = (s.probeStarted, [BitVec.ofNat 8 7]) := by
      rw [State.carryOut_probeNow, hstarts]
      rfl
    have haddr : s.smu.address ≠ 0 := fun h0 => hd (.inl h0)
    have hlnc := State.service_lnc hp hm (o := .probeNow) hop
    have hunanswered := State.service_unanswered hp hm (o := .probeNow) hop
    have hanswer := State.service_answered hp hm (o := .probeNow) hop
    have hmatched := State.service_matched hp hm (o := .probeNow) hop
    rw [hcarry] at hlnc hunanswered hanswer hmatched
    have hlength : (s.enterFrame s.probeOpenFrame).lnc.queue.length = s.lnc.queue.length + 1 := length_insertFrame _ _
    refine ⟨hlnc, fun hcan => ?_, fun hall _ hfree => hanswer hall haddr (by exact hlength ▸ hfree)⟩
    have hmem := s.enterFrame_mem s.probeOpenFrame
    by_cases hall : m = 31
    · rw [if_pos hall] at hmatched
      have hfree : (s.enterFrame s.probeOpenFrame).lnc.queue.length < 16 := by
        have := hcan.resolve_left (not_not.2 hall)
        omega
      rw [show t = _ from hmatched]
      exact ⟨_, State.mem_queueFrame_answer haddr hfree hmem, rfl, rfl, rfl⟩
    · rw [show t = _ from hunanswered hall]
      exact ⟨_, hmem, rfl, rfl, rfl⟩
  · exact State.service_lnc hp hm (o := .query) hop
  · have hquery := hanswered (o := .query) (.inr (.inr rfl)) hop hall
    have hk : Fin.ofNat 12 (l.toNat - 1) = k := by
      rw [hl]
      exact Fin.ext (Nat.mod_eq_of_lt k.isLt)
    rw [State.carryOut, hk] at hquery
    intro r e i age cause isolation state bit
    have hcause : ∀ c, causeCode c = cause c := by
      intro c
      rcases c with - | c
      · rfl
      · cases c <;> rfl
    have hisolation : r.iso.cause.code = isolation := by
      dsimp only [isolation]
      cases r.iso.cause <;> rfl
    have hstate : r.state.reportCode = state := by
      dsimp only [state]
      cases r.state <;> rfl
    refine ⟨fun hn => ?_, fun hk => ?_⟩
    · rw [State.queryResults_of_unfitted hn] at hquery
      exact hquery
    · rw [State.queryResults_of_fitted hk, State.stringReport_eq, hstate, hisolation] at hquery
      simp only [hcause] at hquery
      exact hquery

end Sys2Proof.Machine

/-! PROOFS. HAND_OVER (R142, R164, R180 to R182, R184). -/

namespace Sys2Proof.Machine

open Sys2Proof.Safety

/-! ### The initial setting of one string (R142, R181) -/

/-- The hold under which a string with a closed contact opens again. -/
def closedHold : Option MemoValue → Option HoldRequest
  | none => none
  | some .stop => none
  | some v => v.hold

/-- The initial setting asks that the slot be written with none. -/
def asksNone (closed : Bool) (slot : Option MemoValue) : Bool := slot.isNone || (closed && slot == some .stop)

/-- The record of a string with a closed contact, before a hold of its slot. -/
def closedRecord (slot : Option MemoValue) (r : StringRecord) : StringRecord :=
  { r with state := .closed, memo := if slot = some .stop then .none else slot.getD .none }

/-- The record of a string that opens under a hold, its request not yet held by the engine. -/
def openedUnder (h : HoldRequest) (r : StringRecord) : StringRecord :=
  { r with state := .opening, holds := r.holds.add h, mismatch := 0,
           request := some { dir := .toOpen, cause := some h.cause, detail := h.detail, failed := 0, held := false } }

/-- The record the initial setting gives a string. -/
def initialRecord (now : Time) (closed : Bool) (slot : Option MemoValue) (r : StringRecord) : StringRecord :=
  if closed = true then ((closedHold slot).elim id openedUnder) (closedRecord slot r)
  else { r with state := .opened, holds := openHolds slot, memo := slot.getD .none, iso := openRecord now slot r.iso }

/-- What the initial setting leaves of the release timers of a string. -/
def initialRelease (now : Time) (x : Settings) (closed : Bool) (slot : Option MemoValue) (r : ReleaseString) : ReleaseString :=
  if closed = true then (if (closedHold slot).isSome = true then { r with closedAt := none } else r)
  else if (openHolds slot).reclosable = true ∧ r.reclose < x.recloseMax then
    { r with recloseAt := some (now.plus (x.recloseDelay * 1000)) }
  else r

theorem initialRecord_rests {slot : Option MemoValue} (h : closedHold slot = none) (now : Time) :
    initialRecord now true slot = closedRecord slot := by
  funext r
  rw [initialRecord, if_pos rfl, h]
  rfl

theorem initialRecord_opens {slot : Option MemoValue} {x : HoldRequest} (h : closedHold slot = some x) (now : Time) :
    initialRecord now true slot = fun r => openedUnder x (closedRecord slot r) := by
  funext r
  rw [initialRecord, if_pos rfl, h]
  rfl

theorem initialRelease_rests {slot : Option MemoValue} (h : closedHold slot = none) (now : Time) (x : Settings) :
    initialRelease now x true slot = fun r => r := by
  funext r
  rw [initialRelease, if_pos rfl, h]
  rfl

theorem initialRelease_opens {slot : Option MemoValue} {x : HoldRequest} (h : closedHold slot = some x) (now : Time) (y : Settings) :
    initialRelease now y true slot = fun r => { r with closedAt := none } := by
  funext r
  rw [initialRelease, if_pos rfl, h]
  rfl

theorem modifyAt_modifyAt {α : Type} (v : PerString α) (k : StringNo) (f g : α → α) :
    modifyAt (modifyAt v k f) k g = modifyAt v k (fun x => g (f x)) := by
  show Vector.set (modifyAt v k f) k.val (g (modifyAt v k f)[k]) k.isLt = _
  rw [modifyAt_same]
  exact Vector.set_set ..

theorem modifyAt_self {α : Type} (v : PerString α) (k : StringNo) : modifyAt v k (fun x => x) = v := Vector.set_getElem_self ..

section Setting
variable {s : State} {k : StringNo}

/-- A string's record has no part in the writer's service. -/
theorem State.kickMemo_setString (s : State) (k : StringNo) (f : StringRecord → StringRecord) :
    (s.setString k f).kickMemo = s.kickMemo.setString k f := by
  by_cases hrest : s.smu.phase = .inReset ∨ s.smu.supply = .low ∨ (s.smu.writer = none ∧ s.smu.memoQueue = [])
  · rw [State.kickMemo_rests hrest, State.kickMemo_rests (by exact hrest)]
  obtain ⟨hphase, hsupply, hidle⟩ := not_or.1 hrest |>.imp_right not_or.1
  have hrun : s.smu.supply = .run := by
    cases h : s.smu.supply with
    | low => exact absurd h hsupply
    | run => rfl
  cases hw : s.smu.writer with
  | some w =>
    rw [State.kickMemo_goesOn hphase hrun hw, State.kickMemo_goesOn (by exact hphase) (by exact hrun) (by exact hw)]
    rfl
  | none =>
    cases hq : s.smu.memoQueue with
    | nil => exact absurd ⟨hw, hq⟩ hidle
    | cons x rest =>
      rw [State.kickMemo_begins hphase hrun hw hq, State.kickMemo_begins (by exact hphase) (by exact hrun) (by exact hw) (by exact hq)]
      rfl

theorem State.askMemo_setString (s : State) (k j : StringNo) (f : StringRecord → StringRecord) (v : MemoValue) :
    (s.setString k f).askMemo j v = (s.askMemo j v).setString k f :=
  (s.setSmu { s.smu with memoQueue := putPending s.smu.memoQueue j v }).kickMemo_setString k f

/-- The reclose timer starts under a hold of REVERSE or OVERCURRENT while the string has recloses left. -/
theorem State.startReclose_rsl (s : State) (k : StringNo) : (s.startReclose k).rsl =
    { s.rsl with str := modifyAt s.rsl.str k fun r =>
        if (s.string k).holds.reclosable = true ∧ r.reclose < s.smu.settings.recloseMax then
          { r with recloseAt := some (s.now.plus (s.smu.settings.recloseDelay * 1000)) }
        else r } := by
  have hself : s.rsl = { s.rsl with str := modifyAt s.rsl.str k fun x => x } := by rw [modifyAt_self]
  unfold State.startReclose
  by_cases h : (s.string k).holds.reclosable = true ∧ s.rsl.str[k].reclose < s.smu.settings.recloseMax
  · rw [if_pos (by rw [h.1, decide_eq_true h.2]; rfl)]
    refine congrArg (fun v : PerString ReleaseString => ({ s.rsl with str := v } : Rsl)) (congrArg (fun r => s.rsl.str.set k.val r k.isLt) ?_)
    exact (if_pos h).symm
  · rw [if_neg (by simpa using h)]
    refine hself.trans ?_
    refine congrArg (fun v : PerString ReleaseString => ({ s.rsl with str := v } : Rsl)) (congrArg (fun r => s.rsl.str.set k.val r k.isLt) ?_)
    exact (if_neg h).symm

theorem State.initialSetting_open (slot : Option MemoValue) : s.initialSetting k false slot =
    (if asksNone false slot = true
      then (s.setString k (initialRecord s.now false slot)).askMemo k .none
      else s.setString k (initialRecord s.now false slot)).startReclose k := by
  simp only [asksNone, Bool.false_and, Bool.or_false]
  rfl

theorem State.initialSetting_closed_rests {slot : Option MemoValue} (h : closedHold slot = none) : s.initialSetting k true slot =
    if asksNone true slot = true then (s.setString k (closedRecord slot)).askMemo k .none else s.setString k (closedRecord slot) := by
  rcases slot with _ | v
  · rfl
  · cases v with
    | stop | none => rfl
    | arc | ground | reverse | overcurrent | service => cases h

theorem State.initialSetting_closed_opens {slot : Option MemoValue} {h : HoldRequest} (hs : s.started = false) (hh : closedHold slot = some h) :
    asksNone true slot = false ∧
    s.initialSetting k true slot = ((s.setString k (closedRecord slot)).held k h).openQueued k h.cause h.detail := by
  have hclosed : ((s.setString k (closedRecord slot)).string k).state = .closed := congrArg StringRecord.state (State.setString_string s k _)
  have hadd : (s.setString k (closedRecord slot)).addHold k h =
      ((s.setString k (closedRecord slot)).held k h).openQueued k h.cause h.detail := by
    rw [State.addHold_closed hclosed, State.queueOpen_eq, State.kickDrive_rests (.inl (by exact hs))]
  rw [← hadd]
  rcases slot with _ | v
  · cases hh
  · cases v <;> cases hh <;> exact ⟨rfl, rfl⟩

variable (c : Bool) (slot : Option MemoValue)

/-- The initial setting writes the record, and queues an OPEN under the hold of the slot. -/
theorem State.initialSetting_swc (hs : s.started = false) : (s.initialSetting k c slot).swc =
    { s.swc with str := modifyAt s.swc.str k (initialRecord s.now c slot),
                 openQ := s.swc.openQ ++ if (c && (closedHold slot).isSome) = true then [k] else [] } := by
  have hask (u : State) (b : Bool) : (if b = true then u.askMemo k .none else u).swc = u.swc := by
    cases b
    · rfl
    · exact (State.askMemo_frame _ _ _).keeps .swc (by decide)
  cases c with
  | false =>
    rw [State.initialSetting_open, (State.startReclose_frame _ _).keeps .swc (by decide), hask, Bool.false_and, if_neg Bool.false_ne_true,
      List.append_nil]
    rfl
  | true =>
    cases h : closedHold slot with
    | none =>
      rw [State.initialSetting_closed_rests h, hask, Option.isSome_none, Bool.and_false, if_neg Bool.false_ne_true, List.append_nil]
      rw [initialRecord_rests h]
      rfl
    | some x =>
      rw [(State.initialSetting_closed_opens hs h).2, Option.isSome_some, Bool.and_true, if_pos rfl]
      simp only [initialRecord_opens h, State.openQueued, State.held, State.setString, State.setRelease, modifyAt_modifyAt]
      rfl

/-- The initial setting moves the release timers of its string alone. -/
theorem State.initialSetting_rsl (hs : s.started = false) : (s.initialSetting k c slot).rsl =
    { s.rsl with str := modifyAt s.rsl.str k (initialRelease s.now s.smu.settings c slot) } := by
  have hask (u : State) (b : Bool) : (if b = true then u.askMemo k .none else u).rsl = u.rsl := by
    cases b
    · rfl
    · exact (State.askMemo_frame _ _ _).keeps .rsl (by decide)
  have hself : s.rsl = { s.rsl with str := modifyAt s.rsl.str k fun x => x } := by rw [modifyAt_self]
  cases c with
  | false =>
    rw [State.initialSetting_open]
    generalize hu : (if asksNone false slot = true then (s.setString k (initialRecord s.now false slot)).askMemo k .none
      else s.setString k (initialRecord s.now false slot)) = u
    have hrsl : u.rsl = s.rsl := by rw [← hu, hask]; rfl
    have hholds : (u.string k).holds = openHolds slot := by
      rw [← hu]
      have hset : ((s.setString k (initialRecord s.now false slot)).string k).holds = openHolds slot :=
        congrArg StringRecord.holds (State.setString_string s k _)
      split
      · rw [State.askMemo_string, hset]
      · exact hset
    have hnow : u.now = s.now := by
      rw [← hu]
      split
      · exact (State.askMemo_frame _ _ _).2.1
      · rfl
    have hsettings : u.smu.settings = s.smu.settings := by
      refine settings_of_withoutMemos ?_
      rw [← hu]
      split
      · exact State.askMemo_withoutMemos _ _ _
      · rfl
    rw [State.startReclose_rsl, hrsl, hholds, hnow, hsettings]
    rfl
  | true =>
    cases h : closedHold slot with
    | none =>
      rw [State.initialSetting_closed_rests h, hask]
      rw [initialRelease_rests h]
      exact hself
    | some x =>
      rw [(State.initialSetting_closed_opens hs h).2]
      rw [initialRelease_opens h]
      rfl

/-- The initial setting asks the write of none for a bad slot and for a STOP under a closed contact. -/
theorem State.initialSetting_smu (hs : s.started = false) : (s.initialSetting k c slot).smu =
    if asksNone c slot = true then (s.askMemo k .none).smu else s.smu := by
  have hask (f : StringRecord → StringRecord) (b : Bool) :
      (if b = true then (s.setString k f).askMemo k .none else s.setString k f).smu = if b = true then (s.askMemo k .none).smu else s.smu := by
    cases b
    · rfl
    · rw [if_pos rfl, if_pos rfl, State.askMemo_setString]
      rfl
  cases c with
  | false => rw [State.initialSetting_open, (State.startReclose_frame _ _).keeps .smu (by decide), hask]
  | true =>
    cases h : closedHold slot with
    | none => rw [State.initialSetting_closed_rests h, hask]
    | some x =>
      obtain ⟨hasks, heq⟩ := State.initialSetting_closed_opens (k := k) hs h
      rw [heq, hasks]
      rfl

end Setting

end Sys2Proof.Machine

/-! PROOFS. The initial settings of all fitted strings, and the begin of the listen period (R142, R181, R182, R184). -/

namespace Sys2Proof.Machine

open Sys2Proof.Safety

/-! ### The writes the initial settings ask (R184) -/

/-- The writer takes no pending write: without RUN, or with a write of its own in progress. -/
def Smu.writerRests (x : Smu) : Prop := x.supply = .low ∨ ∃ w, x.writer = some w ∧ w.busy = true

theorem State.kickMemo_of_writerRests {s : State} (h : s.smu.writerRests) : s.kickMemo = s := by
  rcases h with h | ⟨w, hw, hb⟩
  · exact State.kickMemo_rests (.inr (.inl h))
  · unfold State.kickMemo
    rw [hw]
    simp [hb]

theorem putPending_of_absent {q : List (StringNo × MemoValue)} {k : StringNo} {v : MemoValue} (h : k ∉ q.map Prod.fst) :
    putPending q k v = q ++ [(k, v)] := by
  rw [putPending_eq, if_neg]
  rintro ⟨x, hx, rfl⟩
  exact h (List.mem_map_of_mem hx)

theorem State.askMemo_of_writerRests {s : State} {k : StringNo} {v : MemoValue} (h : s.smu.writerRests) (hk : k ∉ s.smu.memoQueue.map Prod.fst) :
    (s.askMemo k v).smu = { s.smu with memoQueue := s.smu.memoQueue ++ [(k, v)] } := by
  rw [State.askMemo, State.kickMemo_of_writerRests (by exact h), putPending_of_absent hk]
  rfl

theorem State.askMemo_begins {s : State} {k : StringNo} {v : MemoValue} (hp : s.smu.phase ≠ .inReset) (hs : s.smu.supply = .run)
    (hw : s.smu.writer = none) (hq : s.smu.memoQueue = []) : (s.askMemo k v).smu =
      { s.smu with memoQueue := [], writer := some { string := k, value := v, failed := 0, busy := true, began := s.now } } := by
  rw [State.askMemo, State.kickMemo_begins (k := k) (v := v) (rest := []) (by exact hp) (by exact hs) (by exact hw) (by rw [hq]; rfl)]
  rfl

/-! ### All initial settings (R181) -/

section Settings
variable (c : StringNo → Bool) (v : StringNo → Option MemoValue)

/-- The initial settings of some strings, in their order. -/
def State.initialSettings (s : State) (ks : List StringNo) : State := forStrings ks (fun u k => u.initialSetting k (c k) (v k)) s

/-- A string opens at its initial setting. -/
def opensAtStart (k : StringNo) : Bool := c k && (closedHold (v k)).isSome

/-- The writes of none that the initial settings of some strings ask, in their order. -/
def writesAtStart (ks : List StringNo) : List (StringNo × MemoValue) :=
  (ks.filter fun k => asksNone (c k) (v k)).map fun k => (k, .none)

theorem mem_writesAtStart {ks : List StringNo} {k : StringNo} (h : k ∈ (writesAtStart c v ks).map Prod.fst) : k ∈ ks := by
  simp only [writesAtStart, List.map_map, List.mem_map, List.mem_filter] at h
  obtain ⟨j, ⟨hj, -⟩, rfl⟩ := h
  exact hj

variable {c v} in
theorem writesAtStart_of_asks {k : StringNo} (h : asksNone (c k) (v k) = true) (ks : List StringNo) :
    writesAtStart c v (k :: ks) = (k, .none) :: writesAtStart c v ks := by
  rw [writesAtStart, List.filter_cons_of_pos (by exact h)]
  rfl

variable {c v} in
theorem writesAtStart_of_asksNot {k : StringNo} (h : asksNone (c k) (v k) = false) (ks : List StringNo) :
    writesAtStart c v (k :: ks) = writesAtStart c v ks := by
  rw [writesAtStart, List.filter_cons_of_neg (by simp [h])]
  rfl

variable {s : State}

theorem State.initialSetting_started (k : StringNo) (b : Bool) (w : Option MemoValue) (hs : s.started = false) :
    (s.initialSetting k b w).started = false := by
  unfold State.started at *
  rwa [phase_of_withoutMemos (s.initialSetting_withoutMemos k b w)]

theorem State.initialSettings_withoutMemos (ks : List StringNo) : (s.initialSettings c v ks).smu.withoutMemos = s.smu.withoutMemos :=
  forStrings_keeps (fun u => u.smu.withoutMemos) s fun u k => State.initialSetting_withoutMemos u k _ _

theorem State.initialSettings_frame (ks : List StringNo) : Frame [.smu, .swc, .rsl] s (s.initialSettings c v ks) :=
  frame_forStrings _ fun u k => u.initialSetting_frame k _ _

/-- The OPEN requests of the initial settings wait in string order; no other queue, pin or engine state moves. -/
theorem State.initialSettings_swc (hs : s.started = false) (ks : List StringNo) : (s.initialSettings c v ks).swc =
    { s.swc with str := (s.initialSettings c v ks).swc.str, openQ := s.swc.openQ ++ ks.filter (opensAtStart c v) } := by
  induction ks generalizing s with
  | nil => simp [State.initialSettings, forStrings]
  | cons k ks ih =>
    have hcons : s.initialSettings c v (k :: ks) = (s.initialSetting k (c k) (v k)).initialSettings c v ks := rfl
    rw [hcons, ih (State.initialSetting_started k _ _ hs), State.initialSetting_swc _ _ hs, List.filter_cons, List.append_assoc]
    unfold opensAtStart
    cases c k && (closedHold (v k)).isSome <;> rfl

theorem State.initialSettings_rsl (hs : s.started = false) (ks : List StringNo) : (s.initialSettings c v ks).rsl =
    { s.rsl with str := (s.initialSettings c v ks).rsl.str } := by
  induction ks generalizing s with
  | nil => rfl
  | cons k ks ih =>
    have hcons : s.initialSettings c v (k :: ks) = (s.initialSetting k (c k) (v k)).initialSettings c v ks := rfl
    rw [hcons, ih (State.initialSetting_started k _ _ hs), State.initialSetting_rsl _ _ hs]

/-- While the writer takes none, the writes wait in string order. -/
theorem State.initialSettings_queued (hs : s.started = false) {ks : List StringNo} (hn : ks.Nodup) (hr : s.smu.writerRests)
    (hk : ∀ k ∈ ks, k ∉ s.smu.memoQueue.map Prod.fst) : (s.initialSettings c v ks).smu =
      { s.smu with memoQueue := s.smu.memoQueue ++ writesAtStart c v ks } := by
  induction ks generalizing s with
  | nil => simp [State.initialSettings, forStrings, writesAtStart]
  | cons k ks ih =>
    obtain ⟨hknew, hn⟩ := List.nodup_cons.1 hn
    obtain ⟨hkq, hks⟩ := List.forall_mem_cons.1 hk
    have hcons : s.initialSettings c v (k :: ks) = (s.initialSetting k (c k) (v k)).initialSettings c v ks := rfl
    have hstart := State.initialSetting_started k (c k) (v k) hs
    rw [hcons]
    have hsmu := State.initialSetting_smu (k := k) (c k) (v k) hs
    cases ha : asksNone (c k) (v k) with
    | false =>
      rw [ha, if_neg Bool.false_ne_true] at hsmu
      rw [ih hstart hn (by rwa [hsmu]) (by rwa [hsmu]), hsmu, writesAtStart_of_asksNot ha]
    | true =>
      rw [ha, if_pos rfl, State.askMemo_of_writerRests hr hkq] at hsmu
      have habsent : ∀ j ∈ ks, j ∉ (s.smu.memoQueue ++ [(k, MemoValue.none)]).map Prod.fst := by
        intro j hj
        have hne : j ≠ k := fun e => hknew (e ▸ hj)
        simpa [hne] using hks j hj
      rw [ih hstart hn (by rw [hsmu]; exact hr) (by rw [hsmu]; exact habsent), hsmu, writesAtStart_of_asks ha]
      exact congrArg (fun q => { s.smu with memoQueue := q }) (List.append_assoc ..)

/-- Under RUN an idle writer takes the first of the writes. -/
theorem State.initialSettings_begins (hs : s.started = false) {ks : List StringNo} (hn : ks.Nodup) (hp : s.smu.phase ≠ .inReset)
    (hrun : s.smu.supply = .run) (hw : s.smu.writer = none) (hq : s.smu.memoQueue = []) :
    (writesAtStart c v ks = [] → (s.initialSettings c v ks).smu = s.smu) ∧
    (∀ k x rest, writesAtStart c v ks = (k, x) :: rest → (s.initialSettings c v ks).smu =
      { s.smu with memoQueue := rest, writer := some { string := k, value := x, failed := 0, busy := true, began := s.now } }) := by
  induction ks generalizing s with
  | nil => exact ⟨fun _ => rfl, nofun⟩
  | cons k ks ih =>
    obtain ⟨hknew, hn⟩ := List.nodup_cons.1 hn
    have hcons : s.initialSettings c v (k :: ks) = (s.initialSetting k (c k) (v k)).initialSettings c v ks := rfl
    have hstart := State.initialSetting_started k (c k) (v k) hs
    have hnow : (s.initialSetting k (c k) (v k)).now = s.now := (s.initialSetting_frame k _ _).2.1
    have hsmu := State.initialSetting_smu (k := k) (c k) (v k) hs
    rw [hcons]
    cases ha : asksNone (c k) (v k) with
    | false =>
      rw [ha, if_neg Bool.false_ne_true] at hsmu
      have hih := ih hstart hn (by rwa [hsmu]) (by rwa [hsmu]) (by rwa [hsmu]) (by rwa [hsmu])
      rwa [hsmu, hnow, ← writesAtStart_of_asksNot ha] at hih
    | true =>
      rw [ha, if_pos rfl, State.askMemo_begins hp hrun hw hq] at hsmu
      rw [writesAtStart_of_asks ha, State.initialSettings_queued c v hstart hn (by rw [hsmu]; exact .inr ⟨_, rfl, rfl⟩) (by rw [hsmu]; simp), hsmu]
      refine ⟨nofun, fun j x rest h => ?_⟩
      cases h
      rfl

/-- Each string of the list has the record and the timers of its initial setting; the others keep theirs. -/
theorem State.initialSettings_at (hs : s.started = false) {ks : List StringNo} (hn : ks.Nodup) (k : StringNo) :
    let t := s.initialSettings c v ks
    (k ∉ ks → t.string k = s.string k ∧ t.rsl.str[k] = s.rsl.str[k]) ∧
    (k ∈ ks → t.string k = initialRecord s.now (c k) (v k) (s.string k) ∧
      t.rsl.str[k] = initialRelease s.now s.smu.settings (c k) (v k) s.rsl.str[k]) := by
  obtain ⟨-, hother, hat⟩ := forStrings_at (fun u j => (u.string j, u.rsl.str[j]))
    (fun u => u.started = false ∧ u.now = s.now ∧ u.smu.settings = s.smu.settings)
    (fun u k => u.initialSetting k (c k) (v k))
    (fun u k j hu hj => by
      simp only [State.string, State.initialSetting_swc _ _ hu.1, State.initialSetting_rsl _ _ hu.1, Prod.mk.injEq]
      exact ⟨modifyAt_other _ _ _ _ hj, modifyAt_other _ _ _ _ hj⟩)
    (fun u k hu => ⟨State.initialSetting_started k _ _ hu.1, (u.initialSetting_frame k _ _).2.1.trans hu.2.1,
      (settings_of_withoutMemos (u.initialSetting_withoutMemos k _ _)).trans hu.2.2⟩) ks hn s ⟨hs, rfl, rfl⟩ k
  refine ⟨fun hk => Prod.mk.inj (hother hk), fun hk => ?_⟩
  obtain ⟨u, ⟨hu, hnow, hsettings⟩, hget, hset⟩ := hat hk
  obtain ⟨hrecord, hrelease⟩ := Prod.mk.inj hset
  obtain ⟨hstring, htimers⟩ := Prod.mk.inj hget
  refine ⟨hrecord.trans ?_, hrelease.trans ?_⟩
  · rw [← hstring, ← hnow]
    unfold State.string
    rw [State.initialSetting_swc _ _ hu]
    exact modifyAt_same _ _ _
  · rw [← htimers, ← hnow, ← hsettings, State.initialSetting_rsl _ _ hu]
    exact modifyAt_same _ _ _

end Settings

end Sys2Proof.Machine

/-! PROOFS. HAND_OVER: the contacts, the initial settings and the begin of the listen period (R142, R180 to R182, R184). -/

namespace Sys2Proof.Machine

open Sys2Proof.Safety

/-! ### The contacts read (R180) -/

/-- The state with its contact feedback inputs at these levels. -/
def State.contactsRead (s : State) (x : PerString Bool) : State := { s with swc := { s.swc with contact := x } }

/-- The contact feedback input of one string read. -/
def State.contactRead (closed : List Bool) (s : State) (k : StringNo) : State :=
  s.contactsRead (modifyAt s.swc.contact k fun _ => closed.getD k.val false)

/-- Reading the contacts moves the inputs of the fitted strings alone. -/
theorem State.readContacts_eq (s : State) (closed : List Bool) : ∃ x : PerString Bool, s.readContacts closed = s.contactsRead x ∧
    ∀ k : StringNo, k.val < s.smu.strings → x[k] = closed.getD k.val false := by
  have hround (ks : List StringNo) : ∃ x, forStrings ks (State.contactRead closed) s = s.contactsRead x := by
    induction ks using List.reverseRecOn with
    | nil => exact ⟨s.swc.contact, rfl⟩
    | append_singleton ks k ih =>
      obtain ⟨x, hx⟩ := ih
      refine ⟨modifyAt x k fun _ => closed.getD k.val false, ?_⟩
      rw [forStrings, List.foldl_append]
      exact congrArg (fun t => State.contactRead closed t k) hx
  obtain ⟨x, hx⟩ := hround s.fittedStrings
  refine ⟨x, hx, fun k hk => ?_⟩
  obtain ⟨-, -, hat⟩ := forStrings_at (fun t k => t.swc.contact[k]) (fun _ => True) (State.contactRead closed)
    (fun _ _ _ _ hj => modifyAt_other _ _ _ _ hj) (fun _ _ _ => trivial) s.fittedStrings s.nodup_fittedStrings s trivial k
  obtain ⟨t, -, -, hset⟩ := hat ((s.mem_fittedStrings k).2 hk)
  rw [hx] at hset
  exact hset.trans (modifyAt_same _ _ _)

/-! ### The begin of the listen period (R182) -/

/-- The listen period begun, before the engine is served. -/
def State.listening (s : State) : State :=
  let u := s.setSmu { s.smu with phase := .listening, listenEndAt := some (s.now.plus listenMs) }
  let u := u.setLnc { u.lnc with periodEndAt := some (u.now.plus healthMs) }
  ({ u with ssu := { u.ssu with intervalStart := some u.now } }).beginWatching

theorem State.beginListening_eq (s : State) : s.beginListening = s.listening.kickDrive := rfl

theorem State.handOver_eq {s : State} (h : s.smu.phase = .reading) (closed answers : List Bool) :
    ∃ x : PerString Bool, (∀ k : StringNo, k.val < s.smu.strings → x[k] = closed.getD k.val false) ∧
    s.handOver closed answers = ((s.contactsRead x).initialSettings (fun k => closed.getD k.val false)
      (fun k => s.readSlot k (answers.getD k.val false)) s.fittedStrings).listening.kickDrive := by
  obtain ⟨x, hx, hfitted⟩ := s.readContacts_eq closed
  refine ⟨x, hfitted, ?_⟩
  rw [← State.beginListening_eq]
  unfold State.handOver
  rw [if_pos (by rw [h]; rfl), hx]
  refine congrArg State.beginListening (List.foldl_ext _ _ _ fun u k hk => ?_)
  exact congrArg (fun b => u.initialSetting k b (s.readSlot k (answers.getD k.val false))) (hfitted k ((s.mem_fittedStrings k).1 hk))

/-! ### The strings that open and the slots written -/

section Lists
variable (s : State)

theorem State.fittedStrings_filter {p : StringNo → Bool} {q : StringNo → Prop} [DecidablePred q]
    (h : ∀ k : StringNo, k.val < s.smu.strings ∧ p k = true ↔ q k) :
    s.fittedStrings.filter p = (List.finRange 12).filter fun k => decide (q k) := by
  rw [State.fittedStrings, List.filter_filter, show allStrings = List.finRange 12 from rfl]
  refine List.filter_congr fun k _ => ?_
  rw [Bool.eq_iff_iff, Bool.and_eq_true, decide_eq_true_iff, State.fitted, decide_eq_true_iff, ← h]
  exact and_comm

theorem closedHold_isSome (slot : Option MemoValue) : (closedHold slot).isSome = true ↔ ∃ x ∈ slot, x ≠ .none ∧ x ≠ .stop := by
  rcases slot with _ | v
  · simp [closedHold]
  · cases v <;> simp [closedHold, MemoValue.hold]

theorem asksNone_iff (c : Bool) (slot : Option MemoValue) : asksNone c slot = true ↔ slot = none ∨ (c = true ∧ slot = some .stop) := by
  simp [asksNone]

end Lists

/-! ### The hand-over -/

section HandOver
variable {s : State} (closed answers : List Bool)

/-- The memo slots of the strings, as the hand-over reads them. -/
abbrev State.slots (s : State) (answers : List Bool) (k : StringNo) : Option MemoValue := s.readSlot k (answers.getD k.val false)

theorem State.not_started (h : s.smu.phase = .reading) : s.started = false := by
  unfold State.started
  rw [h]

/-- The blocks the initial settings have no part in. -/
theorem State.handOver_rest (h : s.smu.phase = .reading) : ∃ t, s.handOver closed answers = t ∧
    t.smu.phase = .listening ∧ t.smu.listenEndAt = some (s.now.plus 5000) ∧
    t.lnc = { s.lnc with periodEndAt := some (s.now.plus 1000) } ∧ t.ssu = { s.ssu with intervalStart := some s.now } ∧ t.smu.mem = s.smu.mem ∧
    t.rsl = { s.rsl with
      str := t.rsl.str, buttonAt := if s.rsl.buttonIn = true then none else some (s.now.plus 50),
      stopKey := { s.rsl.stopKey with testAt := if s.rsl.stopKey.input = true then some (s.now.plus 50) else none },
      lockKey := { s.rsl.lockKey with testAt := if s.rsl.lockKey.input = true then some (s.now.plus 50) else none } } := by
  obtain ⟨x, -, heq⟩ := State.handOver_eq h closed answers
  refine ⟨_, heq, ?_⟩
  have hs : (s.contactsRead x).started = false := State.not_started h
  have hframe := State.initialSettings_frame (s := s.contactsRead x) (fun k => closed.getD k.val false) (s.slots answers) s.fittedStrings
  have hrsl := State.initialSettings_rsl (fun k => closed.getD k.val false) (s.slots answers) hs s.fittedStrings
  have hkept := State.initialSettings_withoutMemos (s := s.contactsRead x) (fun k => closed.getD k.val false) (s.slots answers) s.fittedStrings
  generalize (s.contactsRead x).initialSettings (fun k => closed.getD k.val false) (s.slots answers) s.fittedStrings = u at *
  have hnow : u.now = s.now := hframe.2.1
  have hlnc : u.lnc = s.lnc := hframe.keeps .lnc (by decide)
  have hssu : u.ssu = s.ssu := hframe.keeps .ssu (by decide)
  have hserved := u.listening.kickDrive_frame
  rw [show u.listening.kickDrive.smu = u.listening.smu from hserved.keeps .smu (by decide),
    show u.listening.kickDrive.lnc = u.listening.lnc from hserved.keeps .lnc (by decide),
    show u.listening.kickDrive.ssu = u.listening.ssu from hserved.keeps .ssu (by decide),
    show u.listening.kickDrive.rsl = u.listening.rsl from hserved.keeps .rsl (by decide)]
  have hlistening : u.listening.rsl = u.beginWatching.rsl := rfl
  refine ⟨rfl, ?_, ?_, ?_, (mem_of_withoutMemos hkept :), ?_⟩
  · rw [← hnow]
    rfl
  · rw [← hnow, ← hlnc]
    rfl
  · rw [← hnow, ← hssu]
    rfl
  · rw [hlistening, State.beginWatching, hrsl, hnow]
    rfl

/-- The OPEN requests of the initial settings wait in string order, and the engine takes the first. -/
theorem State.handOver_opens (h : s.smu.phase = .reading) (ho : s.swc.openQ = []) (hc : s.swc.closeQ = []) (he : s.swc.engine = .idle) :
    let t := s.handOver closed answers
    let opens := s.fittedStrings.filter (opensAtStart (fun k => closed.getD k.val false) (s.slots answers))
    (s.swc.ready = false ∨ s.smu.supply = .low ∨ opens = [] → t.swc.openQ = opens ∧ t.swc.engine = .idle) ∧
    (∀ k rest, s.swc.ready = true → s.smu.supply = .run → opens = k :: rest → t.swc.openQ = rest ∧
      t.swc.engine = .pulsing k .toOpen ∧ t.swc.coil = some (k, .toOpen) ∧
      t.swc.pulseEndAt = some (s.now.plus s.smu.settings.pulseMs)) := by
  obtain ⟨x, -, heq⟩ := State.handOver_eq h closed answers
  have hs : (s.contactsRead x).started = false := State.not_started h
  have hswc := State.initialSettings_swc (fun k => closed.getD k.val false) (s.slots answers) hs s.fittedStrings
  have hkept := State.initialSettings_withoutMemos (s := s.contactsRead x) (fun k => closed.getD k.val false) (s.slots answers) s.fittedStrings
  have hframe := State.initialSettings_frame (s := s.contactsRead x) (fun k => closed.getD k.val false) (s.slots answers) s.fittedStrings
  dsimp only
  rw [heq]
  generalize (s.contactsRead x).initialSettings (fun k => closed.getD k.val false) (s.slots answers) s.fittedStrings = u at *
  generalize s.fittedStrings.filter (opensAtStart (fun k => closed.getD k.val false) (s.slots answers)) = opens at *
  have hnow : u.now = s.now := hframe.2.1
  have hopenQ : u.swc.openQ = opens := (congrArg Swc.openQ hswc :).trans (congrArg (· ++ opens) ho)
  have hcloseQ : u.swc.closeQ = [] := (congrArg Swc.closeQ hswc :).trans hc
  have hengine : u.swc.engine = .idle := (congrArg Swc.engine hswc :).trans he
  have hready : u.swc.ready = s.swc.ready := (congrArg Swc.ready hswc :)
  have hsupply : u.smu.supply = s.smu.supply := supply_of_withoutMemos hkept
  have hsettings : u.smu.settings = s.smu.settings := settings_of_withoutMemos hkept
  refine ⟨fun hrest => ?_, fun k rest hr hp hq => ?_⟩
  · rw [State.kickDrive_rests]
    · exact ⟨hopenQ, hengine⟩
    · rcases hrest with hr | hl | hq
      · exact .inr (.inr (.inl (hready.trans hr)))
      · exact .inr (.inr (.inr (.inl (hsupply.trans hl))))
      · exact .inr (.inr (.inr (.inr ⟨hopenQ.trans hq, hcloseQ⟩)))
  · rw [State.kickDrive_opens (s := u.listening) (k := k) (rest := rest) ⟨rfl, hengine, hready.trans hr, hsupply.trans hp⟩ (hopenQ.trans hq)]
    refine ⟨rfl, rfl, rfl, ?_⟩
    rw [← hnow, ← hsettings]
    rfl

/-- The writes of none wait in string order, and under RUN an idle writer takes the first. -/
theorem State.handOver_writes (h : s.smu.phase = .reading) (hq : s.smu.memoQueue = []) (hw : s.smu.writer = none) :
    let t := s.handOver closed answers
    let writes := writesAtStart (fun k => closed.getD k.val false) (s.slots answers) s.fittedStrings
    (s.smu.supply = .low ∨ writes = [] → t.smu.memoQueue = writes ∧ t.smu.writer = none) ∧
    (∀ k v rest, s.smu.supply = .run → writes = (k, v) :: rest → t.smu.memoQueue = rest ∧
      t.smu.writer = some { string := k, value := v, failed := 0, busy := true, began := s.now }) := by
  obtain ⟨x, -, heq⟩ := State.handOver_eq h closed answers
  have hs : (s.contactsRead x).started = false := State.not_started h
  have hqueued := State.initialSettings_queued (fun k => closed.getD k.val false) (s.slots answers) hs s.nodup_fittedStrings
  have hbegins := State.initialSettings_begins (fun k => closed.getD k.val false) (s.slots answers) hs s.nodup_fittedStrings
    (show s.smu.phase ≠ .inReset by rw [h]; decide)
  dsimp only
  rw [heq, (State.kickDrive_frame _).keeps .smu (by decide)]
  generalize (s.contactsRead x).initialSettings (fun k => closed.getD k.val false) (s.slots answers) s.fittedStrings = u at *
  generalize writesAtStart (fun k => closed.getD k.val false) (s.slots answers) s.fittedStrings = writes at *
  refine ⟨fun hrest => ?_, fun k v rest hrun hwrites => ?_⟩
  · cases hsupply : s.smu.supply with
    | low =>
      have hsmu := hqueued (.inl hsupply) (fun k _ => by rw [show (s.contactsRead x).smu.memoQueue = [] from hq]; simp)
      exact ⟨(congrArg Smu.memoQueue hsmu :).trans (congrArg (· ++ writes) hq), (congrArg Smu.writer hsmu :).trans hw⟩
    | run =>
      have hnone : writes = [] := hrest.resolve_left (by rw [hsupply]; decide)
      have hsmu := (hbegins hsupply hw hq).1 hnone
      exact ⟨(congrArg Smu.memoQueue hsmu :).trans (hq.trans hnone.symm), (congrArg Smu.writer hsmu :).trans hw⟩
  · have hsmu := (hbegins hrun hw hq).2 k v rest hwrites
    exact ⟨(congrArg Smu.memoQueue hsmu :), (congrArg Smu.writer hsmu :)⟩

end HandOver

end Sys2Proof.Machine

/-! PROOFS. HAND_OVER: the strings after their initial settings (R140, R142, R164, R181). -/

namespace Sys2Proof.Machine

open Sys2Proof.Safety

/-! ### A record whose request the engine may hold (R144) -/

/-- A record as the engine's service leaves it: its request waits or is held. -/
def StringRecord.Served (r x : StringRecord) : Prop := x = r ∨ x = r.holdRequest

theorem StringRecord.Served.fields {r x : StringRecord} (h : r.Served x) :
    x.state = r.state ∧ x.holds = r.holds ∧ x.iso = r.iso ∧ x.memo = r.memo := by
  rcases h with h | h <;> subst h <;> exact ⟨rfl, rfl, rfl, rfl⟩

theorem StringRecord.Served.request {r x : StringRecord} {q : Request} (h : r.Served x) (hq : r.request = some q) :
    ∃ b, x.request = some { q with held := b } := by
  rcases h with h | h
  · exact ⟨q.held, by rw [h, hq]⟩
  · exact ⟨true, by rw [h, StringRecord.holdRequest, hq]; rfl⟩

/-! ### The record and the timers of the initial setting (R164, R181) -/

section Record
variable (now : Time) (c : Bool) (slot : Option MemoValue)

theorem initialRecord_memo (r : StringRecord) : (initialRecord now c slot r).memo =
    if c = true ∧ slot = some .stop then .none else slot.getD .none := by
  cases c with
  | false => simp [initialRecord]
  | true =>
    cases h : closedHold slot with
    | none => simp [initialRecord_rests h, closedRecord]
    | some x => simp [initialRecord_opens h, openedUnder, closedRecord]

theorem openHolds_reclosable : (openHolds slot).reclosable = true ↔ slot = some .reverse ∨ slot = some .overcurrent := by
  rcases slot with _ | v
  · decide
  · cases v <;> decide

theorem initialRelease_recloseAt (x : Settings) (r : ReleaseString) : (initialRelease now x c slot r).recloseAt =
    if c = false ∧ (slot = some .reverse ∨ slot = some .overcurrent) ∧ r.reclose < x.recloseMax then
      some (now.plus (x.recloseDelay * 1000))
    else r.recloseAt := by
  cases c with
  | false =>
    simp only [initialRelease, Bool.false_eq_true, if_false, true_and, openHolds_reclosable]
    split <;> rfl
  | true =>
    simp only [initialRelease, if_true, Bool.true_eq_false, false_and, if_false]
    split <;> rfl

end Record

section HandOver
variable {s : State} (closed answers : List Bool)

/-- Each fitted string has its initial setting and its contact; the others keep theirs. -/
theorem State.handOver_at (h : s.smu.phase = .reading) (k : StringNo) :
    let t := s.handOver closed answers
    (s.smu.strings ≤ k.val → (s.string k).Served (t.string k) ∧ t.rsl.str[k] = s.rsl.str[k]) ∧
    (k.val < s.smu.strings → t.swc.contact[k] = closed.getD k.val false ∧
      (initialRecord s.now (closed.getD k.val false) (s.slots answers k) (s.string k)).Served (t.string k) ∧
      t.rsl.str[k] = initialRelease s.now s.smu.settings (closed.getD k.val false) (s.slots answers k) s.rsl.str[k]) := by
  obtain ⟨x, hcontact, heq⟩ := State.handOver_eq h closed answers
  have hs : (s.contactsRead x).started = false := State.not_started h
  have hswc := State.initialSettings_swc (fun k => closed.getD k.val false) (s.slots answers) hs s.fittedStrings
  have hat := State.initialSettings_at (fun k => closed.getD k.val false) (s.slots answers) hs s.nodup_fittedStrings k
  dsimp only at hat ⊢
  rw [heq]
  generalize (s.contactsRead x).initialSettings (fun k => closed.getD k.val false) (s.slots answers) s.fittedStrings = u at *
  obtain ⟨hother, hset⟩ := hat
  obtain ⟨hserved, hcontacts⟩ := u.listening.kickDrive_served k
  have hrests : u.listening.kickDrive.rsl = u.listening.rsl := (State.kickDrive_frame _).keeps .rsl (by decide)
  have hrsl : u.listening.kickDrive.rsl.str = u.rsl.str := (congrArg Rsl.str hrests :)
  have hread : u.swc.contact = x := (congrArg Swc.contact hswc :)
  rw [hrsl, show u.listening.kickDrive.swc.contact = x from hcontacts.trans hread]
  refine ⟨fun hk => ?_, fun hk => ?_⟩
  · obtain ⟨hstring, htimers⟩ := hother (mt (s.mem_fittedStrings k).1 (by omega))
    exact ⟨by rw [← show u.string k = s.string k from hstring]; exact hserved, htimers⟩
  · obtain ⟨hstring, htimers⟩ := hset ((s.mem_fittedStrings k).2 hk)
    have hrecord : u.string k = initialRecord s.now (closed.getD k.val false) (s.slots answers k) (s.string k) := hstring
    exact ⟨hcontact k hk, by rw [← hrecord]; exact hserved, htimers⟩

end HandOver

/-! ### A string at its reset state before (R181) -/

section AtReset
variable {slot : Option MemoValue} {r : StringRecord} {now : Time}

/-- A slot of a fault or SERVICE opens the string under it when its contact is closed. -/
theorem served_opens {x : HoldRequest} (h : (initialRecord now true slot StringRecord.atReset).Served r) (hx : closedHold slot = some x) :
    (r.state = .opening ∧ ∃ q, r.request = some q ∧ q.dir = .toOpen ∧ q.cause = some x.cause ∧ q.detail = x.detail ∧ q.failed = 0) ∧
    r.holds = HoldSet.empty.add x := by
  rw [initialRecord_opens hx] at h
  obtain ⟨hstate, hholds, -, -⟩ := h.fields
  obtain ⟨b, hb⟩ := h.request rfl
  exact ⟨⟨hstate, _, hb, rfl, rfl, rfl, rfl⟩, hholds⟩

theorem served_rests (h : (initialRecord now true slot StringRecord.atReset).Served r) (hx : closedHold slot = none) :
    r.state = .closed ∧ r.holds = HoldSet.empty := by
  rw [initialRecord_rests hx] at h
  obtain ⟨hstate, hholds, -, -⟩ := h.fields
  exact ⟨hstate, hholds⟩

theorem served_closed_iso (h : (initialRecord now true slot StringRecord.atReset).Served r) : r.iso = StringRecord.atReset.iso := by
  cases hx : closedHold slot with
  | none =>
    rw [initialRecord_rests hx] at h
    exact h.fields.2.2.1
  | some x =>
    rw [initialRecord_opens hx] at h
    exact h.fields.2.2.1

theorem served_open (h : (initialRecord now false slot StringRecord.atReset).Served r) :
    r.state = .opened ∧ r.holds = openHolds slot ∧ r.iso = openRecord now slot StringRecord.atReset.iso := by
  obtain ⟨hstate, hholds, hiso, -⟩ := h.fields
  exact ⟨hstate, hholds, hiso⟩

end AtReset

/-- Settles O14. -/
theorem handOverSetsStrings : Obligations.HandOverSetsStrings := by
  intro dt closed answers s hphase hreset
  have hp : (s.elapse dt).smu.phase = .reading := hphase
  have hframe := (s.elapse dt).handOver_frame closed answers
  obtain ⟨t, ht, hlistening, hend, hlnc, hssu, hmem, hrsl⟩ := State.handOver_rest closed answers hp
  have hopens := State.handOver_opens closed answers hp
  have hwrites := State.handOver_writes closed answers hp
  have hat := State.handOver_at closed answers hp
  rw [(s.elapse dt).fittedStrings_filter (q := fun k => k.val < s.smu.strings ∧ closed.getD k.val false = true ∧
      ∃ v ∈ s.readSlot k (answers.getD k.val false), v ≠ .none ∧ v ≠ .stop) fun k => by
    rw [opensAtStart, Bool.and_eq_true, closedHold_isSome]
    rfl] at hopens
  rw [writesAtStart, (s.elapse dt).fittedStrings_filter (q := fun k => k.val < s.smu.strings ∧
      (s.readSlot k (answers.getD k.val false) = none ∨
        (closed.getD k.val false = true ∧ s.readSlot k (answers.getD k.val false) = some .stop))) fun k => by
    rw [asksNone_iff]
    rfl] at hwrites
  rw [ht] at hframe hopens hwrites hat
  refine ⟨t.settle, by rw [exec_handOver, ht], hlistening, hend, hlnc, hssu, hframe.keeps .eve (by decide), hframe.keeps .sel (by decide),
    hframe.keeps .prb (by decide), hframe.keeps .pvw (by decide), hmem, hrsl, hopens, hwrites, fun k => ⟨fun hk => ?_, fun hk => ?_⟩⟩
  · obtain ⟨hstring, htimers⟩ := (hat k).1 hk
    have hserved : StringRecord.atReset.Served (t.string k) := by
      rw [← hreset k]
      exact hstring
    exact ⟨hserved.elim id id, htimers⟩
  · obtain ⟨hcontact, hserved, htimers⟩ := (hat k).2 hk
    have hrecord : (initialRecord (s.now.plus dt) (closed.getD k.val false) (s.readSlot k (answers.getD k.val false)) StringRecord.atReset).Served (t.string k) := by
      rw [← hreset k]
      exact hserved
    refine ⟨hcontact, hrecord.fields.2.2.2.trans (initialRecord_memo _ _ _ _), (congrArg ReleaseString.recloseAt htimers).trans ?_, ?_⟩
    · exact initialRelease_recloseAt _ _ _ _ _
    dsimp only
    generalize s.readSlot k (answers.getD k.val false) = slot at hrecord ⊢
    cases hc : closed.getD k.val false with
    | true =>
      rw [hc] at hrecord
      refine ⟨served_closed_iso hrecord, ?_⟩
      rcases slot with _ | v
      · exact served_rests hrecord rfl
      · cases v with
        | none | stop => exact served_rests hrecord rfl
        | arc | ground | reverse | overcurrent | service => exact served_opens hrecord rfl
    | false =>
      rw [hc] at hrecord
      obtain ⟨hstate, hset⟩ := served_open hrecord
      refine ⟨hstate, ?_⟩
      rcases slot with _ | v
      · exact hset
      · cases v <;> exact hset

end Sys2Proof.Machine
